-- ==== Sys2Proof/Word.lean ====
section
/-! DEFINITION. The word types of the GV1536 (R4 to R6) and the shape of a register field (R4). -/

namespace Sys2Proof

/-- A word of host address space, of parameter memory and of MAC program memory: 32 bits (R6). -/
abbrev Word := BitVec 32

/-- A byte (R5). -/
abbrev Byte := BitVec 8

/-- A Q1.23 value: engine audio and control values, and the words of MAC cell X and Y memories (R6). -/
abbrev Q := BitVec 24

/-- A field of a register: the register's host address, the lowest bit and the width (R4). -/
structure Field where
  addr : Nat
  lo : Nat
  width : Nat
  deriving DecidableEq, Repr

end Sys2Proof
end

