-- ==== Sys2Proof/MacSyntax.lean ====
section
/-! DEFINITION. The MAC cell's instruction words by format (R203), with the fields of each format as the spec lays them
out (R206, R210, R215, R217 to R219). -/

namespace Sys2Proof

/-- The accumulator operations of R208, in the order of their codes 0x00 to 0x15. -/
inductive MacOp where
  | pmov | mpy | mpyn | mac | macn | ld | add | sub | neg | abs | clr | shl | shr | and | or | eor | cmp | max | min
  | clip | tap | tapn
  deriving DecidableEq, Repr

/-- An instruction word by format (R203). `arith` carries D, S and MV of R206; `mvx` bits [28:0] of R215; `illegal` a
reserved encoding (R228). -/
inductive MacIns where
  | nop
  | endPass
  | bra (target : BitVec 9)
  | bcc (cond : BitVec 4) (target : BitVec 9)
  | doLoop (count : BitVec 10) (stop : BitVec 9)
  | rep (count : BitVec 10)
  | repReg (reg : BitVec 6)
  | inj (src page : BitVec 3) (view : BitVec 1) (word : BitVec 6)
  | ldi (dst : BitVec 4) (imm : BitVec 24)
  | mvx (fields : BitVec 29)
  | move (dst src : BitVec 6)
  | arith (op : MacOp) (d : BitVec 1) (s : BitVec 3) (mv : BitVec 22)
  | illegal (word : Word)
  deriving DecidableEq, Repr

end Sys2Proof
end

