-- ==== Sys2Proof/Syntax.lean ====
section
/-! DEFINITION. The commands of the GV1536: one constructor per row of the table of operations and events, with the
operands the spec gives it. Each docstring names the row and its rule. -/

namespace Sys2Proof

/-- A cell that runs MAC programs: MC0 (0), MC1 (1) or the standby cell (2) of a block (R81, R165, R103). -/
structure MacUnit where
  r : Fin 4
  b : Fin 24
  u : Fin 3
  deriving DecidableEq, Repr

/-- The words whose reads fail their parity check in one MAC pass or in the passes of one glaze slot's cell (R558): program
addresses (or mode and route words by generator, operator or route number), and words of the X and Y spaces. -/
structure CellParity where
  code : List (BitVec 9)
  x : List (BitVec 10)
  y : List (BitVec 10)
  deriving DecidableEq, Repr

/-- A read of the March test (R451): its run (true: the checkerboard), its element less 1 (M1 to M5), the word of the row group,
and the 39 bits that it returns. -/
structure MarchRead where
  run : Bool
  elem : Fin 5
  word : BitVec 8
  value : BitVec 39
  deriving DecidableEq, Repr

/-- What an xSPI port meets at boot (R529 step 0x07): a device answers, its SFDP table is valid and gives DUMMY, and its
8D-8D-8D read check passes. -/
structure PortEnv where
  answers : Bool
  sfdp : Bool
  ddr : Bool
  dummy : BitVec 6
  deriving DecidableEq, Repr, Inhabited

/-- A finding of the quick test of R529 step 0x09, in the coding of KIND, UNIT and WHERE of R566. -/
structure Finding where
  kind : Nat
  unit : Nat
  loc : Nat
  deriving DecidableEq, Repr, Inhabited

/-- What the outside world and the silicon show the boot sequencer in one attempt (R529): straps, bucks that reach regulation
(BKC, BKA, bit n of bk BKn), the frequency at XTI in Hz (0 no edges) and EPLL lock at CLOCK level 0 and 1, APLL lock, eFuse
copies and store that check, the ports, the quick test's findings, the microseconds of the attempt, and a step that has not
ended yet (a BOOT_STEP_TIMEOUT or a reset then follows). -/
structure BootEnv where
  straps : BitVec 3
  bkc : Bool
  bka : Bool
  bk : BitVec 4
  xti0 : Nat
  xti1 : Nat
  epll0 : Bool
  epll1 : Bool
  apll : Bool
  fuse0 : Bool
  fuse1 : Bool
  store : Bool
  xa : PortEnv
  xb : PortEnv
  findings : List Finding
  us : Nat
  stall : Option Nat
  deriving DecidableEq, Repr, Inhabited

/-- A register write as it lands: its value, and the W1C bits whose setting event falls in its cycle (R10). -/
structure RegWrite where
  value : Word
  same : Word
  deriving DecidableEq, Repr, Inhabited

/-- What a serial frame shows a tracking loop (R402): the phase error, and the master's own ratio as SA_RATIO codes it. -/
structure FrameClock where
  err : BitVec 16
  master : Word
  deriving DecidableEq, Repr, Inhabited

/-- The commands. -/
inductive Instr where
  /-- REGISTER_WRITE (R8, R10). -/
  | registerWrite (dma : Bool) (addr : Word) (write : RegWrite)
  /-- SAMPLE_BOUNDARY (R30). -/
  | sampleBoundary
  /-- CONTOUR_PASS (R230). -/
  | contourPass (r : Fin 4) (b : Fin 24) (s : Fin 16) (bad : List (Fin 8))
  /-- MATRIX_PASS (R249). -/
  | matrixPass (r : Fin 4) (b : Fin 24) (s : Fin 16) (bad : List (Fin 32))
  /-- PHASE_PASS (R129). -/
  | phasePass (r : Fin 4) (b : Fin 24) (u : Fin 4) (s : Fin 16) (bad : List (Fin 4))
  /-- MAC_PASS (R188). -/
  | macPass (c : MacUnit) (s : Fin 16) (bad : CellParity)
  /-- GLAZE_PASS (R103). -/
  | glazePass (r : Fin 4) (b : Fin 24) (g : Fin 2) (cell : Fin 8) (bad : CellParity)
  /-- NOP (R219). -/
  | nop (c : MacUnit)
  /-- END (R220). -/
  | endPass (c : MacUnit)
  /-- BRA (R221). -/
  | bra (c : MacUnit) (target : BitVec 9)
  /-- BCC (R221). -/
  | bcc (c : MacUnit) (cond : BitVec 4) (target : BitVec 9)
  /-- DO (R222). -/
  | doLoop (c : MacUnit) (count : BitVec 10) (stop : BitVec 9)
  /-- REP (R223). -/
  | rep (c : MacUnit) (count : BitVec 10)
  /-- REP_FROM_REGISTER (R223). -/
  | repFromRegister (c : MacUnit) (reg : BitVec 6)
  /-- INJ (R224). -/
  | inj (c : MacUnit) (src : BitVec 3) (page : BitVec 3) (view : BitVec 1) (word : BitVec 6)
  /-- LDI (R217). -/
  | ldi (c : MacUnit) (dst : BitVec 4) (imm : BitVec 24)
  /-- MVX (R215). -/
  | mvx (c : MacUnit) (fields : BitVec 29)
  /-- MOVE (R218). -/
  | move (c : MacUnit) (dst : BitVec 6) (src : BitVec 6)
  /-- PMOV (R208). -/
  | pmovOp (c : MacUnit) (d : BitVec 1) (s : BitVec 3) (mv : BitVec 22)
  /-- MPY (R208). -/
  | mpyOp (c : MacUnit) (d : BitVec 1) (s : BitVec 3) (mv : BitVec 22)
  /-- MPYN (R208). -/
  | mpynOp (c : MacUnit) (d : BitVec 1) (s : BitVec 3) (mv : BitVec 22)
  /-- MAC (R208). -/
  | macOp (c : MacUnit) (d : BitVec 1) (s : BitVec 3) (mv : BitVec 22)
  /-- MACN (R208). -/
  | macnOp (c : MacUnit) (d : BitVec 1) (s : BitVec 3) (mv : BitVec 22)
  /-- LD (R208). -/
  | ldOp (c : MacUnit) (d : BitVec 1) (s : BitVec 3) (mv : BitVec 22)
  /-- ADD (R208). -/
  | addOp (c : MacUnit) (d : BitVec 1) (s : BitVec 3) (mv : BitVec 22)
  /-- SUB (R208). -/
  | subOp (c : MacUnit) (d : BitVec 1) (s : BitVec 3) (mv : BitVec 22)
  /-- NEG (R208). -/
  | negOp (c : MacUnit) (d : BitVec 1) (s : BitVec 3) (mv : BitVec 22)
  /-- ABS (R208). -/
  | absOp (c : MacUnit) (d : BitVec 1) (s : BitVec 3) (mv : BitVec 22)
  /-- CLR (R208). -/
  | clrOp (c : MacUnit) (d : BitVec 1) (s : BitVec 3) (mv : BitVec 22)
  /-- SHL (R208). -/
  | shlOp (c : MacUnit) (d : BitVec 1) (s : BitVec 3) (mv : BitVec 22)
  /-- SHR (R208). -/
  | shrOp (c : MacUnit) (d : BitVec 1) (s : BitVec 3) (mv : BitVec 22)
  /-- AND (R208). -/
  | andOp (c : MacUnit) (d : BitVec 1) (s : BitVec 3) (mv : BitVec 22)
  /-- OR (R208). -/
  | orOp (c : MacUnit) (d : BitVec 1) (s : BitVec 3) (mv : BitVec 22)
  /-- EOR (R208). -/
  | eorOp (c : MacUnit) (d : BitVec 1) (s : BitVec 3) (mv : BitVec 22)
  /-- CMP (R208). -/
  | cmpOp (c : MacUnit) (d : BitVec 1) (s : BitVec 3) (mv : BitVec 22)
  /-- MAX (R208). -/
  | maxOp (c : MacUnit) (d : BitVec 1) (s : BitVec 3) (mv : BitVec 22)
  /-- MIN (R208). -/
  | minOp (c : MacUnit) (d : BitVec 1) (s : BitVec 3) (mv : BitVec 22)
  /-- CLIP (R208). -/
  | clipOp (c : MacUnit) (d : BitVec 1) (s : BitVec 3) (mv : BitVec 22)
  /-- TAP (R214). -/
  | tapOp (c : MacUnit) (d : BitVec 1) (s : BitVec 3) (mv : BitVec 22)
  /-- TAPN (R214). -/
  | tapnOp (c : MacUnit) (d : BitVec 1) (s : BitVec 3) (mv : BitVec 22)
  /-- ILLEGAL (R228). -/
  | illegal (c : MacUnit) (word : Word)
  /-- INJECTION_DELIVERY (R193). -/
  | injectionDelivery (c : MacUnit)
  /-- FENCE_TAKE (R195). -/
  | fenceTake (c : MacUnit)
  /-- HALT_TAKE (R194). -/
  | haltTake (c : MacUnit)
  /-- BUDGET_CUT (R90). -/
  | budgetCut (c : MacUnit)
  /-- BUDGET_RAMP_END (R91). -/
  | budgetRampEnd (r : Fin 4) (b : Fin 24) (s : Fin 16)
  /-- GLAZE_END (R106). -/
  | glazeEnd (r : Fin 4) (b : Fin 24) (s : Fin 18)
  /-- TAIL_END (R314). -/
  | tailEnd (r : Fin 4) (b : Fin 24) (s : Fin 16)
  /-- BLK_LOAD_REQUEST (R110). -/
  | blkLoadRequest (r : Fin 4) (b : Fin 24) (value : Word)
  /-- BLOCK_DISABLE (R120). -/
  | blockDisable (r : Fin 4) (b : Fin 24)
  /-- BLOCK_ENABLE (R120). -/
  | blockEnable (r : Fin 4) (b : Fin 24)
  /-- BLOCK_DRAIN_END (R120). -/
  | blockDrainEnd (r : Fin 4) (b : Fin 24)
  /-- TEMPLATE_LOAD (R111). -/
  | templateLoad (r : Fin 4)
  /-- TEMPLATE_LOAD_DONE (R111). -/
  | templateLoadDone (r : Fin 4)
  /-- BLOCK_WAKE (R119). -/
  | blockWake (r : Fin 4)
  /-- BLOCK_WAKE_DONE (R119). -/
  | blockWakeDone (r : Fin 4)
  /-- BLOCK_POWER_GATE (R118). -/
  | blockPowerGate (r : Fin 4) (b : Fin 24)
  /-- CACHE_REFILL_DONE (R116). -/
  | cacheRefillDone (r : Fin 4) (b : Fin 24) (line : BitVec 16)
  /-- MDAT_READ (R199). -/
  | mdatRead (r : Fin 4) (b : Fin 24)
  /-- MDAT_WRITE (R199). -/
  | mdatWrite (r : Fin 4) (b : Fin 24) (value : Word)
  /-- TBLOAD (R32). -/
  | tbload
  /-- TB_LOAD_APPLY (R32). -/
  | tbLoadApply
  /-- TBL_READ (R31). -/
  | tblRead (dma : Bool)
  /-- ESTOP_SET (R29). -/
  | estopSet
  /-- ENGINE_STOP_FADE_END (R29). -/
  | engineStopFadeEnd
  /-- ESTOP_CLEAR (R29). -/
  | estopClear
  /-- EMODE_WRITE (R28). -/
  | emodeWrite (mode : BitVec 2)
  /-- PLL_LOCK_LOSS (R26). -/
  | pllLockLoss (pll : Fin 3)
  /-- FSYNC_GROUP_EDGE (R36). -/
  | fsyncGroupEdge (err : Word)
  /-- FSYNC_TIMEOUT (R37). -/
  | fsyncTimeout
  /-- HOST_FRAME_ACCEPT (R266). -/
  | hostFrameAccept (lane : Fin 3) (ump later : Bool) (words : List Word)
  /-- EASEL_SERVICE (R261). -/
  | easelService
  /-- FRAME_NOP (R263). -/
  | frameNop (w0 : Word) (w1 : Word) (w2 : Word)
  /-- NOTE_ON (R311). -/
  | noteOn (w0 : Word) (w1 : Word) (w2 : Word)
  /-- NOTE_OFF (R319). -/
  | noteOff (w0 : Word) (w1 : Word) (w2 : Word)
  /-- NOTE_CTL (R265). -/
  | noteCtl (w0 : Word) (w1 : Word) (w2 : Word)
  /-- PART_WORD (R265). -/
  | partWord (w0 : Word) (w1 : Word) (w2 : Word)
  /-- VOICE_WORD (R265). -/
  | voiceWord (w0 : Word) (w1 : Word) (w2 : Word)
  /-- BULK (R265). -/
  | bulk (w0 : Word) (w1 : Word) (w2 : Word) (data : List Word)
  /-- CANCEL (R324). -/
  | cancel (w0 : Word) (w1 : Word) (w2 : Word)
  /-- ALL_OFF (R319). -/
  | allOff (w0 : Word) (w1 : Word) (w2 : Word)
  /-- ALL_SOUND_OFF (R319). -/
  | allSoundOff (w0 : Word) (w1 : Word) (w2 : Word)
  /-- SUSTAIN (R276). -/
  | sustain (w0 : Word) (w1 : Word) (w2 : Word)
  /-- TIMED_STORE_RELEASE (R280). -/
  | timedStoreRelease
  /-- READY_LIST_WRITE (R284). -/
  | readyListWrite (r : Fin 4)
  /-- EVICT_LOAD (R316). -/
  | evictLoad (r : Fin 4) (b : Fin 24)
  /-- UMP_PACKET (R268). -/
  | umpPacket (lane : Fin 3) (words : List Word)
  /-- JR_CLOCK (R270). -/
  | jrClock (group : BitVec 4) (time : BitVec 16)
  /-- JR_TIMESTAMP (R270). -/
  | jrTimestamp (lane : Fin 3) (group : BitVec 4) (time : BitVec 16)
  /-- MIDI_BYTE (R272). -/
  | midiByte (port : Fin 4) (byte : Byte) (framingBad : Bool)
  /-- ACTIVE_SENSING_TIMEOUT (R273). -/
  | activeSensingTimeout (port : Fin 4)
  /-- DETECTOR_EVENT (R286). -/
  | detectorEvent (c : Fin 16) (release : Bool) (peak : BitVec 16)
  /-- MOTX_WRITE (R288). -/
  | motxWrite (o : Fin 2) (byte : Byte)
  /-- MIDI_OUT_BYTE (R287). -/
  | midiOutByte (o : Fin 2)
  /-- PART_CREATE (R301). -/
  | partCreate (p : BitVec 6)
  /-- PART_DESTROY (R303). -/
  | partDestroy (p : BitVec 6)
  /-- PART_DESTROY_GLAZE (R303). -/
  | partDestroyGlaze (p : BitVec 6)
  /-- ENTRY_RETURN (R655). -/
  | entryReturn
  /-- BUS_GAIN_WRITE (R343). -/
  | busGainWrite (i : Fin 96) (value : Word)
  /-- BLOCK_FADE_END (R350). -/
  | blockFadeEnd (r : Fin 4) (b : Fin 24)
  /-- AO_ENABLE (R361). -/
  | aoEnable (k : Fin 16)
  /-- AO_DISABLE (R361). -/
  | aoDisable (k : Fin 16)
  /-- AO_MUTE (R362). -/
  | aoMute (k : Fin 16)
  /-- AO_UNMUTE (R362). -/
  | aoUnmute (k : Fin 16)
  /-- AO_RAMP_END (R361). -/
  | aoRampEnd (k : Fin 16)
  /-- AO_CURRENT_LIMIT (R363). -/
  | aoCurrentLimit (k : Fin 16)
  /-- CV_UPDATE (R368). -/
  | cvUpdate (c : Fin 32)
  /-- CV_CODE_WRITE (R370). -/
  | cvCodeWrite (c : Fin 32) (code : BitVec 16)
  /-- CV_SPAN_WRITE (R365). -/
  | cvSpanWrite (c : Fin 32) (span : BitVec 3)
  /-- CV_SPAN_CLAMP_END (R375). -/
  | cvSpanClampEnd (c : Fin 32)
  /-- CV_DISABLE (R377). -/
  | cvDisable (c : Fin 32)
  /-- CV_RAMP_END (R377). -/
  | cvRampEnd (c : Fin 32)
  /-- DEGLITCH_HOLD_END (R371). -/
  | deglitchHoldEnd (c : Fin 32)
  /-- CV_CURRENT_LIMIT (R373). -/
  | cvCurrentLimit (c : Fin 32)
  /-- VNEG_OK_RISE (R378). -/
  | vnegOkRise
  /-- VNEG_OK_FALL (R378). -/
  | vnegOkFall
  /-- CHARGE_PUMP_STOP (R378). -/
  | chargePumpStop
  /-- CV_PHRST (R379). -/
  | cvPhrst (mask : Word)
  /-- CV_GROUP_PRST (R380). -/
  | cvGroupPrst (g : Fin 4)
  /-- CV_CHECK (R564). -/
  | cvCheck (g : Fin 4) (differs : Bool) (agrees : Bool)
  /-- AI_SYNC (R393). -/
  | aiSync (mask : BitVec 16)
  /-- AI_ENABLE (R389). -/
  | aiEnable (c : Fin 16)
  /-- AI_DISABLE (R408). -/
  | aiDisable (c : Fin 16)
  /-- AI_RESP_WRITE (R396). -/
  | aiRespWrite (c : Fin 16) (resp : BitVec 3)
  /-- XFADE_END (R396). -/
  | xfadeEnd (c : Fin 16)
  /-- DECIM_OUTPUT (R390). -/
  | decimOutput (c : Fin 16) (y : Word) (yNew : Word) (mods : Word) (ovl : Bool)
  /-- AI_DELIVER (R407). -/
  | aiDeliver (c : Fin 16) (y : Q)
  /-- AI_DATA_READ (R407). -/
  | aiDataRead (c : Fin 16)
  /-- DECIM_FAULT (R565). -/
  | decimFault (c : Fin 16)
  /-- SA_ENABLE (R420). -/
  | saEnable (p : Fin 4)
  /-- SA_DISABLE (R430). -/
  | saDisable (p : Fin 4)
  /-- SA_FADE_END (R430). -/
  | saFadeEnd (p : Fin 4)
  /-- SA_FRAME (R426). -/
  | saFrame (p : Fin 4) (words : List Word) (clock : FrameClock)
  /-- SA_LOOP_TIMEOUT (R402). -/
  | saLoopTimeout (p : Fin 4)
  /-- SA_DATA_READ (R431). -/
  | saDataRead (q : Fin 2)
  /-- WRITE_BUFFER_LAND (R443). -/
  | writeBufferLand (r : Fin 4)
  /-- FENCE_READ (R444). -/
  | fenceRead (r : Fin 4) (dma : Bool)
  /-- FENCE_READ_COMPLETE (R444). -/
  | fenceReadComplete (r : Fin 4)
  /-- ECC_CORRECT (R446). -/
  | eccCorrect (k : Fin 8) (word : BitVec 19)
  /-- ECC_UNCORRECTABLE (R447). -/
  | eccUncorrectable (k : Fin 8) (word : BitVec 19)
  /-- BANK_WAKE (R445). -/
  | bankWake (r : Fin 4)
  /-- BANK_RETENTION_RETURN (R445). -/
  | bankRetentionReturn (r : Fin 4)
  /-- RESTORER_STEP (R450). -/
  | restorerStep
  /-- XS_PAGE_PROGRAM (R458). -/
  | xsPageProgram (x : Fin 2) (count : Byte)
  /-- XS_ERASE_4K (R458). -/
  | xsErase4k (x : Fin 2)
  /-- XS_ERASE_64K (R458). -/
  | xsErase64k (x : Fin 2)
  /-- XS_READ_STATUS (R458). -/
  | xsReadStatus (x : Fin 2) (status : Byte)
  /-- XS_CMD_DONE (R458). -/
  | xsCmdDone (x : Fin 2) (ready : Bool)
  /-- XS_DATA_WRITE (R466). -/
  | xsDataWrite (x : Fin 2) (value : Word)
  /-- XS_PROTO_WRITE (R455). -/
  | xsProtoWrite (x : Fin 2)
  /-- XSPI_READ_FAIL (R455). -/
  | xspiReadFail (x : Fin 2)
  /-- STREAM_REFILL (R461). -/
  | streamRefill (x : Fin 2)
  /-- DMA_START (R467). -/
  | dmaStart (n : Fin 16)
  /-- DMA_STOP (R479). -/
  | dmaStop (n : Fin 16)
  /-- DMA_BURST (R475); left out, `same` is 0: no event of its words' cycles. -/
  | dmaBurst (same : Word := 0)
  /-- TRIGGER_PULSE (R485). -/
  | triggerPulse (l : Fin 32)
  /-- TRGSW_WRITE (R485). -/
  | trgswWrite (mask : Word)
  /-- GP_EDGE (R34). -/
  | gpEdge (pin : Fin 8) (level : Bool)
  /-- TIMER_TICK (R486). -/
  | timerTick (n : Fin 16)
  /-- TIMER_RESET (R487). -/
  | timerReset (n : Fin 16)
  /-- TIMER_CNT_WRITE (R488). -/
  | timerCntWrite (n : Fin 16) (value : Word)
  /-- TIMER_CMP1_WRITE (R490). -/
  | timerCmp1Write (n : Fin 16) (value : Word)
  /-- TIMER_PER_WRITE (R491). -/
  | timerPerWrite (n : Fin 16) (value : Word)
  /-- TIMER_CAPTURE (R493). -/
  | timerCapture (n : Fin 16)
  /-- TIMER_CAP_READ (R494). -/
  | timerCapRead (n : Fin 16) (dma : Bool)
  /-- TIMER_CNT_READ (R495). -/
  | timerCntRead (n : Fin 16) (dma : Bool)
  /-- TEMPO_START (R497). -/
  | tempoStart
  /-- TEMPO_STOP (R497). -/
  | tempoStop
  /-- TEMPO_CONT (R497). -/
  | tempoCont
  /-- TEMPO_TICK (R496). -/
  | tempoTick
  /-- WR (R507). -/
  | wr (addr : Word) (words : List Word) (cut : Bool)
  /-- WRF (R507). -/
  | wrf (addr : Word) (words : List Word) (cut : Bool)
  /-- RD (R510): `count` words are read; `cut` where the transaction ends before the last of them is delivered (R511). -/
  | rd (addr : Word) (count : Nat) (cut : Bool)
  /-- RDF (R510): as RD. -/
  | rdf (addr : Word) (count : Nat) (cut : Bool)
  /-- EVA (R515). -/
  | eva (selector : Word) (words : List Word) (cut : Bool)
  /-- EVB (R515). -/
  | evb (selector : Word) (words : List Word) (cut : Bool)
  /-- EVC (R515). -/
  | evc (selector : Word) (words : List Word) (cut : Bool)
  /-- HOST_NOP (R507); left out, `cut` is false: the status byte ends before HCSN rises. -/
  | hostNop (cut : Bool := false)
  /-- WIDTH_RESET (R504). -/
  | widthReset
  /-- UNKNOWN_COMMAND (R507). -/
  | unknownCommand (cmd : Byte)
  /-- POSTED_WRITE_LAND (R657); left out, `same` is 0: no event of the word's cycle. -/
  | postedWriteLand (same : Word := 0)
  /-- EVC_RAISE (R522). -/
  | evcRaise (i : BitVec 7)
  /-- EVENT_SOURCE_RAISE (R519). -/
  | eventSourceRaise (i : BitVec 7)
  /-- VIN_LOSS (R526). -/
  | vinLoss
  /-- BROWN_OUT (R526). -/
  | brownOut (env : BootEnv)
  /-- PIN_RESET (R526). -/
  | pinReset (env : BootEnv)
  /-- SOFTWARE_RESET (R526). -/
  | softwareReset (value : Word) (env : BootEnv)
  /-- FAULT_RESET (R563). -/
  | faultReset (logic : Bool) (env : BootEnv)
  /-- TAP_RESET (R526). -/
  | tapReset
  /-- VIO_LOSS (R593). -/
  | vioLoss (env : BootEnv)
  /-- BOOT_STEP_TIMEOUT (R531). -/
  | bootStepTimeout (env : BootEnv)
  /-- BOOT_CONT (R542). -/
  | bootCont (value : Word) (env : BootEnv)
  /-- BOOT_LOAD (R543). -/
  | bootLoad (value : Word) (env : BootEnv)
  /-- RUNTIME_LOAD_END (R543). -/
  | runtimeLoadEnd
  /-- CLRHIST (R532). -/
  | clrhist (value : Word)
  /-- JOURNAL_WRITE (R567). -/
  | journalWrite
  /-- JOURNAL_COMMIT (R567). -/
  | journalCommit
  /-- JOURNAL_WRITE_DONE (R541). -/
  | journalWriteDone (ready : Bool)
  /-- PORT_B_REVOKE (R549). -/
  | portBRevoke (r : Fin 4) (master : Fin 4)
  /-- DISPATCH_REVOKE (R549). -/
  | dispatchRevoke (r : Fin 4) (b : Fin 24)
  /-- LOAD_PATH_REVOKE (R549). -/
  | loadPathRevoke (r : Fin 4)
  /-- XSPI_COMMAND_REVOKE (R549). -/
  | xspiCommandRevoke (x : Fin 2)
  /-- CELL_STEP (R552). -/
  | cellStep
  /-- CELL_HANDOVER (R553). -/
  | cellHandover (differs : Bool)
  /-- CELL_TEST_DONE (R555). -/
  | cellTestDone (fails : Bool)
  /-- CELL_HANDBACK (R553). -/
  | cellHandback (differs : Bool)
  /-- BUCK_FAULT (R597). -/
  | buckFault (k : Fin 6)
  /-- BUCK_CURRENT_LIMIT (R597). -/
  | buckCurrentLimit (k : Fin 6)
  /-- BKA_RESTART (R597). -/
  | bkaRestart (regulates : Bool)
  /-- VIN_MEASURE (R594). -/
  | vinMeasure (mv : BitVec 16)
  /-- TEMP_MEASURE (R607). -/
  | tempMeasure (celsius : BitVec 16)
  /-- SLACK_CHECK (R600). -/
  | slackCheck (r : Fin 4) (short : Bool)
  /-- OP_POINT_FALL (R599). -/
  | opPointFall (r : Fin 4)
  /-- REGION_DOZE (R601). -/
  | regionDoze (r : Fin 4)
  /-- HOLD_REQUEST (R603). -/
  | holdRequest (key : BitVec 16)
  /-- HOLD_ENTERED (R604). -/
  | holdEntered
  /-- HOLD_EXIT (R606). -/
  | holdExit (key : BitVec 16)
  /-- HOLD_WAKE_MIDI (R606). -/
  | holdWakeMidi (i : Fin 4)
  /-- HOLD_WAKE_GP (R606). -/
  | holdWakeGp (pin : Fin 8) (rising : Bool)
  /-- HOLD_EXIT_DONE (R606). -/
  | holdExitDone
  /-- SAF_PROVISION_SLOT (R577). -/
  | safProvisionSlot (key : BitVec 16) (slot : Fin 4)
  /-- SAF_REVOKE_SLOT (R577). -/
  | safRevokeSlot (key : BitVec 16) (slot : Fin 4)
  /-- SAF_SET_SIGNREQ (R577). -/
  | safSetSignreq (key : BitVec 16)
  /-- SAF_PROVISION_DEBUG_KEY (R577). -/
  | safProvisionDebugKey (key : BitVec 16)
  /-- SAF_SET_DBGDIS (R577). -/
  | safSetDbgdis (key : BitVec 16)
  /-- SAF_CMD_DONE (R578). -/
  | safCmdDone (storeOk : Bool)
  /-- DBG_CHAL (R583). -/
  | dbgChal
  /-- DBG_CHAL_EXPIRE (R583). -/
  | dbgChalExpire
  /-- DBG_VERIFY (R583). -/
  | dbgVerify
  /-- DBG_UNLOCK_DONE (R585). -/
  | dbgUnlockDone
  /-- DBG_LOCK (R586). -/
  | dbgLock
  /-- DBG_HALT_WRITE (R587). -/
  | dbgHaltWrite (value : Word)
  /-- EXTEST (R581). -/
  | extest (shift : BitVec 171)
  /-- SAMPLE_PRELOAD (R581). -/
  | samplePreload (pins : BitVec 57) (shift : BitVec 171)
  /-- IDCODE (R581). -/
  | idcode
  /-- HIGHZ (R581). -/
  | highz
  /-- CLAMP (R581). -/
  | clamp
  /-- BYPASS (R581). -/
  | bypass (code : BitVec 5)
  /-- DBGACC (R582); left out, `same` is 0: no event of the write's cycle. -/
  | dbgacc (shift : BitVec 66) (same : Word := 0)
  /-- VIN_RISING (R609). -/
  | vinRising
  /-- BKC_RETURN (R597). -/
  | bkcReturn (env : BootEnv)
  /-- BANK_WAKE_END (R445). -/
  | bankWakeEnd (r : Fin 4)
  /-- RESTORER_STEP_DONE (R450): `reads` are the March test's reads that may not have returned what was written (R451). -/
  | restorerStepDone (reads : List MarchRead)
  /-- CELL_HOLD_TIMEOUT (R552). -/
  | cellHoldTimeout
  deriving DecidableEq, Repr

end Sys2Proof
end

