-- ==== Sys2Proof/Decode.lean ====
section
/-! DEFINITION. The decoder over the bits that the table of operations gives its rows: it gives none of its rows any, so
no word spells a command. (The words of MAC programs are decoded in Machine/MacWord.lean.) -/

namespace Sys2Proof

/-- The command that a word of `nbits` bits spells by the table's bits. -/
def decodeTableWord (nbits w : Nat) : Option Instr :=
  match nbits, w with
  | _, _ => none

/-- The command that a host transaction's command byte names (R507), with the transaction's address, the words it writes or the number
it reads, and whether it ends partway. -/
def hostCommand (cmd : Byte) (address : Word) (words : List Word) (count : Nat) (cut : Bool) : Instr :=
  match cmd.toNat with
  | 0x00 => .hostNop cut
  | 0x02 => .wr address words cut
  | 0x12 => .wrf address words cut
  | 0x0B => .rd address count cut
  | 0x1B => .rdf address count cut
  | 0x20 => .eva address words cut
  | 0x21 => .evb address words cut
  | 0x22 => .evc address words cut
  | 0xFF => .widthReset
  | _ => .unknownCommand cmd

end Sys2Proof
end

