-- ==== Sys2Proof/Config.lean ====
section
/-! DEFINITION. What one device fixes and the spec leaves open: the free values. None has a body, so nothing in
Lean can evaluate one or prove a value of it. Each is applied to the counter of State that the command advances and to
a number naming the place of use, so that two uses are two values (assumption 2). -/

namespace Sys2Proof.Config

/-- A value of the chip's Pepper source (R656): one 32-bit draw. -/
opaque pepper : Nat → Nat → BitVec 32

/-- A value the spec leaves open within a bound it states, before the bound is applied (R12, R139, R236 and the like). -/
opaque freeInt : Nat → Nat → Int

/-- An unpredictable value (R11). -/
opaque freeWord : Nat → Nat → BitVec 32

/-- One of several named outcomes (R12). -/
opaque freeBool : Nat → Nat → Bool

/-- A byte of a fresh random debug challenge (R583). -/
opaque entropy : Nat → Nat → BitVec 8

/-- The device key, written at manufacture and never readable (R576). -/
opaque deviceKey : BitVec 256

/-- How the device identifier is derived from the device key (R576). -/
opaque deriveUid : BitVec 256 → Nat → BitVec 32

/-- The words of the device identifier (R576). -/
def uid (i : Nat) : BitVec 32 := deriveUid deviceKey i

/-- The resampler of R399 at one output: the source values in its taps, newest first, and the output's place between two of them in
units of 2⁻²⁸; the spec gives bounds of its response and no coefficients (assumption 21). -/
opaque resample : List (BitVec 24) → Nat → BitVec 24

/-- The integrator of a tracking loop (R402) after a frame: of its bandwidth code, the phase error and the integrator before
(assumption 21). -/
opaque loopInteg : Nat → Int → Int → Int

/-- The ratio of a tracking loop (R402) after a frame: of its bandwidth code, the phase error and the integrator
(assumption 21). -/
opaque loopRatio : Nat → Int → Int → Int

/-- What a boot attempt meets that no command describes, as when a register write starts one (R526). -/
opaque bootEnv : Nat → Sys2Proof.BootEnv

end Sys2Proof.Config
end

