-- ==== Sys2Proof/Machine/Numeric.lean ====
section
/-! DEFINITION. The arithmetic the cells share: saturation, truncating products (R147, R254), powers of two (R139,
R235, R242), the sine (R149), the curves (R236), square roots and CRC-32 (R70). Everything is computed in
exact integers and narrowed at the end. -/

namespace Sys2Proof.Machine

/-- Clamp an integer to `lo … hi`. -/
def clampInt (lo hi x : Int) : Int := if x < lo then lo else if hi < x then hi else x

/-- Saturate to Q1.23. -/
def satQ (x : Int) : Q := BitVec.ofInt 24 (clampInt (-0x800000) 0x7FFFFF x)

/-- Saturate to a signed 32-bit value. -/
def sat32 (x : Int) : Int := clampInt (-0x80000000) 0x7FFFFFFF x

/-- Saturate to a signed value of `w` bits. -/
def satBits (w : Nat) (x : Int) : BitVec w := BitVec.ofInt w (clampInt (-(2 ^ (w - 1) : Nat)) ((2 ^ (w - 1) : Nat) - 1) x)

/-- The product of two Q1.23 values, truncated toward minus infinity and saturated (R147). -/
def mulQ (a b : Q) : Q := satQ (a.toInt * b.toInt / 0x800000)

/-- 1.0 in Q1.23, saturated. -/
def oneQ : Q := 0x7FFFFF

/-- Read bits [23:0] of a word as Q1.23 (R252). -/
def wordQ (w : Word) : Q := w.setWidth 24

/-- A free deviation of at most `b` in magnitude (R139 and the other stated bounds).
DESIGN CHOICE (assumption 2). DESIGN CHOICE (assumption 41). -/
def freeDev (ctr site : Nat) (b : Nat) : Int := clampInt (-(b : Int)) b (Config.freeInt ctr site)

/-- ⌈a ÷ b⌉ of naturals; `b` 0 gives 0. -/
def ceilDiv (a b : Nat) : Nat := if b = 0 then 0 else (a + b - 1) / b

/-- The Taylor sum of e^z, `z` and the result in units of 2⁻⁶⁴; `n` terms from term `k` on, `term` the k-th. -/
def expTail (z : Nat) : Nat → Nat → Nat → Nat
  | 0, _, _ => 0
  | n + 1, k, term => term + expTail z n (k + 1) (term * z / 2 ^ 64 / (k + 1))

/-- 2^(f ÷ 2⁶⁴) for f below 2⁶⁴, in units of 2⁻⁶⁴ (ln 2 × 2⁶⁴ is 12,786,308,645,202,655,659). -/
def exp2Frac (f : Nat) : Nat :=
  if f = 0 then 2 ^ 64 else expTail (f * 12786308645202655659 / 2 ^ 64) 26 0 (2 ^ 64)

/-- x × 2^k for an integer k, truncated. -/
def shiftNat (x : Nat) (k : Int) : Nat := if 0 ≤ k then x * 2 ^ k.toNat else x / 2 ^ (-k).toNat

/-- ⌊c × 2^(num ÷ den) ÷ d⌋, the fraction of the exponent held to 64 bits; exact when den divides num. -/
def mulExp2 (c : Nat) (num : Int) (den d : Nat) : Nat :=
  let k := num / (den : Int)
  let r := (num - k * den).toNat
  let m := exp2Frac (r * 2 ^ 64 / den)
  shiftNat (c * m) (k - 64) / (if d = 0 then 1 else d)

/-- ⌈c × 2^(num ÷ den) ÷ d⌉, as mulExp2. -/
def mulExp2Ceil (c : Nat) (num : Int) (den d : Nat) : Nat :=
  let k := num / (den : Int)
  let r := (num - k * den).toNat
  let m := exp2Frac (r * 2 ^ 64 / den)
  if 0 ≤ k - 64 then ceilDiv (c * m * 2 ^ (k - 64).toNat) d else ceilDiv (c * m) (d * 2 ^ (64 - k).toNat)

/-- The Taylor sum of sin x, x and the result in units of 2⁻⁶⁰. -/
def sinTail (x2 : Int) : Nat → Nat → Int → Int
  | 0, _, _ => 0
  | n + 1, k, term => term + sinTail x2 n (k + 2) (-(term * x2 / 2 ^ 60 / ((k + 1) * (k + 2))))

/-- sin(2π × p ÷ 2³²) in units of 2⁻⁶⁰ (π ÷ 2 × 2⁶⁰ is 1,811,004,864,519,280,710). -/
def sinFix (p : Word) : Int :=
  let q : Nat := p.toNat / 2 ^ 30
  let r : Nat := p.toNat % 2 ^ 30
  let a : Nat := if q % 2 = 1 then 2 ^ 30 - r else r
  let x : Int := 1811004864519280710 * a / 2 ^ 30
  let s := sinTail (x * x / 2 ^ 60) 14 1 x
  if q ≥ 2 then -s else s

/-- The sine at full scale, in Q1.23 units, within 2⁻²² of the formula (R149): a free deviation that keeps it within
2 units of the last place of the target. A target this computation puts within 2⁻³⁰ of a whole unit is taken
as that unit. At its peak the value is 0x7F_FFFF. -/
def sineQ (ctr site : Nat) (p : Word) : Q :=
  let t0 := sinFix p * 0x800000
  let r := (t0 + 2 ^ 59) / 2 ^ 60
  let t := if (t0 - r * 2 ^ 60).natAbs < 2 ^ 30 then r * 2 ^ 60 else t0
  let lo := -(-t / 2 ^ 60) - 2
  let hi := t / 2 ^ 60 + 2
  if p = 0x40000000 then 0x7FFFFF else satQ (clampInt lo hi (t / 2 ^ 60 + freeDev ctr site 2))

/-- The curve of R236 at u ÷ 2³², in units of 2⁻⁴⁰, by the formula alone. -/
def curveExact (curve u : Nat) : Int :=
  let u := min u (2 ^ 32)
  if curve = 0 then (u * 2 ^ 8 : Nat)
  else if curve = 8 then ((3 * u * u * 2 ^ 32 - 2 * u * u * u) / 2 ^ 56 : Nat)
  else
    let a := if curve < 8 then 2 * curve else 2 * (curve - 8)
    let e := mulExp2 (2 ^ 40) (a * u : Nat) (2 ^ 32) 1
    if curve < 8 then ((e - 2 ^ 40) * 2 ^ a * 2 ^ 40 / (e * (2 ^ a - 1)) : Nat)
    else ((e - 2 ^ 40) / (2 ^ a - 1) : Nat)

/-- The cell's curve: within 2⁻¹⁸ of the formula (R236). DESIGN CHOICE (assumption 41). -/
def curveCell (ctr site curve u : Nat) : Int := curveExact curve u + freeDev ctr site (2 ^ 22 - 1)

/-- The glaze gain of R318 at j of ng samples: ⌊(1 − c(j ÷ Ng)) × 2²³⌋ with 1.0 saturating, c the S-curve in exact
rationals. -/
def glazeGain (j ng : Nat) : Q :=
  if ng = 0 ∨ ng ≤ j then 0
  else satQ (((ng ^ 3 - (3 * j * j * ng - 2 * j * j * j)) * 2 ^ 23 / ng ^ 3 : Nat))

/-- ⌊√x⌋ by bisection: `n` halvings of an interval of width 2ⁿ above `lo`. -/
def sqrtStep (x : Nat) : Nat → Nat → Nat
  | 0, lo => lo
  | n + 1, lo => if (lo + 2 ^ n) * (lo + 2 ^ n) ≤ x then sqrtStep x n (lo + 2 ^ n) else sqrtStep x n lo

/-- ⌊√x⌋ for x below 2¹²⁸. -/
def sqrtNat (x : Nat) : Nat := sqrtStep x 64 0

/-- The largest y below 2ⁿ with y^k ≤ x, by bisection. -/
def rootStep (x k : Nat) : Nat → Nat → Nat
  | 0, lo => lo
  | n + 1, lo => if (lo + 2 ^ n) ^ k ≤ x then rootStep x k n (lo + 2 ^ n) else rootStep x k n lo

/-- One bit of the reflected CRC-32 (R70). -/
def crcBit (c : Word) : Word := if c.getLsbD 0 then (c >>> 1) ^^^ 0xEDB88320 else c >>> 1

/-- One byte of the CRC-32 (R70). -/
def crcByte (c : Word) (b : Byte) : Word :=
  crcBit (crcBit (crcBit (crcBit (crcBit (crcBit (crcBit (crcBit (c ^^^ b.setWidth 32))))))))

/-- CRC-32 of a list of bytes (R70). -/
def crc32 (bs : List Byte) : Word := (bs.foldl crcByte 0xFFFFFFFF) ^^^ 0xFFFFFFFF

/-- The four bytes of a word, lowest address first (R5). -/
def wordBytes (w : Word) : List Byte :=
  [w.extractLsb' 0 8, w.extractLsb' 8 8, w.extractLsb' 16 8, w.extractLsb' 24 8]

/-- A word from the little-endian bytes at the head of a list (R5); missing bytes read 0. -/
def bytesWord (bs : List Byte) : Word :=
  (bs.getD 0 0).setWidth 32 ||| ((bs.getD 1 0).setWidth 32 <<< 8) ||| ((bs.getD 2 0).setWidth 32 <<< 16)
    ||| ((bs.getD 3 0).setWidth 32 <<< 24)

/-- CRC-32 of words, each taken as 4 bytes, little-endian (R654). -/
def crcWords (ws : List Word) : Word := crc32 (ws.flatMap wordBytes)

/-- A signed comparison of two 32-bit times (R33): (a − b) mod 2³² read as a signed value. -/
def timeDiff (a b : Word) : Int := (a - b).toInt

/-- Does a value rise through 0 between two samples (R144)? -/
def risesThrough0 (a b : Q) : Bool := decide (a.toInt ≤ 0) && decide (0 < b.toInt)

end Sys2Proof.Machine
end

