-- ==== Sys2Proof/Machine/StateEngine.lean ====
section
/-! DEFINITION. The engine's state: the palette of the loaded primer (chapters "The primer image", "Parts, voices and
stealing"), blocks with their content, cells, caches and load path ("Blocks, slots and the pass budget"), and the
per-slot contexts of the cells. Everything is plain data. -/

namespace Sys2Proof.Machine

/-! ### The palette -/

/-- A MAC_PROGRAM record (R54). -/
structure MacProgram where
  id : Nat
  closed : Bool
  cycles : Nat
  code : List Word
  xdata : List Q
  ydata : List Q
  deriving DecidableEq, Repr

/-- A VOICE_TEMPLATE (id 0–15) or BUS_TEMPLATE (id 16–23, in the coding of BLK_CTL.TMPL) record (R60). A reference of
0xFF is 255. -/
structure Template where
  id : Nat
  link : Nat
  stream : Bool
  tables : List Nat
  phase : List Nat
  mac0 : Nat
  mac1 : Nat
  contour : Nat
  routes : Nat
  wire : Nat
  page : List Word
  deriving DecidableEq, Repr

/-- A TABLE record's header (R62); its samples stand in the banks (R437). -/
structure TableRec where
  id : Nat
  format : Nat
  mips : Nat
  regions : Nat
  length0 : Nat
  deriving DecidableEq, Repr

/-- A STREAM_MAP record (R64). -/
structure StreamRec where
  id : Nat
  port : Nat
  format : Nat
  channels : Nat
  offset : Nat
  frames : Nat
  loopStart : Nat
  loopEnd : Nat
  rate : Nat
  deriving DecidableEq, Repr

/-- One CHANNEL_MAP entry (R66). -/
structure ChanEntry where
  source : Nat
  channel : Nat
  part : Nat
  keyLo : Nat
  keyHi : Nat
  deriving DecidableEq, Repr

/-- The palette: what the loaded primer defines (R79 step 9). `loaded` false is the empty palette of R80. -/
structure Palette where
  loaded : Bool := false
  primerId : Word := 0
  buildSeq : Word := 0
  flags : Word := 0
  keySlot : Nat := 0
  slot : Nat := 3
  programs : List MacProgram := []
  phaseSets : List (Nat × List Word) := []
  contourSets : List (Nat × List Word) := []
  routeSets : List (Nat × List Word) := []
  wirings : List (Nat × List (BitVec 16)) := []
  templates : List Template := []
  tables : List TableRec := []
  streams : List StreamRec := []
  chanMap : List ChanEntry := []
  deriving DecidableEq, Repr

/-! ### Cell contexts -/

/-- A value history of one output: the sample of the newest value and the values of that sample and the two before
it, so that a wire of R83 finds the value of sample n or n − 1. -/
structure Hist where
  at_ : Nat := 0
  v0 : Q := 0
  v1 : Q := 0
  v2 : Q := 0
  deriving DecidableEq, Repr

/-- One operator of a phase cell (R130, R142 to R162). -/
structure PhOp where
  phi : Word := 0
  y1 : Q := 0
  y2 : Q := 0
  lfsr : Word := 0
  brown : Q := 0
  pink0 : Int := 0
  pink1 : Int := 0
  pink2 : Int := 0
  step : Q := 0
  prevIn : Q := 0
  syncNum : Nat := 0
  syncDen : Nat := 0
  afterOn : Bool := false
  afterCorr : Int := 0
  dead : Bool := false
  strPos : Nat := 0
  speed : Nat := 0
  strStart : Nat := 0
  strId : Nat := 0
  ring : Option Nat := none
  deriving DecidableEq, Repr

/-- One generator of the contour cell (R233 to R244). -/
structure GenSt where
  seg : Nat := 0
  u : Nat := 0
  v0 : Q := 0
  hold : Bool := false
  done : Bool := false
  val : Q := 0
  phi : Word := 0
  a : Q := 0
  b : Q := 0
  count : Nat := 0
  deriving DecidableEq, Repr

/-- One MAC context of a slot (R166). The cursors, homes, steps and wraps are tables by pointer number 0–7, the output
registers a table by number 0–15; an unlisted one is 0. -/
structure MacCtx where
  v0 : Q := 0
  v1 : Q := 0
  v2 : Q := 0
  v3 : Q := 0
  e0 : BitVec 56 := 0
  e1 : BitVec 56 := 0
  c : Tab (BitVec 10) := []
  h : Tab (BitVec 10) := []
  t : Tab (BitVec 11) := []
  w : Tab (BitVec 10) := []
  am : BitVec 16 := 0
  sr : BitVec 16 := 0x0020
  out : Tab Q := []
  deriving DecidableEq, Repr

/-- An instruction in the pipeline (R185): what its earlier stages have read. `xa` and `ya` are the memory words formed
in D; `a` and `b` the multiplier operands of M; `src` an aligned source or a MOVE value; `dv` its own accumulator
as read in E; `xs`, `ys` and `os` the values of its stores and output write; `lim` a clamp of R173. -/
structure Flight where
  ins : MacIns
  cyc : Nat
  xa : Nat := 0
  ya : Nat := 0
  a : Q := 0
  b : Q := 0
  src : BitVec 56 := 0
  dv : BitVec 56 := 0
  xs : Q := 0
  ys : Q := 0
  os : Q := 0
  lim : Bool := false
  deriving DecidableEq, Repr

/-- An entry of the injection queue (R183, R224): `age` counts the issue cycles since its INJ issued. -/
structure Inject where
  page : Nat
  view : Bool
  word : Nat
  age : Nat
  src : Nat
  value : Option Q
  deriving DecidableEq, Repr

/-- A DO stack entry (R189): start, end and iterations left. -/
structure DoEntry where
  start : Nat
  stop : Nat
  count : Nat
  deriving DecidableEq, Repr

/-- A MAC cell, or the standby cell running a MAC pass (R165, R185 to R195): the pass in progress, its pipeline (`f1`
the instruction issued last), loop state, injection queue, and the registers at the start of the pass (R190).
`kind` is the program it runs: 0 MC0's, 1 MC1's; `slot` the key of the slot it serves and `keys` those of the members whose
partitions it joins (R93, R103); `home` the slot whose pass it is, or the glaze slot of a pass for a glaze (`glaze`, R660);
`brMore` the branches that issued in the delay slots of the one before (slots left, taken, target); `delivered` that the
interruptible point it stands at has delivered its injection (R193); `badI`, `badX` and `badY` the words that fail their parity
check in the pass (R558). -/
structure MacCell where
  running : Bool := false
  slot : Nat := 0
  keys : List Nat := []
  home : Nat := 0
  glaze : Bool := false
  kind : Nat := 0
  smp : Nat := 0
  link : Nat := 1
  budget : Nat := 128
  pc : Nat := 0
  cyc : Nat := 0
  rep : Nat := 0
  stack : List DoEntry := []
  brSlots : Nat := 0
  brTaken : Bool := false
  brTarget : Nat := 0
  brMore : List (Nat × Bool × Nat) := []
  loopBack : Bool := false
  f1 : Option Flight := none
  f2 : Option Flight := none
  f3 : Option Flight := none
  ctx : MacCtx := {}
  start : MacCtx := {}
  latch : Tab Q := []
  injq : List Inject := []
  delivered : Bool := false
  halted : Bool := false
  fenceReq : Bool := false
  fenced : Bool := false
  badI : List Nat := []
  badX : List Nat := []
  badY : List Nat := []
  deriving DecidableEq, Repr

/-! ### Slots and voices -/

/-- The state of a voice (R307). -/
inductive VState where
  | pending | gated | release | glazing
  deriving DecidableEq, Repr

/-- The record of a voice, kept with its member 0 (R307). `startTb` is TB[31:0] of its first pass, `startSmp` the same
sample in the model's own count; `loud` is the last 32 absolute values of its output, newest first; `glz` the glaze time in
0.1 ms that its part had at its note-on (R302). -/
structure Voice where
  part : Nat
  key : Nat
  st : VState
  link : Nat
  startTb : Word := 0
  startSmp : Nat := 0
  detached : Bool := false
  expIdx : Nat := 0
  loud : List Nat := []
  gen : BitVec 5 := 1
  counted : Bool := true
  tmpl : Nat := 0
  ord : Nat := 0
  glz : Nat := 0
  deriving DecidableEq, Repr

/-- What runs in a slot: nothing, a member of a voice whose member 0 is `base`, a bus slot (R108), or a member of a
glaze context (R102): `joined` when the two contexts hold members 0 and 1 of one victim. -/
inductive SlotRole where
  | free
  | member (base m : Nat)
  | bus
  | glaze (m : Nat) (joined : Bool)
  deriving DecidableEq, Repr

/-- A fade (R318, R91, R350): the sample in which j = 1, in the model's own count, and its length. -/
structure Fade where
  start : Nat
  n : Nat
  deriving DecidableEq, Repr

/-- Routing latched for a slot's output (R337): target buses, pan and sends as the canvas takes them. -/
structure Route where
  dest : Word := 0
  word61 : Word := 0
  deriving DecidableEq, Repr

/-- A held tail of a slot (R314): the held values, their pan and sends, the sample in which j = 1, the glaze length and
the routing. `ready` is false until the close of the sample before gives the values. -/
structure Tail where
  start : Nat
  ng : Nat
  ready : Bool := false
  v0 : Q := 0
  v1 : Q := 0
  v2 : Q := 0
  v3 : Q := 0
  pan : Q := 0
  sendA : Q := 0
  sendB : Q := 0
  route : Route := {}
  deriving DecidableEq, Repr

/-- One slot of a block, or one of its two glaze contexts: its role, voice record, page copies (R95), the contexts of the
cells, its partitions of X and Y memory (R175) and its fades. `outs` is keyed by 16 × cell code + port, `dests` by matrix
destination 72–95. `first` is the sample of the occupant's first pass, in the model's own count; `held` the outputs a ramp of
R91 holds; `route` the latched routing of R340, in force while `latched`; `partPage` and `partLfo` what a glaze holds (R247).
-/
structure SlotSt where
  role : SlotRole := .free
  voice : Option Voice := none
  pend : Option Voice := none
  gen : BitVec 5 := 1
  gate : Bool := false
  gateWas : Bool := false
  mates : List Nat := []
  first : Nat := 0
  memberIdx : Nat := 0
  back : Tab Word := []
  front : Tab Word := []
  prev : Tab Word := []
  ops : Tab PhOp := []
  gens : Tab GenSt := []
  ccIn : Tab Q := []
  dest : Tab Q := []
  rand : Q := 0
  mac0 : MacCtx := {}
  mac1 : MacCtx := {}
  x0 : Tab Q := []
  y0 : Tab Q := []
  x1 : Tab Q := []
  y1 : Tab Q := []
  outs : Tab Hist := []
  dests : Tab Hist := []
  cuts0 : Nat := 0
  cuts1 : Nat := 0
  glaze : Option Fade := none
  ramp : Option Fade := none
  held : Option Tail := none
  latched : Bool := false
  route : Route := {}
  part : Nat := 0
  partPage : Tab Word := []
  partLfo : Tab Q := []
  deriving DecidableEq, Repr

/-! ### Blocks -/

/-- The program of one MAC cell as resident in a block: LOOP_MODE, LENGTH and the initial data (R54, R55). Its words stand
in the block's program memories. -/
structure CellProg where
  closed : Bool
  length : Nat
  xdata : List Q
  ydata : List Q
  deriving DecidableEq, Repr

/-- A block's resident content (R111, R654). -/
structure Content where
  tmpl : Template
  mac0 : Option CellProg
  mac1 : Option CellProg
  phase : List (List Word)
  contour : List Word
  routes : List Word
  wires : List (BitVec 16)
  pinned : List Nat
  deriving DecidableEq, Repr

/-- A line of the table cache (R114): its line number, its 16 words, its last use, whether it is pinned, and the sample from
which it serves reads (R115). -/
structure CacheLine where
  line : Nat
  words : List Word
  used : Nat
  pinned : Bool
  ready : Nat := 0
  deriving DecidableEq, Repr

/-- The state of a block (R125). -/
inductive BlkState where
  | disabled | empty | running | loading | gated | waking | failed
  deriving DecidableEq, Repr

/-- What a Restorer cell step or a repair does with the standby cell (chapter "Faults, spares and service life"). -/
inductive ScUse where
  | idle | shadowing | primary | shadowBack | testing | standIn
  deriving DecidableEq, Repr

/-- A block (R81, R102, R110 to R120). `pm0` and `pm1` are the program memories of MC0 and MC1, 512 words each (unlisted ones
0, a NOP, R55). `haltDue` says that a halt asked for has not taken effect yet (R589). `seen` is the sample from whose scan on
allocation sees the block again once EN = 1 has ended a drain (R120). DEDUCED (assumption 10). -/
structure Block where
  st : BlkState := .empty
  content : Option Content := none
  pm0 : Tab Word := []
  pm1 : Tab Word := []
  bus : Bool := false
  draining : Bool := false
  seen : Nat := 0
  evicting : Bool := false
  gateCnt : Nat := 0
  clkGated : Bool := false
  cache : List CacheLine := []
  useClock : Nat := 0
  refills : List Nat := []
  glzRes : Nat := 0
  lastDisp : Nat := 0
  cells : Tab MacCell := []
  halted : Bool := false
  haltDue : Bool := false
  fenced : Bool := false
  sc : ScUse := .idle
  scCell : Nat := 15
  scFailed : Bool := false
  broken : List Nat := []
  spare : Nat := 15
  busFade : Option Fade := none
  deriving DecidableEq, Repr

/-! ### Regions, ready lists and parts -/

/-- A ready-list entry (R321). Beyond the fields of R321: the region of its list, the key, export index and generation of a
note-on's voice, its order of arrival, whether its event counts as late, its event's source, and a number that the entries of one
event share (R282). -/
structure Entry where
  kind : Nat
  block : Nat
  slot : Nat
  gen : BitVec 5
  part : Nat
  timed : Bool
  ts : Word
  tag : BitVec 12
  seq : Nat
  word : Nat := 0
  value : Word := 0
  aux : BitVec 16 := 0
  region : Nat
  key : Nat := 0
  detached : Bool := false
  expIdx : Nat := 0
  newGen : BitVec 5 := 0
  arrival : Nat := 0
  late : Bool := false
  src : Nat := 0
  event : Nat := 0
  deriving DecidableEq, Repr

/-- A request on a region's load path (R110, R111, R119): a load of `tmpl`, a wake, or both; by the host's write of BLK_CTL or by a
placement (R312). -/
structure LoadReq where
  block : Nat
  wake : Bool
  load : Bool
  tmpl : Nat
  bus : Bool
  host : Bool := false
  running : Bool := false
  deriving DecidableEq, Repr

/-- One of a region's 256 stream rings (R459 to R461): its owner, stream, start frame, the first word of playing order of
each refill that has landed, the newest first, the chunks of 256 words it waits for, whether its operator has begun to read
it, and the words of port B that land after a chunk being written (R441). -/
structure Ring where
  block : Nat
  slot : Nat
  op : Nat
  stream : Nat
  start : Nat
  fills : List Nat := []
  want : List Nat := []
  bound : Bool := false
  late : List (Nat × Word) := []
  deriving DecidableEq, Repr

/-- A part LFO (R245). -/
structure PartLfo where
  phi : Word := 0
  a : Q := 0
  b : Q := 0
  val : Q := 0
  last : Q := 0
  deriving DecidableEq, Repr

/-- A part (R300): whether it exists, its page copies, LFOs, order number and affinity records ((key, block·16 + slot)). -/
structure Part where
  exists_ : Bool := false
  back : Tab Word := []
  front : Tab Word := []
  prev : Tab Word := []
  lfos : Tab PartLfo := []
  seq : Nat := 0
  aff : Tab Nat := []
  pedal : Bool := false
  heldOff : List (Nat × Nat) := []
  destroyAt : Option Nat := none
  deriving DecidableEq, Repr

end Sys2Proof.Machine
end

