-- ==== Sys2Proof/Machine/Phase.lean ====
section
/-! DEFINITION. The phase cell's pass (chapter "Phase cells and oscillators", R129 to R164, R656, R659): pitch and
increment, phase, sync, waveforms, tables, noise, streams and the outputs of one slot in one sample. -/

namespace Sys2Proof.Machine

/-! ### Fields of the MODE and SRC words (R132, R134) -/

/-- A bit field of a word, as a natural. -/
def fieldOf (w : Word) (lo n : Nat) : Nat := (w.extractLsb' lo n).toNat

/-- Wave code (R133). -/
def modeWave (m : Word) : Nat := fieldOf m 28 4
/-- SHAPE (R132). -/
def modeShape (m : Word) : Nat := fieldOf m 16 8
/-- Page word index of the PITCH word (R132). -/
def modePage (m : Word) : Nat := fieldOf m 10 6
/-- PHASE0 × 2³⁰ (R132). -/
def modePhase0 (m : Word) : Word := (m &&& 3) <<< 30

/-! ### Pitch and the increment -/

/-- The pitch p of R139: KT, PITCH and the pitch destination, saturated to a signed 32-bit value. -/
def opPitch (kt : Bool) (notePitch pitch : Word) (mp : Q) : Int :=
  sat32 ((if kt then notePitch.toInt else 0) + pitch.toInt + mp.toInt / 2)

/-- A value within `x × 2⁻²² + 1` of a target x (R139), then clamped to 0 – hi. -/
def nearTarget (ctr site x hi : Nat) : Nat :=
  (clampInt 0 hi ((x : Int) + freeDev ctr site (x / 2 ^ 22 + 1))).toNat

/-- The increment of pitch mode (R139). -/
def incPitch (ctr site fs : Nat) (p : Int) : Nat :=
  nearTarget ctr site (mulExp2 (440 * 2 ^ 32) (p - 4521984) 786432 fs) 0x7FFFFFFF

/-- The increment of fixed mode (R140): exact when the pitch destination is 0. -/
def incFixed (ctr site fs : Nat) (pitch : Word) (mp : Q) : Nat :=
  let inc := pitch.toNat * 2 ^ 16 / fs
  if mp = 0 then min inc 0x7FFFFFFF
  else nearTarget ctr site (mulExp2 inc (mp.toInt / 2) 786432 1) 0x7FFFFFFF

/-- Frequency modulation (R141), saturated to ±0x7FFF_FFFF. -/
def fmInc (inc : Nat) (v : Q) (fmscale : Nat) : Int :=
  clampInt (-0x7FFFFFFF) 0x7FFFFFFF ((inc : Int) + v.toInt * inc / 2 ^ (23 - fmscale))

/-! ### Pepper generators -/

/-- One step of a Pepper generator (R155). -/
def pepperStep (r : Word) : Word := if r.getLsbD 0 then (r >>> 1) ^^^ 0x80200003 else r >>> 1

/-- The 32 steps of a pass (R155). -/
def pepper32 (r : Word) : Word := (List.range 32).foldl (fun r _ => pepperStep r) r

/-- A nonzero draw of the chip's Pepper source (R656). -/
def pepperNonzero (ctr site : Nat) : Word := if Config.pepper ctr site = 0 then 1 else Config.pepper ctr site

/-! ### Tables -/

/-- What a table read returns: the value, the lines it requests, the lines it used, and whether it missed (R115). -/
structure TabRead where
  val : Q := 0
  want : List Nat := []
  used : List Nat := []
  missed : Bool := false
  deriving DecidableEq, Repr

/-- Words of one level in the bank format (R437): 16-bit samples take half a word; levels start on 16-word boundaries. -/
def levelWords (format len : Nat) : Nat :=
  let w := if format = 0 then len / 2 else len
  (w + 15) / 16 * 16

/-- Word offset of level i from the start of a table (R437). -/
def levelOffset (r : TableRec) (i : Nat) : Nat :=
  (List.range i).foldl (fun a k => a + levelWords r.format (r.length0 / 2 ^ k)) 0

/-- The level a read wants (R150): the smallest i with L × |inc′| ≤ 2³², else the last. -/
def levelWanted (r : TableRec) (inc : Int) : Nat :=
  ((List.range r.mips).find? fun i => decide (r.length0 / 2 ^ i * inc.natAbs ≤ 2 ^ 32)).getD (r.mips - 1)

/-- The content-space word of sample j of a level (R437). -/
def sampleWord (r : TableRec) (base level j : Nat) : Nat :=
  base + levelOffset r level + (if r.format = 0 then j / 2 else j)

/-- A sample as Q1.23 (R150) from its word. -/
def sampleOf (r : TableRec) (j : Nat) (w : Word) : Q :=
  if r.format = 0 then (w.extractLsb' (if j % 2 = 0 then 0 else 16) 16).setWidth 24 <<< 8
  else w.setWidth 24

/-- The interpolation of R150 on samples a, b, c, d at fraction t of 2²³: none, linear, or cubic within 2 units of its
exact value. -/
def interpolate (ctr site interp : Nat) (a b c d : Q) (t : Nat) : Q :=
  let a := a.toInt
  let b := b.toInt
  let c := c.toInt
  let d := d.toInt
  let t : Int := t
  match interp with
  | 0 => satQ b
  | 1 => satQ (b + (c - b) * t / 2 ^ 23)
  | _ =>
    let num := t * ((c - a) * 2 ^ 46 + t * ((2 * a - 5 * b + 4 * c - d) * 2 ^ 23 + t * (3 * (b - c) + d - a)))
    let lo := -(-num / 2 ^ 70) - 2
    let hi := num / 2 ^ 70 + 2
    satQ (b + clampInt lo hi (num / 2 ^ 70 + freeDev ctr site 2))

/-- Read one level at a phase (R150); none when a line the read needs is not resident. `word` is the cache. -/
def readLevel (ctr site : Nat) (word : Nat → Option Word) (r : TableRec) (base level : Nat) (ph : Word) (interp : Nat) :
    Option Q × List Nat :=
  let len := r.length0 / 2 ^ level
  let k := Nat.log2 len
  let j := ph.toNat / 2 ^ (32 - k)
  let t := (ph <<< k).toNat / 2 ^ 9
  let js := match interp with
    | 0 => [j] | 1 => [j, (j + 1) % len]
    | _ => [(j + len - 1) % len, j, (j + 1) % len, (j + 2) % len]
  let lines := (js.map fun j => sampleWord r base level j / 16).dedup
  let get (j : Nat) : Option Q := (word (sampleWord r base level j)).map (sampleOf r j)
  match js.mapM get with
  | none => (none, lines)
  | some vs =>
    let v := match interp with
      | 0 => vs.getD 0 0
      | 1 => interpolate ctr site 1 0 (vs.getD 0 0) (vs.getD 1 0) 0 t
      | _ => interpolate ctr site 2 (vs.getD 0 0) (vs.getD 1 0) (vs.getD 2 0) (vs.getD 3 0) t
    (some v, lines)

/-- Try the levels from i on (R115): the nearest coarser level whose lines are resident. -/
def readFrom (ctr site : Nat) (word : Nat → Option Word) (r : TableRec) (base : Nat) (ph : Word) (interp : Nat) :
    Nat → Nat → Option (Q × List Nat)
  | 0, _ => none
  | n + 1, i =>
    match readLevel ctr site word r base i ph interp with
    | (some v, ls) => some (v, ls)
    | (none, _) => readFrom ctr site word r base ph interp n (i + 1)

/-- A table read (R115, R150): the wanted level, or on a miss the nearest coarser resident one and a request for the
lines missing. -/
def readTable (ctr site : Nat) (word : Nat → Option Word) (r : TableRec) (base : Nat) (inc : Int) (ph : Word)
    (interp : Nat) : TabRead :=
  let i := levelWanted r inc
  match readLevel ctr site word r base i ph interp with
  | (some v, ls) => { val := v, used := ls }
  | (none, ls) =>
    let want := ls.filter fun l => (word (16 * l)).isNone
    match readFrom ctr site word r base ph interp (r.mips - 1 - i) (i + 1) with
    | some (v, ls) => { val := v, want := want, used := ls, missed := true }
    | none => { want := want, missed := true }

/-! ### BLEP waves -/

/-- The uncorrected BLEP wave at phase fraction u (R152); pw is the width or rise. -/
def blepG (wave : Nat) (u pw : Rat) : Rat :=
  if wave = 3 then 2 * u - 1
  else if wave = 4 then (if u < pw then 1 else -1)
  else if u < pw then -1 + 2 * u / pw else 1 - 2 * (u - pw) / (1 - pw)

/-- The edges of a BLEP wave (R152): position, step and slope change per sample for |inc′| of the cycle d. -/
def blepEdges (wave : Nat) (pw d : Rat) : List (Rat × Rat × Rat) :=
  let slope := (2 / pw + 2 / (1 - pw)) * d
  if wave = 3 then [(0, -2, 0)]
  else if wave = 4 then [(0, 2, 0), (pw, -2, 0)]
  else [(0, 0, slope), (pw, 0, -slope)]

/-- x reduced to [0, 1). -/
def fracPart (x : Rat) : Rat := x - x.floor

/-- The corrections of R153 from φ and inc′ of the sample; `after` and `before` say which terms apply (R145). -/
def blepCorr (wave : Nat) (pw : Rat) (phi : Word) (inc : Int) (after before : Bool) : Rat :=
  if inc = 0 then 0
  else
    let d : Rat := (inc.natAbs : Rat) / 2 ^ 32
    let f : Rat := (phi.toNat : Rat) / 2 ^ 32
    (blepEdges wave pw d).foldl (fun acc e =>
      let back0 := fracPart (f - e.1)
      let fwd0 := fracPart (e.1 - f)
      let (back, fwd, h) := if inc < 0 then (fwd0, back0, -e.2.1) else (back0, fwd0, e.2.1)
      let tb := back / d
      let ta := fwd / d
      let acc := if after && decide (tb < 1) then acc - h * (1 - tb) ^ 2 / 2 + e.2.2 * (1 - tb) ^ 3 / 6 else acc
      if before && decide (0 < ta) && decide (ta < 1) then
        acc + h * (1 - ta) ^ 2 / 2 + e.2.2 * (1 - ta) ^ 3 / 6
      else acc) 0

/-- A real waveform value in Q1.23: one of the two neighbouring values where it is not one itself.
DESIGN CHOICE (assumption 95). -/
def nearQ (ctr site : Nat) (x : Rat) : Q :=
  let y := x * 8388608
  let f := y.floor
  if (f : Rat) = y then satQ f else satQ (if Config.freeBool ctr site then f + 1 else f)

/-- Width or rise of a BLEP wave (R152), clamped to 1/256 – 255/256. -/
def blepWidth (shape : Nat) (ms : Q) : Rat :=
  (clampInt 32768 (255 * 32768) ((shape * 32768 : Nat) + ms.toInt) : Rat) / 8388608

/-! ### Noise -/

/-- ⌊a × x ÷ 2²³⌋ (R659). -/
def q23Mul (a x : Int) : Int := a * x / 2 ^ 23

/-- The noise waveform (R156, R659): the value, and the operator with its colour's state advanced. -/
def noiseWave (o : PhOp) (colour : Nat) (white : Q) : Q × PhOp :=
  let x := white.toInt
  match colour with
  | 0 => (white, o)
  | 1 =>
    let s0 := sat32 (q23Mul 0x7FB4A2 o.pink0 + q23Mul 0x0652BD x)
    let s1 := sat32 (q23Mul 0x7B4A23 o.pink1 + q23Mul 0x12F1A9 x)
    let s2 := sat32 (q23Mul 0x495810 o.pink2 + q23Mul 0x433333 x)
    (satQ ((s0 + s1 + s2 + q23Mul 0x0BD70A x) / 8), { o with pink0 := s0, pink1 := s1, pink2 := s2 })
  | 2 =>
    let y := satQ (o.brown.toInt - o.brown.toInt / 256 + x / 16)
    (y, { o with brown := y })
  | _ => (o.step, o)

/-! ### The pass -/

/-- What a phase pass reads: the free-value counter and a base site, Fs, whether it is the voice's first pass, the member
index and the operator index of operator 0, member 0's page, the wired inputs, the matrix destinations with
their defaults, the table list and cache, and the stream engine's frames (playing-order frame, channel). -/
structure PhEnv where
  ctr : Nat
  site : Nat
  fs : Nat
  first : Bool
  member : Nat
  opBase : Nat
  page : Nat → Word
  inp : Nat → Q
  dest : Nat → Q
  table : Nat → Option (TableRec × Nat)
  cache : Nat → Option Word
  stream : Nat → Option StreamRec
  frame : Nat → Nat → Nat → Option Q
  ringOf : Nat → Option Nat

/-- What a phase pass does beside its operators: lines requested and used, misses, underruns, and the stream frames read, each by
operator, channel and place in playing order (R115, R160, R161). -/
structure PhFx where
  want : List Nat := []
  used : List Nat := []
  misses : Nat := 0
  underruns : Nat := 0
  frames : List (Nat × Nat × Nat) := []
  deriving DecidableEq, Repr

/-- The running result of a pass: operators done so far with their outputs and unsuppressed wraps (R131, R144). -/
structure PhAcc where
  ops : Tab PhOp
  ys : List Q := []
  wraps : List (Nat × Nat) := []
  fx : PhFx := {}
  right : Option Q := none
  deriving DecidableEq, Repr

/-- A modulation source (R135): none for code 0. `y` are the outputs of this sample so far, `old` the operators before
the pass. Code 5 truncates toward minus infinity. DESIGN CHOICE (assumption 109). -/
def phSource (e : PhEnv) (code k : Nat) (ys : List Q) (old : Tab PhOp) (o : PhOp) (white : Q) : Option Q :=
  if code = 0 then none
  else if code ≤ 4 then
    some (if code - 1 < k then ys.getD (code - 1) 0 else (tabGet old {} (e.opBase + code - 1)).y1)
  else if code = 5 then some (satQ ((o.y1.toInt + o.y2.toInt) / 2))
  else if code = 6 then some white
  else if 8 ≤ code ∧ code ≤ 15 then some (e.inp (code - 8))
  else some 0

/-- The operator at the voice's first pass (R142, R156, R158). -/
def phInit (e : PhEnv) (mode : Word) (k : Nat) (strWord : Word) : PhOp :=
  let reset := mode.getLsbD 25
  let seed : Word :=
    if reset then 0x80000001 ^^^ BitVec.ofNat 32 (e.opBase + k) ^^^ BitVec.ofNat 32 (e.member * 16)
    else pepperNonzero e.ctr (e.site + 8 * k)
  let id := fieldOf strWord 0 12
  let start := fieldOf strWord 12 20 * 64
  let dead := match e.stream id with
    | some r => decide (r.frames ≤ start)
    | none => true
  { phi := if reset then modePhase0 mode else Config.pepper e.ctr (e.site + 8 * k + 1)
    lfsr := seed, dead := dead || (e.ringOf k).isNone, strStart := start, strId := id, ring := e.ringOf k }

/-- The sync edge of operator k in this sample as a fraction num ÷ den (R136, R144); none where there is none. -/
def phSync (e : PhEnv) (sync k : Nat) (wraps : List (Nat × Nat)) (old : Tab PhOp) (o : PhOp) : Option (Nat × Nat) :=
  if 1 ≤ sync ∧ sync ≤ 4 then
    let j := sync - 1
    if j = k then none
    else
      let w := if j < k then wraps.getD j (0, 0)
        else let p := tabGet old {} (e.opBase + j); (p.syncNum, p.syncDen)
      if w.2 = 0 then none else some w
  else if sync = 5 ∨ sync = 6 then
    let b := e.inp (sync + 1)
    if risesThrough0 o.prevIn b then some (b.toInt.toNat, (b.toInt - o.prevIn.toInt).toNat) else none
  else none

/-- The own wrap of an accumulator (R143) as a fraction num ÷ den; (0, 0) where it does not wrap. -/
def phWrap (phi : Word) (inc : Int) : Nat × Nat :=
  let nxt := (phi.toNat : Int) + inc
  if 0 < inc ∧ 2 ^ 32 ≤ nxt then ((nxt % 2 ^ 32).toNat, inc.natAbs)
  else if inc < 0 ∧ nxt < 0 then ((2 ^ 32 - nxt % 2 ^ 32).toNat, inc.natAbs)
  else (0, 0)

/-- A page word index of an operator (R164): the base, the member's stride and an offset. -/
def phWord (mode : Word) (member off : Nat) : Nat :=
  let stride := if modeWave mode = 7 then 3 else 2
  modePage mode + (if mode.getLsbD 24 then stride * member else 0) + off

/-- The waveform of a table operator (R151): the span's two tables blended, with what the reads did. -/
def phTable (e : PhEnv) (site : Nat) (mode src : Word) (ms : Q) (inc : Int) (ph : Word) : Q × PhFx :=
  let span := fieldOf src 2 6
  let t0 := fieldOf mode 2 6
  let interp := fieldOf mode 8 2
  let s23 := (clampInt 0 0x800000 ((modeShape mode * 32768 : Nat) + ms.toInt)).toNat
  let x := s23 * span
  let idx := x / 2 ^ 23
  let rd (pos site : Nat) : TabRead := match e.table pos with
    | some (r, base) => readTable e.ctr site e.cache r base inc ph interp
    | none => {}
  let fx (r : TabRead) : PhFx := { want := r.want, used := r.used, misses := if r.missed then 1 else 0 }
  if span ≤ idx then
    let r := rd (t0 + span) site
    (r.val, fx r)
  else
    let r := rd (t0 + idx) site
    let r2 := rd (t0 + idx + 1) (site + 1)
    let v := satQ (r.val.toInt + (r2.val.toInt - r.val.toInt) * (x % 2 ^ 23 : Nat) / 2 ^ 23)
    (v, { want := r.want ++ r2.want, used := r.used ++ r2.used
          misses := (fx r).misses + (fx r2).misses })

/-- Join the side effects of two reads. -/
def PhFx.join (a b : PhFx) : PhFx :=
  { want := a.want ++ b.want, used := a.used ++ b.used, misses := a.misses + b.misses
    underruns := a.underruns + b.underruns, frames := a.frames ++ b.frames }

/-- Level, level destination and amplitude modulation (R147). -/
def phLevel (w level ml a : Q) : Q := mulQ (mulQ (mulQ w level) ml) a

/-- One stream operator (R157 to R161): the left and right waveform values, the operator with its position advanced,
and whether the read underran. Positions are in playing order (R460), with 24 fraction bits. DESIGN CHOICE (assumption 93). -/
def phStream (e : PhEnv) (site k interp : Nat) (o : PhOp) (speed : Nat) : Q × Option Q × PhOp × Bool :=
  match e.stream o.strId with
  | none => (0, none, o, false)
  | some r =>
    if o.dead then (0, none, o, false)
    else
      let q := o.strPos / 2 ^ 24
      let t := o.strPos % 2 ^ 24 / 2
      let o' := { o with strPos := o.strPos + speed, speed := speed }
      let ended := decide (r.loopEnd = 0xFFFFFFFF) && decide (r.frames ≤ o.strStart + q)
      if ended then (0, if r.channels = 2 then some 0 else none, o', false)
      else
        let get (ch : Nat) (d : Int) : Option Q :=
          if (q : Int) + d < 0 then some ((Config.freeWord e.ctr (site + 4)).setWidth 24)
          else e.frame k ch ((q : Int) + d).toNat
        let chan (ch : Nat) : Option Q :=
          match interp with
          | 0 => get ch 0
          | 1 => match get ch 0, get ch 1 with
            | some b, some c => some (interpolate e.ctr (site + ch) 1 0 b c 0 t)
            | _, _ => none
          | _ => match get ch (-1), get ch 0, get ch 1, get ch 2 with
            | some a, some b, some c, some d => some (interpolate e.ctr (site + ch) 2 a b c d t)
            | _, _, _, _ => none
        match chan 0, (if r.channels = 2 then chan 1 else some 0) with
        | some l, some rr => (l, if r.channels = 2 then some rr else none, o', false)
        | _, _ => (0, if r.channels = 2 then some 0 else none, o', true)

/-- The frames that the read of stream operator k needs (R160): channel and place in playing order. -/
def phFrames (e : PhEnv) (k interp : Nat) (o : PhOp) : List (Nat × Nat × Nat) :=
  match e.stream o.strId with
  | none => []
  | some r =>
    let q := o.strPos / 2 ^ 24
    if o.dead ∨ (r.loopEnd = 0xFFFFFFFF ∧ r.frames ≤ o.strStart + q) then []
    else
      let near : List Int := match interp with
        | 0 => [0]
        | 1 => [0, 1]
        | _ => [-1, 0, 1, 2]
      (List.range (if r.channels = 2 then 2 else 1)).flatMap fun ch =>
        (near.filter fun d => decide (0 ≤ (q : Int) + d)).map fun d => (k, ch, ((q : Int) + d).toNat)

/-- Operator k of the pass (R130). The product τ × inc′ of a sync edge is truncated toward minus infinity. DESIGN CHOICE
(assumption 109). -/
def phOperator (e : PhEnv) (old : Tab PhOp) (set : List Word) (acc : PhAcc) (k : Nat) : PhAcc :=
  let mode := set.getD (2 * k) 0
  let src := set.getD (2 * k + 1) 0
  let wave := modeWave mode
  let key := e.opBase + k
  if wave = 0 then
    match acc.right with
    | some y =>
      { acc with ys := acc.ys ++ [y], wraps := acc.wraps ++ [(0, 0)], right := none
                 ops := tabSet acc.ops {} key { tabGet old {} key with y1 := y, y2 := (tabGet old {} key).y1 } }
    | none => { acc with ys := acc.ys ++ [0], wraps := acc.wraps ++ [(0, 0)], ops := tabSet acc.ops {} key {} }
  else
    let site := e.site + 64 * (k + 1)
    let o0 := if e.first then phInit e mode k (e.page (phWord mode e.member 2)) else tabGet old {} key
    let lfsr := pepper32 o0.lfsr
    let white := (lfsr >>> 8).setWidth 24
    let o := { o0 with lfsr := lfsr, step := if e.first then white else o0.step }
    let level := wordQ (e.page (phWord mode e.member 1))
    let mp := e.dest key
    let ml := e.dest (16 + key)
    let ms := e.dest (32 + key)
    let pitch := e.page (phWord mode e.member 0)
    let fm := phSource e (fieldOf src 20 5) k acc.ys old o white
    let fms := fieldOf src 18 2
    let am := (phSource e (fieldOf src 13 5) k acc.ys old o white).getD oneQ
    if wave = 7 then
      let r := e.stream o.strId
      let p := opPitch (mode.getLsbD 27) (e.page 0) pitch mp
      let target := mulExp2 ((r.map (·.rate)).getD 0 * 2 ^ 24) (p - 3932160) 786432 e.fs
      let sp0 := nearTarget e.ctr site target (8 * 2 ^ 24 - 1)
      let sp := match fm with
        | some v => (clampInt 0 (8 * 2 ^ 24 - 1) ((sp0 : Int) + v.toInt * sp0 / 2 ^ (23 - fms))).toNat
        | none => sp0
      let rd := o
      let (w, wr, o, und) := phStream e (site + 8) k (fieldOf mode 8 2) o sp
      let y := phLevel w level ml am
      let nextOff := modeWave (set.getD (2 * (k + 1)) 0) = 0 ∧ k % 2 = 0
      let right := match wr with
        | some x => if nextOff then some (phLevel x level ml am) else none
        | none => none
      { acc with
        ys := acc.ys ++ [y], wraps := acc.wraps ++ [(0, 0)], right := right
        fx := acc.fx.join { underruns := if und then 1 else 0, frames := phFrames e k (fieldOf mode 8 2) rd }
        ops := tabSet acc.ops {} key { o with y1 := y, y2 := o0.y1 } }
    else
      let inc0 := if mode.getLsbD 26 then incFixed e.ctr site e.fs pitch mp
        else incPitch e.ctr site e.fs (opPitch (mode.getLsbD 27) (e.page 0) pitch mp)
      let inc : Int := match fm with
        | some v => fmInc inc0 v fms
        | none => inc0
      let sync := fieldOf src 10 3
      let edge := phSync e sync k acc.wraps old o
      let ph := match phSource e (fieldOf src 27 5) k acc.ys old o white with
        | some v => BitVec.ofInt 32 ((o.phi.toNat : Int) + v.toInt * 2 ^ (9 + fieldOf src 25 2))
        | none => o.phi
      let shape := modeShape mode
      let pw := blepWidth shape ms
      let isBlep := decide (3 ≤ wave ∧ wave ≤ 5)
      let (w, o, fx) : Q × PhOp × PhFx :=
        if wave = 1 then (sineQ e.ctr (site + 1) ph, o, {})
        else if wave = 2 then let r := phTable e (site + 2) mode src ms inc ph; (r.1, o, r.2)
        else if wave = 6 then let r := noiseWave o (shape / 64) white; (r.1, r.2, {})
        else if wave = 8 then ((ph >>> 8).setWidth 24 ^^^ 0x800000, o, {})
        else if isBlep then
          let corr := blepCorr wave pw o.phi inc (!o.afterOn) edge.isNone
          let corr := if o.afterOn then corr + (o.afterCorr : Rat) / 2 ^ 40 else corr
          (nearQ e.ctr (site + 3) (blepG wave ((ph.toNat : Rat) / 2 ^ 32) pw + corr), o, {})
        else (0, o, {})
      let y := phLevel w level ml am
      let own := phWrap o.phi inc
      let o := { o with y1 := y, y2 := o0.y1, prevIn := if sync = 5 ∨ sync = 6 then e.inp (sync + 1) else 0
                        afterOn := false, afterCorr := 0 }
      match edge with
      | some (n, d) =>
        let tau : Rat := (n : Rat) / d
        let p0 := modePhase0 mode
        let phi' := BitVec.ofInt 32 ((p0.toNat : Int) + (tau * inc).floor)
        let h := blepG wave ((p0.toNat : Rat) / 2 ^ 32) pw
          - blepG wave (fracPart (((o.phi.toNat : Rat) + (1 - tau) * inc) / 2 ^ 32)) pw
        let o := if isBlep then
            { o with afterOn := true, afterCorr := (-h * (1 - tau) ^ 2 / 2 * 2 ^ 40).floor } else o
        let o := { o with phi := phi', syncNum := 0, syncDen := 0 }
        { acc with ys := acc.ys ++ [y], wraps := acc.wraps ++ [(0, 0)], fx := acc.fx.join fx, right := none
                   ops := tabSet acc.ops {} key o }
      | none =>
        let o := { o with phi := BitVec.ofInt 32 ((o.phi.toNat : Int) + inc), syncNum := own.1, syncDen := own.2
                          step := if own.2 ≠ 0 ∧ wave = 6 then white else o.step }
        { acc with ys := acc.ys ++ [y], wraps := acc.wraps ++ [own], fx := acc.fx.join fx, right := none
                   ops := tabSet acc.ops {} key o }

/-- The weighted sum of output 4 (R134, R163), truncated once. DESIGN CHOICE (assumption 109). -/
def phSum (set : List Word) (ys : List Q) : Q :=
  satQ ((List.range 4).foldl (fun a k =>
    let y := (ys.getD k 0).toInt
    match fieldOf (set.getD (2 * k + 1) 0) 8 2 with
    | 0 => a | 1 => a + 4 * y | 2 => a + 2 * y | _ => a + y) 0 / 4)

/-- A phase cell's pass for a slot (R129): the operators after it, outputs 0 to 4, and its side effects. -/
def phPass (e : PhEnv) (old : Tab PhOp) (set : List Word) : Tab PhOp × List Q × PhFx :=
  let acc := (List.range 4).foldl (phOperator e old set) { ops := old }
  (acc.ops, acc.ys ++ [phSum set acc.ys], acc.fx)

end Sys2Proof.Machine
end

