-- ==== Sys2Proof/Machine/Contour.lean ====
section
/-! DEFINITION. The contour cell's pass: envelopes, LFOs and part LFOs (chapter "Contours and the modulation matrix",
R230 to R248). -/

namespace Sys2Proof.Machine

/-- LEVEL of a segment word as Q1.23 (R234). -/
def segLevel (w : Word) : Q :=
  let l := w.extractLsb' 20 12
  if l = 0x7FF then 0x7FFFFF else l.setWidth 24 <<< 12

/-- The progress du of a segment (R235): exact when the code is a multiple of 2,048 and r is 0, within du × 2⁻²² + 1
otherwise. -/
def segDu (ctr site code fs : Nat) (r : Q) : Nat :=
  if code = 0 then 2 ^ 32
  else
    let num : Int := 4 * r.toInt + ((53248 : Int) - code) * 2 ^ 12
    let t := mulExp2Ceil (2 ^ 32) num (2 ^ 23) fs
    let d := if code % 2048 = 0 ∧ r = 0 then (t : Int) else (t : Int) + freeDev ctr site (t / 2 ^ 22 + 1)
    (clampInt 1 (2 ^ 32) d).toNat

/-- What a contour pass reads: Fs, the beat length in samples, whether it is the first pass, the gate now and as it stood in
the pass before, member 0's page, the CC inputs now and before, and the rate and amount destinations of the previous
sample (none where no route targets them, or in the first sample). -/
structure CcEnv where
  ctr : Nat
  site : Nat
  fs : Nat
  beat : Nat
  first : Bool
  member : Nat
  gate : Bool
  gateBefore : Bool
  page : Nat → Word
  inNow : Nat → Q
  inPrev : Nat → Q
  rate : Nat → Option Q
  amount : Nat → Option Q

/-- A trigger beyond the note-on (R233, R238): a rise through 0 of the named CC input. -/
def ccTrig (e : CcEnv) (code : Nat) : Bool :=
  (code = 1 && risesThrough0 (e.inPrev 0) (e.inNow 0)) || (code = 2 && risesThrough0 (e.inPrev 1) (e.inNow 1))

/-- Start a segment (R237). -/
def segBegin (g : GenSt) (seg : Nat) (v0 : Q) : GenSt := { g with seg := seg, u := 0, v0 := v0, hold := false, done := false }

/-- The action at the end of a segment (R239). -/
def segEnd (mode : Word) (gate : Bool) (g : GenSt) (vt : Q) : GenSt :=
  let last := fieldOf mode 27 3
  let sus := fieldOf mode 24 3
  let susen := mode.getLsbD 23
  let loopEnd := if susen then sus else last
  if g.seg = loopEnd ∧ mode.getLsbD 19 ∧ (gate ∨ susen = false) then segBegin g (fieldOf mode 20 3) vt
  else if g.seg = sus ∧ susen ∧ gate then { g with hold := true }
  else if g.seg ≠ last then segBegin g (g.seg + 1) vt
  else { g with hold := true, done := true }

/-- One sample of an envelope (R233 to R239): triggers, then the gate change, then the step of R237. `val` holds the value
before the amount scaling. -/
def envStep (e : CcEnv) (k : Nat) (mode : Word) (g : GenSt) : GenSt :=
  let last := fieldOf mode 27 3
  let sus := fieldOf mode 24 3
  let susen := mode.getLsbD 23
  let base := fieldOf mode 13 6 + (if mode.getLsbD 8 then e.member * (last + 1) else 0)
  let g := if e.first then segBegin { g with val := 0 } 0 0
    else if ccTrig e (fieldOf mode 11 2) then segBegin g 0 (if mode.getLsbD 10 then 0 else g.val)
    else g
  let off := (e.first || e.gateBefore) && !e.gate
  let g := if off && susen && decide (g.seg ≤ sus) then
      if sus = last then { g with hold := true, done := true } else segBegin g (sus + 1) g.val
    else g
  if g.hold then
    -- a held segment of SUS goes on when the gate is off and it did not leave above
    g
  else
    let w := e.page (base + g.seg)
    let vt := segLevel w
    let u := g.u + segDu e.ctr (e.site + 8 * k) (fieldOf w 0 16) e.fs ((e.rate k).getD 0)
    if u < 2 ^ 32 then
      let c := curveCell e.ctr (e.site + 8 * k + 1) (fieldOf w 16 4) u
      { g with u := u, val := satQ (g.v0.toInt + (vt.toInt - g.v0.toInt) * c / 2 ^ 40) }
    else segEnd mode e.gate { g with u := u, val := vt } vt

/-- An LFO's waveform (R243). DESIGN CHOICE (assumption 41). -/
def lfoWave (ctr site shape : Nat) (phi : Word) (a b : Q) : Q :=
  let u : Rat := (phi.toNat : Rat) / 2 ^ 32
  match shape with
  | 0 => sineQ ctr site phi
  | 1 => nearQ ctr site (if u < 1 / 4 then 4 * u else if u < 3 / 4 then 2 - 4 * u else 4 * u - 4)
  | 2 => nearQ ctr site (2 * u - 1)
  | 3 => nearQ ctr site (1 - 2 * u)
  | 4 => if u < 1 / 2 then 0x7FFFFF else 0x800000
  | 5 => b
  | _ => nearQ ctr site (((a.toInt : Rat) + ((b.toInt : Rat) - a.toInt) * u) / 8388608)

/-- The LFO's increment (R242): frequency or tempo period, times 2^(4r), with the accuracy of R139. -/
def lfoInc (ctr site fs beat : Nat) (sync : Bool) (rate : Word) (r : Q) : Nat :=
  let inc := if sync then (if rate = 0 ∨ beat = 0 then 0 else 2 ^ 48 / (rate.toNat * beat)) else rate.toNat * 2 ^ 16 / fs
  nearTarget ctr site (mulExp2 inc (4 * r.toInt) (2 ^ 23) 1) 0x7FFFFFFF

/-- A value of the Pepper source as Q1.23 (R243). -/
def pepperQ (ctr site : Nat) : Q := (Config.pepper ctr site >>> 8).setWidth 24

/-- UNI (R241). -/
def lfoUni (mode : Word) (w : Q) : Q := if mode.getLsbD 24 then satQ ((w.toInt + 0x800000) / 2) else w

/-- Advance an LFO's phase; a wrap takes new Pepper values (R243). -/
def lfoAdvance (ctr site : Nat) (phi : Word) (a b : Q) (inc : Nat) : Word × Q × Q :=
  let n := phi.toNat + inc
  if 2 ^ 32 ≤ n then (BitVec.ofNat 32 n, b, pepperQ ctr site) else (BitVec.ofNat 32 n, a, b)

/-- The fade gain of R244 in the voice's sample j. -/
def lfoFade (fade fs j : Nat) : Q :=
  let nf := mulExp2Ceil fs ((fade : Int) - 200) 16 1
  if nf ≤ j then oneQ else satQ ((j * 2 ^ 23 / nf : Nat))

/-- One sample of a voice LFO (R241 to R244). -/
def lfoStep (e : CcEnv) (k : Nat) (mode : Word) (g : GenSt) : GenSt :=
  let site := e.site + 8 * k
  let start : Word := (BitVec.ofNat 32 (fieldOf mode 22 2)) <<< 30
  let keyreset := mode.getLsbD 25
  let g := if e.first then
      { phi := if keyreset then start else Config.pepper e.ctr (site + 2)
        a := pepperQ e.ctr (site + 3), b := pepperQ e.ctr (site + 4) : GenSt }
    else if keyreset && ccTrig e (fieldOf mode 6 2) then { g with phi := start } else g
  let rate := e.page (fieldOf mode 16 6 + (if mode.getLsbD 5 then e.member else 0))
  let inc := lfoInc e.ctr site e.fs e.beat (mode.getLsbD 26) rate ((e.rate k).getD 0)
  let w := lfoUni mode (lfoWave e.ctr (site + 1) (fieldOf mode 27 3) g.phi g.a g.b)
  let fade := fieldOf mode 8 8
  let w := if fade = 0 then w else satQ (w.toInt * (lfoFade fade e.fs g.count).toInt / 2 ^ 23)
  let (phi, a, b) := lfoAdvance e.ctr (site + 5) g.phi g.a g.b inc
  { g with phi := phi, a := a, b := b, val := w, count := g.count + 1 }

/-- Generator k of the pass (R230, R231): its state and its output after the amount scaling of R255. -/
def genStep (e : CcEnv) (k : Nat) (mode : Word) (g : GenSt) : GenSt × Q :=
  let g := match fieldOf mode 30 2 with
    | 1 => envStep e k mode g
    | 2 => lfoStep e k mode g
    | _ => {}
  let v := match e.amount k with
    | some a => mulQ g.val a
    | none => g.val
  (g, v)

/-- A contour pass (R230): the eight generators and outputs. -/
def ccPass (e : CcEnv) (set : List Word) (gens : Tab GenSt) : Tab GenSt × List Q :=
  (List.range 8).foldl (fun acc k =>
    let (g, v) := genStep e k (set.getD k 0) (tabGet gens {} k)
    (tabSet acc.1 {} k g, acc.2 ++ [v])) (gens, [])

/-- Are all envelopes with END = 1 complete (R240)? True of no generator with END = 1 only by R248's rejection. -/
def endComplete (set : List Word) (gens : Tab GenSt) : Bool :=
  let ends := (List.range 8).filter fun k => fieldOf (set.getD k 0) 30 2 = 1 && (set.getD k 0).getLsbD 9
  !ends.isEmpty && ends.all fun k => (tabGet gens {} k).done

/-- R248's first item on one mode word: its codes and reserved bits. -/
def modeCodesOk (mode : Word) : Bool :=
  match fieldOf mode 30 2 with
  | 0 => true
  | 1 => decide (fieldOf mode 11 2 ≠ 3) && decide (fieldOf mode 0 8 = 0)
  | 2 => decide (fieldOf mode 27 3 ≠ 7) && decide (fieldOf mode 6 2 ≠ 3) && decide (fieldOf mode 0 5 = 0)
  | _ => false

/-- R248's second item: SUS is no later than LAST. -/
def modeSusOk (mode : Word) : Bool := decide (fieldOf mode 30 2 = 1 → fieldOf mode 24 3 ≤ fieldOf mode 27 3)

/-- R248's third item: with LOOPEN, LOOP is within the loop end of R239. -/
def modeLoopOk (mode : Word) : Bool :=
  decide (fieldOf mode 30 2 = 1 → mode.getLsbD 19 = true →
    fieldOf mode 20 3 ≤ if mode.getLsbD 23 then fieldOf mode 24 3 else fieldOf mode 27 3)

/-- The field checks of R248 on one mode word. -/
def modeWordOk (mode : Word) : Bool := modeCodesOk mode && modeSusOk mode && modeLoopOk mode

/-- A part LFO at the creation of its part (R243, R245). -/
def partLfoStart (ctr site : Nat) (mode : Word) : PartLfo :=
  { phi := (BitVec.ofNat 32 (fieldOf mode 22 2)) <<< 30, a := pepperQ ctr site, b := pepperQ ctr (site + 1) }

/-- A part LFO locked to the beat takes the phase of a beat (R246); PERIOD = 0 leaves it, and the sample under way keeps its value
(R245). DEDUCED (assumption 96). -/
def partLfoBeat (mode rate : Word) (beats : Nat) (l : PartLfo) : PartLfo :=
  if fieldOf mode 30 2 = 2 ∧ mode.getLsbD 26 = true ∧ mode.getLsbD 25 = false ∧ rate ≠ 0 then
    { l with phi := BitVec.ofNat 32 (beats * 2 ^ 48 / rate.toNat) + (BitVec.ofNat 32 (fieldOf mode 22 2)) <<< 30 }
  else l

/-- One sample of a part LFO (R245): `reset` a note-on dispatched for the part in this sample. -/
def partLfoStep (ctr site fs beat : Nat) (mode rate : Word) (reset : Bool) (l : PartLfo) : PartLfo :=
  if fieldOf mode 30 2 ≠ 2 ∨ modeWordOk mode = false then { l with val := 0 }
  else
    let start : Word := (BitVec.ofNat 32 (fieldOf mode 22 2)) <<< 30
    let keyreset := mode.getLsbD 25
    let sync := mode.getLsbD 26
    let phi := if keyreset && reset then start else l.phi
    let w := lfoUni mode (lfoWave ctr site (fieldOf mode 27 3) phi l.a l.b)
    let (phi, a, b) := lfoAdvance ctr (site + 2) phi l.a l.b (lfoInc ctr (site + 1) fs beat sync rate 0)
    { phi := phi, a := a, b := b, val := w }

end Sys2Proof.Machine
end

