-- ==== Sys2Proof/Machine/Matrix.lean ====
section
/-! DEFINITION. The matrix cell's pass (R249 to R258): sources, routes, destinations and CV export bindings. -/

namespace Sys2Proof.Machine

/-- Destination of a route word (R250). -/
def routeDst (w : Word) : Nat := fieldOf w 25 7

/-- A reserved destination (R250): 76–79 and 96–126. -/
def dstReserved (d : Nat) : Bool := (decide (76 ≤ d) && decide (d ≤ 79)) || (decide (96 ≤ d) && decide (d ≤ 126))

/-- Does any route of the set target the destination (R254)? -/
def routed (routes : List Word) (d : Nat) : Bool := routes.any fun w => decide (routeDst w = d) && !dstReserved d

/-- The value of a destination with no route (R253). -/
def destDefault (d : Nat) : Q := if 16 ≤ d ∧ d ≤ 31 then oneQ else 0

/-- SMAP (R250, R254). -/
def smap (code : Nat) (s : Q) : Q :=
  match code with
  | 0 => s
  | 1 => satQ ((s.toInt + 0x800000) / 2)
  | 2 => satQ s.toInt.natAbs
  | _ => satQ (-s.toInt)

/-- VMAP for codes 1–3 (R250, R254). -/
def vmap (code : Nat) (v : Q) : Q :=
  match code with
  | 1 => v
  | 2 => satQ ((v.toInt + 0x800000) / 2)
  | _ => satQ v.toInt.natAbs

/-- The contribution of one route (R254). -/
def routeTerm (src : Nat → Q) (page : Nat → Word) (w : Word) : Int :=
  let s := (smap (fieldOf w 11 2) (src (fieldOf w 19 6))).toInt
  let d := (wordQ (page (fieldOf w 3 6))).toInt
  let vm := fieldOf w 9 2
  if vm = 0 then s * d / 2 ^ 23
  else (s * (vmap vm (src (fieldOf w 13 6))).toInt / 2 ^ 23) * d / 2 ^ 23

/-- The value of a destination after the 32 routes (R254): the exact sum saturated once, or its default. -/
def destValue (routes : List Word) (src : Nat → Q) (page : Nat → Word) (d : Nat) : Q :=
  if routed routes d then
    satQ ((routes.filter fun w => decide (routeDst w = d)).foldl (fun a w => a + routeTerm src page w) 0)
  else destDefault d

/-- A matrix pass (R249): the 96 destinations; an unlisted one is 0. -/
def xcPass (routes : List Word) (src : Nat → Q) (page : Nat → Word) : Tab Q :=
  (List.range 96).foldl (fun t d => tabSet t 0 d (destValue routes src page d)) []

/-- What the sources of R251 are taken from. -/
structure XcEnv where
  bus : Bool
  first : Bool
  member : Nat
  gate : Bool
  rand : Q
  gen : Nat → Q
  inp : Nat → Q
  lfo : Nat → Q
  page : Nat → Word
  part : Nat → Word
  scratch : Nat → Q

/-- The matrix sources (R251, R252). -/
def xcSource (e : XcEnv) (i : Nat) : Q :=
  if i ≤ 7 then e.gen i
  else if i ≤ 15 then e.inp (i - 8)
  else if i ≤ 19 then (if e.bus then 0 else e.lfo (i - 16))
  else if i = 24 then satQ (((e.page 0).toInt - 3932160) * 2)
  else if i ≤ 27 then wordQ (e.page (i - 19 - (if 24 < i then 1 else 0)))
  else if i = 28 then e.rand
  else if i = 29 then satQ (e.member * 0x200000 : Nat)
  else if i = 30 then (if e.bus || e.gate then oneQ else 0)
  else if i = 31 then oneQ
  else if i ≤ 39 then wordQ (e.page (i - 16))
  else if i ≤ 47 then (if e.first then 0 else e.scratch (i - 40))
  else if e.bus then 0 else wordQ (e.part (i - 48))

/-- The CV export of port e (R256): the target channel where the port exports. `idx` is the voice's export index. -/
def exportChannel (page : Nat → Word) (routes : List Word) (idx e : Nat) : Option Nat :=
  let b := fieldOf (page (62 + e / 4)) (8 * (e % 4)) 8
  if b / 128 = 1 ∧ routed routes (80 + e) = true then some ((b % 32 + (if b / 64 % 2 = 1 then idx else 0)) % 32) else none

end Sys2Proof.Machine
end

