-- ==== Sys2Proof/Machine/RegMap.lean ====
section
/-! DEFINITION. The register map (chapter "Register map", R641 to R652) and every register field of the spec
(the field tables named in each register's line): addresses, access types (R8) and reset values. -/

namespace Sys2Proof.Machine

/-- One row of the register map: the address of instance (0, 0), the counts and strides of its two indices
(R645), its reset value and the masks of its fields by access type (R8). -/
structure RegDef where
  name : String
  base : Nat
  count1 : Nat
  stride1 : Nat
  count2 : Nat
  stride2 : Nat
  reset : Nat
  rw : Nat
  ro : Nat
  w1c : Nat
  wo : Nat
  deriving DecidableEq, Repr

/-- CHIP_ID (R1, 00_scope.md). -/
def CHIP_ID : Nat := 0x0
def CHIP_ID_ID : Field := ⟨CHIP_ID, 0, 32⟩

/-- CHIP_STEP (R1, 00_scope.md). -/
def CHIP_STEP : Nat := 0x4
def CHIP_STEP_MAJOR : Field := ⟨CHIP_STEP, 4, 4⟩
def CHIP_STEP_MINOR : Field := ⟨CHIP_STEP, 0, 4⟩

/-- HST_CFG (R523, 18_host_port_and_events.md). -/
def HST_CFG : Nat := 0x80
def HST_CFG_DUMMY : Field := ⟨HST_CFG, 8, 5⟩
def HST_CFG_RDYLANE : Field := ⟨HST_CFG, 4, 3⟩
def HST_CFG_WIDTH : Field := ⟨HST_CFG, 0, 1⟩

/-- HST_STAT (R524, 18_host_port_and_events.md). -/
def HST_STAT : Nat := 0x84
def HST_STAT_ERR : Field := ⟨HST_STAT, 7, 1⟩
def HST_STAT_WHY : Field := ⟨HST_STAT, 4, 3⟩
def HST_STAT_WIDTH_ACT : Field := ⟨HST_STAT, 0, 1⟩

/-- HST_CNT (R524, 18_host_port_and_events.md). -/
def HST_CNT : Nat := 0x88
def HST_CNT_ERRS : Field := ⟨HST_CNT, 0, 16⟩

/-- CLK_CFG (R39, 02_clocks_and_timebase.md). -/
def CLK_CFG : Nat := 0x100
def CLK_CFG_ESTOP : Field := ⟨CLK_CFG, 2, 1⟩
def CLK_CFG_EMODE : Field := ⟨CLK_CFG, 0, 2⟩

/-- CLK_STAT (R40, 02_clocks_and_timebase.md). -/
def CLK_STAT : Nat := 0x104
def CLK_STAT_MODE_REJ : Field := ⟨CLK_STAT, 8, 1⟩
def CLK_STAT_STOPPED : Field := ⟨CLK_STAT, 7, 1⟩
def CLK_STAT_FSLOCK : Field := ⟨CLK_STAT, 6, 1⟩
def CLK_STAT_APLL_LOCK : Field := ⟨CLK_STAT, 5, 1⟩
def CLK_STAT_XPLL_LOCK : Field := ⟨CLK_STAT, 4, 1⟩
def CLK_STAT_EPLL_LOCK : Field := ⟨CLK_STAT, 3, 1⟩
def CLK_STAT_FAMILY : Field := ⟨CLK_STAT, 2, 1⟩
def CLK_STAT_EMODE_ACT : Field := ⟨CLK_STAT, 0, 2⟩

/-- CLK_CTL (R41, 02_clocks_and_timebase.md). -/
def CLK_CTL : Nat := 0x108
def CLK_CTL_TBLOAD : Field := ⟨CLK_CTL, 0, 1⟩

/-- CLK_TBL (R42, 02_clocks_and_timebase.md). -/
def CLK_TBL : Nat := 0x110
def CLK_TBL_TB_LO : Field := ⟨CLK_TBL, 0, 32⟩

/-- CLK_TBH (R42, 02_clocks_and_timebase.md). -/
def CLK_TBH : Nat := 0x114
def CLK_TBH_TB_HI : Field := ⟨CLK_TBH, 0, 32⟩

/-- CLK_TBLD_L (R42, 02_clocks_and_timebase.md). -/
def CLK_TBLD_L : Nat := 0x118
def CLK_TBLD_L_LD_LO : Field := ⟨CLK_TBLD_L, 0, 32⟩

/-- CLK_TBLD_H (R42, 02_clocks_and_timebase.md). -/
def CLK_TBLD_H : Nat := 0x11c
def CLK_TBLD_H_LD_HI : Field := ⟨CLK_TBLD_H, 0, 32⟩

/-- CLK_FSYNC (R42, 02_clocks_and_timebase.md). -/
def CLK_FSYNC : Nat := 0x120
def CLK_FSYNC_BW : Field := ⟨CLK_FSYNC, 5, 2⟩
def CLK_FSYNC_EDGE : Field := ⟨CLK_FSYNC, 4, 1⟩
def CLK_FSYNC_PIN : Field := ⟨CLK_FSYNC, 1, 3⟩
def CLK_FSYNC_EN : Field := ⟨CLK_FSYNC, 0, 1⟩

/-- CLK_FSRATIO (R42, 02_clocks_and_timebase.md). -/
def CLK_FSRATIO : Nat := 0x124
def CLK_FSRATIO_FRAMES : Field := ⟨CLK_FSRATIO, 20, 8⟩
def CLK_FSRATIO_SAMPLES : Field := ⟨CLK_FSRATIO, 0, 20⟩

/-- CLK_FSCAP (R42, 02_clocks_and_timebase.md). -/
def CLK_FSCAP : Nat := 0x128
def CLK_FSCAP_TB_AT_EDGE : Field := ⟨CLK_FSCAP, 0, 32⟩

/-- CLK_FSERR (R42, 02_clocks_and_timebase.md). -/
def CLK_FSERR : Nat := 0x12c
def CLK_FSERR_ERR : Field := ⟨CLK_FSERR, 0, 16⟩

/-- BOOT_STAT (R547, 19_boot_and_restart.md). -/
def BOOT_STAT : Nat := 0x200
def BOOT_STAT_ATTEMPTS : Field := ⟨BOOT_STAT, 24, 4⟩
def BOOT_STAT_REASON : Field := ⟨BOOT_STAT, 16, 8⟩
def BOOT_STAT_FSTEP : Field := ⟨BOOT_STAT, 12, 4⟩
def BOOT_STAT_CMDREJ : Field := ⟨BOOT_STAT, 8, 1⟩
def BOOT_STAT_STEP : Field := ⟨BOOT_STAT, 4, 4⟩
def BOOT_STAT_PRIMER : Field := ⟨BOOT_STAT, 3, 1⟩
def BOOT_STAT_SLOT : Field := ⟨BOOT_STAT, 0, 3⟩

/-- BOOT_CAUSE (R547, 19_boot_and_restart.md). -/
def BOOT_CAUSE : Nat := 0x204
def BOOT_CAUSE_STRAP : Field := ⟨BOOT_CAUSE, 8, 3⟩
def BOOT_CAUSE_KAVALID : Field := ⟨BOOT_CAUSE, 7, 1⟩
def BOOT_CAUSE_CAUSE : Field := ⟨BOOT_CAUSE, 0, 5⟩

/-- BOOT_LEVEL (R547, 19_boot_and_restart.md). -/
def BOOT_LEVEL : Nat := 0x208
def BOOT_LEVEL_L05 : Field := ⟨BOOT_LEVEL, 20, 3⟩
def BOOT_LEVEL_L06_09 : Field := ⟨BOOT_LEVEL, 12, 8⟩
def BOOT_LEVEL_L00_04 : Field := ⟨BOOT_LEVEL, 0, 10⟩

/-- BOOT_DETAIL (R547, 19_boot_and_restart.md). -/
def BOOT_DETAIL : Nat := 0x20c
def BOOT_DETAIL_SECTION : Field := ⟨BOOT_DETAIL, 0, 9⟩

/-- BOOT_CNT (R547, 19_boot_and_restart.md). -/
def BOOT_CNT : Nat := 0x210
def BOOT_CNT_BOOTS : Field := ⟨BOOT_CNT, 16, 16⟩
def BOOT_CNT_CLEAN : Field := ⟨BOOT_CNT, 0, 5⟩

/-- BOOT_SLOT, instance `i` of 3 (R547, 19_boot_and_restart.md; R645). -/
def BOOT_SLOT (i : Nat) : Nat := 0x214 + 0x4 * i
def BOOT_SLOT_HCRC (i : Nat) : Field := ⟨BOOT_SLOT i, 16, 16⟩
def BOOT_SLOT_REASON (i : Nat) : Field := ⟨BOOT_SLOT i, 8, 8⟩
def BOOT_SLOT_MARK (i : Nat) : Field := ⟨BOOT_SLOT i, 0, 1⟩

/-- BOOT_CTL (R547, 19_boot_and_restart.md). -/
def BOOT_CTL : Nat := 0x220
def BOOT_CTL_KEY : Field := ⟨BOOT_CTL, 16, 16⟩
def BOOT_CTL_LSLOT : Field := ⟨BOOT_CTL, 8, 2⟩
def BOOT_CTL_CLRHIST : Field := ⟨BOOT_CTL, 4, 1⟩
def BOOT_CTL_LOAD : Field := ⟨BOOT_CTL, 2, 1⟩
def BOOT_CTL_CONT : Field := ⟨BOOT_CTL, 1, 1⟩
def BOOT_CTL_RESTART : Field := ⟨BOOT_CTL, 0, 1⟩

/-- BOOT_TIME (R547, 19_boot_and_restart.md). -/
def BOOT_TIME : Nat := 0x224
def BOOT_TIME_US : Field := ⟨BOOT_TIME, 0, 24⟩

/-- CHIP_FAULT (R574, 20_faults_spares_and_service_life.md). -/
def CHIP_FAULT : Nat := 0x300
def CHIP_FAULT_CODE : Field := ⟨CHIP_FAULT, 24, 8⟩
def CHIP_FAULT_UNIT : Field := ⟨CHIP_FAULT, 16, 5⟩
def CHIP_FAULT_JFAIL : Field := ⟨CHIP_FAULT, 2, 1⟩
def CHIP_FAULT_CONV : Field := ⟨CHIP_FAULT, 1, 1⟩
def CHIP_FAULT_FAULT : Field := ⟨CHIP_FAULT, 0, 1⟩

/-- PWR_CFG (R611, 22_power.md). -/
def PWR_CFG : Nat := 0x400
def PWR_CFG_MIWAKE : Field := ⟨PWR_CFG, 16, 4⟩
def PWR_CFG_THWARN : Field := ⟨PWR_CFG, 8, 8⟩
def PWR_CFG_GPWAKE : Field := ⟨PWR_CFG, 7, 1⟩
def PWR_CFG_WAKEEDGE : Field := ⟨PWR_CFG, 6, 1⟩
def PWR_CFG_WAKEPIN : Field := ⟨PWR_CFG, 3, 3⟩

/-- PWR_CTL (R611, 22_power.md). -/
def PWR_CTL : Nat := 0x404
def PWR_CTL_KEY : Field := ⟨PWR_CTL, 16, 16⟩
def PWR_CTL_HOLD : Field := ⟨PWR_CTL, 0, 1⟩

/-- PWR_STAT (R611, 22_power.md). -/
def PWR_STAT : Nat := 0x408
def PWR_STAT_OTSD : Field := ⟨PWR_STAT, 11, 1⟩
def PWR_STAT_TWARN : Field := ⟨PWR_STAT, 10, 1⟩
def PWR_STAT_VINLOW : Field := ⟨PWR_STAT, 9, 1⟩
def PWR_STAT_ABORT : Field := ⟨PWR_STAT, 8, 1⟩
def PWR_STAT_HREJ : Field := ⟨PWR_STAT, 7, 1⟩
def PWR_STAT_WHY : Field := ⟨PWR_STAT, 4, 3⟩
def PWR_STAT_STATE : Field := ⟨PWR_STAT, 0, 2⟩

/-- PWR_VIN (R611, 22_power.md). -/
def PWR_VIN : Nat := 0x40c
def PWR_VIN_VINMIN : Field := ⟨PWR_VIN, 16, 16⟩
def PWR_VIN_VIN : Field := ⟨PWR_VIN, 0, 16⟩

/-- PWR_TEMP (R611, 22_power.md). -/
def PWR_TEMP : Nat := 0x410
def PWR_TEMP_TMAX : Field := ⟨PWR_TEMP, 8, 8⟩
def PWR_TEMP_TEMP : Field := ⟨PWR_TEMP, 0, 8⟩

/-- PWR_OPCFG (R611, 22_power.md). -/
def PWR_OPCFG : Nat := 0x414
def PWR_OPCFG_HOLDMS : Field := ⟨PWR_OPCFG, 16, 8⟩
def PWR_OPCFG_TH1 : Field := ⟨PWR_OPCFG, 8, 5⟩
def PWR_OPCFG_TH0 : Field := ⟨PWR_OPCFG, 0, 5⟩

/-- PWR_RGCFG, instance `i` of 4 (R611, 22_power.md; R645). -/
def PWR_RGCFG (i : Nat) : Nat := 0x420 + 0x4 * i
def PWR_RGCFG_RDOZE (i : Nat) : Field := ⟨PWR_RGCFG i, 2, 1⟩
def PWR_RGCFG_FLOOR (i : Nat) : Field := ⟨PWR_RGCFG i, 0, 2⟩

/-- PWR_RGSTAT, instance `i` of 4 (R611, 22_power.md; R645). -/
def PWR_RGSTAT (i : Nat) : Nat := 0x430 + 0x4 * i
def PWR_RGSTAT_SLACKCNT (i : Nat) : Field := ⟨PWR_RGSTAT i, 16, 16⟩
def PWR_RGSTAT_SLKMAX (i : Nat) : Field := ⟨PWR_RGSTAT i, 9, 1⟩
def PWR_RGSTAT_AWAKE (i : Nat) : Field := ⟨PWR_RGSTAT i, 4, 5⟩
def PWR_RGSTAT_DOZING (i : Nat) : Field := ⟨PWR_RGSTAT i, 3, 1⟩
def PWR_RGSTAT_RAMP (i : Nat) : Field := ⟨PWR_RGSTAT i, 2, 1⟩
def PWR_RGSTAT_POINT (i : Nat) : Field := ⟨PWR_RGSTAT i, 0, 2⟩

/-- PWR_BUCK (R611, 22_power.md). -/
def PWR_BUCK : Nat := 0x440
def PWR_BUCK_ILIM : Field := ⟨PWR_BUCK, 16, 6⟩
def PWR_BUCK_BKA_OK : Field := ⟨PWR_BUCK, 5, 1⟩
def PWR_BUCK_RG_OK : Field := ⟨PWR_BUCK, 1, 4⟩
def PWR_BUCK_BKC_OK : Field := ⟨PWR_BUCK, 0, 1⟩

/-- EVC_PEND, instance `i` of 4 (R525, 18_host_port_and_events.md; R645). -/
def EVC_PEND (i : Nat) : Nat := 0x1000 + 0x4 * i
def EVC_PEND_PEND (i : Nat) : Field := ⟨EVC_PEND i, 0, 32⟩

/-- EVC_EN0, instance `i` of 4 (R525, 18_host_port_and_events.md; R645). -/
def EVC_EN0 (i : Nat) : Nat := 0x1010 + 0x4 * i
def EVC_EN0_EN (i : Nat) : Field := ⟨EVC_EN0 i, 0, 32⟩

/-- EVC_EN1, instance `i` of 4 (R525, 18_host_port_and_events.md; R645). -/
def EVC_EN1 (i : Nat) : Nat := 0x1020 + 0x4 * i
def EVC_EN1_EN (i : Nat) : Field := ⟨EVC_EN1 i, 0, 32⟩

/-- EVC_ACT0, instance `i` of 4 (R525, 18_host_port_and_events.md; R645). -/
def EVC_ACT0 (i : Nat) : Nat := 0x1030 + 0x4 * i
def EVC_ACT0_ACT (i : Nat) : Field := ⟨EVC_ACT0 i, 0, 32⟩

/-- EVC_ACT1, instance `i` of 4 (R525, 18_host_port_and_events.md; R645). -/
def EVC_ACT1 (i : Nat) : Nat := 0x1040 + 0x4 * i
def EVC_ACT1_ACT (i : Nat) : Field := ⟨EVC_ACT1 i, 0, 32⟩

/-- EVC_NEXT0 (R525, 18_host_port_and_events.md). -/
def EVC_NEXT0 : Nat := 0x1050
def EVC_NEXT0_VALID : Field := ⟨EVC_NEXT0, 31, 1⟩
def EVC_NEXT0_INDEX : Field := ⟨EVC_NEXT0, 0, 7⟩

/-- EVC_NEXT1 (R525, 18_host_port_and_events.md). -/
def EVC_NEXT1 : Nat := 0x1054
def EVC_NEXT1_VALID : Field := ⟨EVC_NEXT1, 31, 1⟩
def EVC_NEXT1_INDEX : Field := ⟨EVC_NEXT1, 0, 7⟩

/-- EVC_CFG (R525, 18_host_port_and_events.md). -/
def EVC_CFG : Nat := 0x1060
def EVC_CFG_OD1 : Field := ⟨EVC_CFG, 3, 1⟩
def EVC_CFG_POL1 : Field := ⟨EVC_CFG, 2, 1⟩
def EVC_CFG_OD0 : Field := ⟨EVC_CFG, 1, 1⟩
def EVC_CFG_POL0 : Field := ⟨EVC_CFG, 0, 1⟩

/-- EVC_RAISE (R525, 18_host_port_and_events.md). -/
def EVC_RAISE : Nat := 0x1064
def EVC_RAISE_INDEX : Field := ⟨EVC_RAISE, 0, 7⟩

/-- EZ_CFG (R290, 09_event_ingress.md). -/
def EZ_CFG : Nat := 0x2000
def EZ_CFG_JRDLY : Field := ⟨EZ_CFG, 8, 8⟩
def EZ_CFG_JR_EN : Field := ⟨EZ_CFG, 0, 1⟩

/-- EZ_LFREE (R291, 09_event_ingress.md). -/
def EZ_LFREE : Nat := 0x2004
def EZ_LFREE_CFREE : Field := ⟨EZ_LFREE, 17, 11⟩
def EZ_LFREE_BFREE : Field := ⟨EZ_LFREE, 8, 9⟩
def EZ_LFREE_AFREE : Field := ⟨EZ_LFREE, 0, 8⟩

/-- EZ_STORE (R292, 09_event_ingress.md). -/
def EZ_STORE : Nat := 0x2008
def EZ_STORE_PEAK : Field := ⟨EZ_STORE, 16, 11⟩
def EZ_STORE_OCC : Field := ⟨EZ_STORE, 0, 11⟩

/-- EZ_STHWM (R292, 09_event_ingress.md). -/
def EZ_STHWM : Nat := 0x200c
def EZ_STHWM_HWM : Field := ⟨EZ_STHWM, 0, 11⟩

/-- EZ_CNT0 (R293, 09_event_ingress.md). -/
def EZ_CNT0 : Nat := 0x2010
def EZ_CNT0_REJ_B : Field := ⟨EZ_CNT0, 16, 16⟩
def EZ_CNT0_REJ_A : Field := ⟨EZ_CNT0, 0, 16⟩

/-- EZ_CNT1 (R293, 09_event_ingress.md). -/
def EZ_CNT1 : Nat := 0x2014
def EZ_CNT1_LATE : Field := ⟨EZ_CNT1, 16, 16⟩
def EZ_CNT1_REJ_C : Field := ⟨EZ_CNT1, 0, 16⟩

/-- EZ_CNT2 (R293, 09_event_ingress.md). -/
def EZ_CNT2 : Nat := 0x2018
def EZ_CNT2_STALE : Field := ⟨EZ_CNT2, 16, 16⟩
def EZ_CNT2_DISC : Field := ⟨EZ_CNT2, 0, 16⟩

/-- EZ_DISCWHY (R294, 09_event_ingress.md). -/
def EZ_DISCWHY : Nat := 0x201c
def EZ_DISCWHY_SOURCE : Field := ⟨EZ_DISCWHY, 8, 8⟩
def EZ_DISCWHY_REASON : Field := ⟨EZ_DISCWHY, 0, 8⟩

/-- EZ_CANCELLED (R336, 10_parts_and_voice_allocation.md). -/
def EZ_CANCELLED : Nat := 0x2020
def EZ_CANCELLED_MISS : Field := ⟨EZ_CANCELLED, 16, 16⟩
def EZ_CANCELLED_HIT : Field := ⟨EZ_CANCELLED, 0, 16⟩

/-- EZ_MIDICFG, instance `i` of 4 (R295, 09_event_ingress.md; R645). -/
def EZ_MIDICFG (i : Nat) : Nat := 0x2040 + 0x4 * i
def EZ_MIDICFG_ASENSE (i : Nat) : Field := ⟨EZ_MIDICFG i, 4, 1⟩
def EZ_MIDICFG_CLASS (i : Nat) : Field := ⟨EZ_MIDICFG i, 2, 2⟩
def EZ_MIDICFG_FAST (i : Nat) : Field := ⟨EZ_MIDICFG i, 1, 1⟩
def EZ_MIDICFG_EN (i : Nat) : Field := ⟨EZ_MIDICFG i, 0, 1⟩

/-- EZ_MIDIERR, instance `i` of 4 (R296, 09_event_ingress.md; R645). -/
def EZ_MIDIERR (i : Nat) : Nat := 0x2050 + 0x4 * i
def EZ_MIDIERR_FRAME (i : Nat) : Field := ⟨EZ_MIDIERR i, 24, 8⟩
def EZ_MIDIERR_TRUNC (i : Nat) : Field := ⟨EZ_MIDIERR i, 16, 8⟩
def EZ_MIDIERR_ORPHAN (i : Nat) : Field := ⟨EZ_MIDIERR i, 8, 8⟩
def EZ_MIDIERR_UNDEF (i : Nat) : Field := ⟨EZ_MIDIERR i, 0, 8⟩

/-- EZ_MIDIDROP (R296, 09_event_ingress.md). -/
def EZ_MIDIDROP : Nat := 0x2060
def EZ_MIDIDROP_MI3 : Field := ⟨EZ_MIDIDROP, 24, 8⟩
def EZ_MIDIDROP_MI2 : Field := ⟨EZ_MIDIDROP, 16, 8⟩
def EZ_MIDIDROP_MI1 : Field := ⟨EZ_MIDIDROP, 8, 8⟩
def EZ_MIDIDROP_MI0 : Field := ⟨EZ_MIDIDROP, 0, 8⟩

/-- EZ_MPE, instance `i` of 20 (R297, 09_event_ingress.md; R645). -/
def EZ_MPE (i : Nat) : Nat := 0x2080 + 0x4 * i
def EZ_MPE_MCM (i : Nat) : Field := ⟨EZ_MPE i, 8, 1⟩
def EZ_MPE_UZ (i : Nat) : Field := ⟨EZ_MPE i, 4, 4⟩
def EZ_MPE_LZ (i : Nat) : Field := ⟨EZ_MPE i, 0, 4⟩

/-- EZ_DET, instance `i` of 16 (R298, 09_event_ingress.md; R645). -/
def EZ_DET (i : Nat) : Nat := 0x2100 + 0x4 * i
def EZ_DET_EN (i : Nat) : Field := ⟨EZ_DET i, 31, 1⟩
def EZ_DET_CLASS (i : Nat) : Field := ⟨EZ_DET i, 29, 2⟩
def EZ_DET_OFF (i : Nat) : Field := ⟨EZ_DET i, 27, 2⟩
def EZ_DET_VELSRC (i : Nat) : Field := ⟨EZ_DET i, 26, 1⟩
def EZ_DET_TIMED (i : Nat) : Field := ⟨EZ_DET i, 25, 1⟩
def EZ_DET_DLY (i : Nat) : Field := ⟨EZ_DET i, 21, 4⟩
def EZ_DET_PART (i : Nat) : Field := ⟨EZ_DET i, 15, 6⟩
def EZ_DET_KEY (i : Nat) : Field := ⟨EZ_DET i, 8, 7⟩
def EZ_DET_VEL (i : Nat) : Field := ⟨EZ_DET i, 0, 7⟩

/-- EZ_MO, instance `i` of 2 (R299, 09_event_ingress.md; R645). -/
def EZ_MO (i : Nat) : Nat := 0x2140 + 0x4 * i
def EZ_MO_GEN (i : Nat) : Field := ⟨EZ_MO i, 6, 1⟩
def EZ_MO_CLOCK (i : Nat) : Field := ⟨EZ_MO i, 5, 1⟩
def EZ_MO_THRU (i : Nat) : Field := ⟨EZ_MO i, 4, 1⟩
def EZ_MO_SRC (i : Nat) : Field := ⟨EZ_MO i, 2, 2⟩
def EZ_MO_FAST (i : Nat) : Field := ⟨EZ_MO i, 1, 1⟩
def EZ_MO_EN (i : Nat) : Field := ⟨EZ_MO i, 0, 1⟩

/-- EZ_MOTX, instance `i` of 2 (R299, 09_event_ingress.md; R645). -/
def EZ_MOTX (i : Nat) : Nat := 0x2148 + 0x4 * i
def EZ_MOTX_BYTE (i : Nat) : Field := ⟨EZ_MOTX i, 0, 8⟩

/-- EZ_MOSTAT (R299, 09_event_ingress.md). -/
def EZ_MOSTAT : Nat := 0x2150
def EZ_MOSTAT_OVF1 : Field := ⟨EZ_MOSTAT, 23, 1⟩
def EZ_MOSTAT_FREE1 : Field := ⟨EZ_MOSTAT, 16, 7⟩
def EZ_MOSTAT_OVF0 : Field := ⟨EZ_MOSTAT, 7, 1⟩
def EZ_MOSTAT_FREE0 : Field := ⟨EZ_MOSTAT, 0, 7⟩

/-- PAL_CMD (R329, 10_parts_and_voice_allocation.md). -/
def PAL_CMD : Nat := 0x3000
def PAL_CMD_OP : Field := ⟨PAL_CMD, 8, 2⟩
def PAL_CMD_PART : Field := ⟨PAL_CMD, 0, 6⟩

/-- PAL_STAT (R330, 10_parts_and_voice_allocation.md). -/
def PAL_STAT : Nat := 0x3004
def PAL_STAT_WHY : Field := ⟨PAL_STAT, 17, 3⟩
def PAL_STAT_REJ : Field := ⟨PAL_STAT, 16, 1⟩
def PAL_STAT_PARTS : Field := ⟨PAL_STAT, 0, 7⟩

/-- PAL_CNT (R331, 10_parts_and_voice_allocation.md). -/
def PAL_CNT : Nat := 0x3008
def PAL_CNT_STEAL : Field := ⟨PAL_CNT, 16, 16⟩
def PAL_CNT_DROP : Field := ⟨PAL_CNT, 0, 16⟩

/-- PAL_CNT2 (R331, 10_parts_and_voice_allocation.md). -/
def PAL_CNT2 : Nat := 0x300c
def PAL_CNT2_BUDGET : Field := ⟨PAL_CNT2, 11, 11⟩
def PAL_CNT2_EVICT : Field := ⟨PAL_CNT2, 0, 11⟩

/-- VX_LAST (R332, 10_parts_and_voice_allocation.md). -/
def VX_LAST : Nat := 0x3010
def VX_LAST_TAG : Field := ⟨VX_LAST, 16, 12⟩
def VX_LAST_HANDLE : Field := ⟨VX_LAST, 0, 16⟩

/-- VX_QUERY (R332, 10_parts_and_voice_allocation.md). -/
def VX_QUERY : Nat := 0x3014
def VX_QUERY_HANDLE : Field := ⟨VX_QUERY, 0, 16⟩

/-- VX_QINFO (R332, 10_parts_and_voice_allocation.md). -/
def VX_QINFO : Nat := 0x3018
def VX_QINFO_CURRENT : Field := ⟨VX_QINFO, 31, 1⟩
def VX_QINFO_STATE : Field := ⟨VX_QINFO, 29, 2⟩
def VX_QINFO_DETACH : Field := ⟨VX_QINFO, 28, 1⟩
def VX_QINFO_PART : Field := ⟨VX_QINFO, 22, 6⟩
def VX_QINFO_KEY : Field := ⟨VX_QINFO, 15, 7⟩
def VX_QINFO_EXPIDX : Field := ⟨VX_QINFO, 10, 5⟩

/-- PAL_PCFG, instance `i` of 64 (R333, 10_parts_and_voice_allocation.md; R645). -/
def PAL_PCFG (i : Nat) : Nat := 0x3100 + 0x10 * i
def PAL_PCFG_VLIMIT (i : Nat) : Field := ⟨PAL_PCFG i, 16, 11⟩
def PAL_PCFG_GLAZE (i : Nat) : Field := ⟨PAL_PCFG i, 8, 8⟩
def PAL_PCFG_CLASS (i : Nat) : Field := ⟨PAL_PCFG i, 4, 2⟩
def PAL_PCFG_TEMPLATE (i : Nat) : Field := ⟨PAL_PCFG i, 0, 4⟩

/-- PAL_POL, instance `i` of 64 (R334, 10_parts_and_voice_allocation.md; R645). -/
def PAL_POL (i : Nat) : Nat := 0x3104 + 0x10 * i
def PAL_POL_RMASK (i : Nat) : Field := ⟨PAL_POL i, 24, 4⟩
def PAL_POL_PRIO (i : Nat) : Field := ⟨PAL_POL i, 20, 2⟩
def PAL_POL_STEAL (i : Nat) : Field := ⟨PAL_POL i, 18, 2⟩
def PAL_POL_EVICT (i : Nat) : Field := ⟨PAL_POL i, 17, 1⟩
def PAL_POL_STEALFIRST (i : Nat) : Field := ⟨PAL_POL i, 16, 1⟩
def PAL_POL_PACKMIN (i : Nat) : Field := ⟨PAL_POL i, 8, 5⟩
def PAL_POL_CONS (i : Nat) : Field := ⟨PAL_POL i, 4, 1⟩
def PAL_POL_AFF (i : Nat) : Field := ⟨PAL_POL i, 0, 2⟩

/-- PAL_PSTAT, instance `i` of 64 (R335, 10_parts_and_voice_allocation.md; R645). -/
def PAL_PSTAT (i : Nat) : Nat := 0x3108 + 0x10 * i
def PAL_PSTAT_EXISTS (i : Nat) : Field := ⟨PAL_PSTAT i, 31, 1⟩
def PAL_PSTAT_VOICES (i : Nat) : Field := ⟨PAL_PSTAT i, 16, 11⟩
def PAL_PSTAT_TMASK (i : Nat) : Field := ⟨PAL_PSTAT i, 0, 4⟩

/-- PAL_PCNT, instance `i` of 64 (R335, 10_parts_and_voice_allocation.md; R645). -/
def PAL_PCNT (i : Nat) : Nat := 0x310c + 0x10 * i
def PAL_PCNT_NOTES (i : Nat) : Field := ⟨PAL_PCNT i, 16, 16⟩
def PAL_PCNT_STOLEN (i : Nat) : Field := ⟨PAL_PCNT i, 0, 16⟩

/-- CNV_ROVF, instance `i` of 4 (R353, 11_canvas.md; R645). -/
def CNV_ROVF (i : Nat) : Nat := 0x4010 + 0x4 * i
def CNV_ROVF_OVF (i : Nat) : Field := ⟨CNV_ROVF i, 0, 16⟩

/-- CNV_COVF (R354, 11_canvas.md). -/
def CNV_COVF : Nat := 0x4020
def CNV_COVF_OVF : Field := ⟨CNV_COVF, 0, 32⟩

/-- CNV_BFADE, instance `i` of 4 (R355, 11_canvas.md; R645). -/
def CNV_BFADE (i : Nat) : Nat := 0x4030 + 0x4 * i
def CNV_BFADE_FADE (i : Nat) : Field := ⟨CNV_BFADE i, 0, 24⟩

/-- CNV_RBG, instance `i` of 64 (R356, 11_canvas.md; R645). -/
def CNV_RBG (i : Nat) : Nat := 0x4100 + 0x4 * i
def CNV_RBG_RAMP (i : Nat) : Field := ⟨CNV_RBG i, 24, 4⟩
def CNV_RBG_GAIN (i : Nat) : Field := ⟨CNV_RBG i, 0, 24⟩

/-- CNV_RBD, instance `i` of 64 (R357, 11_canvas.md; R645). -/
def CNV_RBD (i : Nat) : Nat := 0x4200 + 0x4 * i
def CNV_RBD_EN (i : Nat) : Field := ⟨CNV_RBD i, 4, 1⟩
def CNV_RBD_PAIR (i : Nat) : Field := ⟨CNV_RBD i, 0, 4⟩

/-- CNV_CBG, instance `i` of 32 (R356, 11_canvas.md; R645). -/
def CNV_CBG (i : Nat) : Nat := 0x4300 + 0x4 * i
def CNV_CBG_RAMP (i : Nat) : Field := ⟨CNV_CBG i, 24, 4⟩
def CNV_CBG_GAIN (i : Nat) : Field := ⟨CNV_CBG i, 0, 24⟩

/-- CNV_AOMAP, instance `i` of 4 (R358, 11_canvas.md; R645). -/
def CNV_AOMAP (i : Nat) : Nat := 0x4380 + 0x4 * i
def CNV_AOMAP_EN0 (i : Nat) : Field := ⟨CNV_AOMAP i, 7, 1⟩
def CNV_AOMAP_BUS0 (i : Nat) : Field := ⟨CNV_AOMAP i, 0, 5⟩
def CNV_AOMAP_EN1 (i : Nat) : Field := ⟨CNV_AOMAP i, 15, 1⟩
def CNV_AOMAP_BUS1 (i : Nat) : Field := ⟨CNV_AOMAP i, 8, 5⟩
def CNV_AOMAP_EN2 (i : Nat) : Field := ⟨CNV_AOMAP i, 23, 1⟩
def CNV_AOMAP_BUS2 (i : Nat) : Field := ⟨CNV_AOMAP i, 16, 5⟩
def CNV_AOMAP_EN3 (i : Nat) : Field := ⟨CNV_AOMAP i, 31, 1⟩
def CNV_AOMAP_BUS3 (i : Nat) : Field := ⟨CNV_AOMAP i, 24, 5⟩

/-- CNV_CVMAP, instance `i` of 8 (R358, 11_canvas.md; R645). -/
def CNV_CVMAP (i : Nat) : Nat := 0x4390 + 0x4 * i
def CNV_CVMAP_EN0 (i : Nat) : Field := ⟨CNV_CVMAP i, 7, 1⟩
def CNV_CVMAP_BUS0 (i : Nat) : Field := ⟨CNV_CVMAP i, 0, 5⟩
def CNV_CVMAP_EN1 (i : Nat) : Field := ⟨CNV_CVMAP i, 15, 1⟩
def CNV_CVMAP_BUS1 (i : Nat) : Field := ⟨CNV_CVMAP i, 8, 5⟩
def CNV_CVMAP_EN2 (i : Nat) : Field := ⟨CNV_CVMAP i, 23, 1⟩
def CNV_CVMAP_BUS2 (i : Nat) : Field := ⟨CNV_CVMAP i, 16, 5⟩
def CNV_CVMAP_EN3 (i : Nat) : Field := ⟨CNV_CVMAP i, 31, 1⟩
def CNV_CVMAP_BUS3 (i : Nat) : Field := ⟨CNV_CVMAP i, 24, 5⟩

/-- CNV_SAMAP, instance `i` of 8 (R358, 11_canvas.md; R645). -/
def CNV_SAMAP (i : Nat) : Nat := 0x43b0 + 0x4 * i
def CNV_SAMAP_EN0 (i : Nat) : Field := ⟨CNV_SAMAP i, 7, 1⟩
def CNV_SAMAP_BUS0 (i : Nat) : Field := ⟨CNV_SAMAP i, 0, 5⟩
def CNV_SAMAP_EN1 (i : Nat) : Field := ⟨CNV_SAMAP i, 15, 1⟩
def CNV_SAMAP_BUS1 (i : Nat) : Field := ⟨CNV_SAMAP i, 8, 5⟩
def CNV_SAMAP_EN2 (i : Nat) : Field := ⟨CNV_SAMAP i, 23, 1⟩
def CNV_SAMAP_BUS2 (i : Nat) : Field := ⟨CNV_SAMAP i, 16, 5⟩
def CNV_SAMAP_EN3 (i : Nat) : Field := ⟨CNV_SAMAP i, 31, 1⟩
def CNV_SAMAP_BUS3 (i : Nat) : Field := ⟨CNV_SAMAP i, 24, 5⟩

/-- AO_CTL, instance `i` of 16 (R384, 12_output_converters.md; R645). -/
def AO_CTL (i : Nat) : Nat := 0x5000 + 0x4 * i
def AO_CTL_MUTE (i : Nat) : Field := ⟨AO_CTL i, 9, 1⟩
def AO_CTL_EN (i : Nat) : Field := ⟨AO_CTL i, 8, 1⟩
def AO_CTL_ATTEN (i : Nat) : Field := ⟨AO_CTL i, 0, 8⟩

/-- AO_STAT (R384, 12_output_converters.md). -/
def AO_STAT : Nat := 0x5040
def AO_STAT_ILIM : Field := ⟨AO_STAT, 16, 16⟩
def AO_STAT_LIVE : Field := ⟨AO_STAT, 0, 16⟩

/-- CV_CFG, instance `i` of 32 (R385, 12_output_converters.md; R645). -/
def CV_CFG (i : Nat) : Nat := 0x5100 + 0x4 * i
def CV_CFG_SPAN (i : Nat) : Field := ⟨CV_CFG i, 8, 3⟩
def CV_CFG_GSEL (i : Nat) : Field := ⟨CV_CFG i, 3, 2⟩
def CV_CFG_SRC (i : Nat) : Field := ⟨CV_CFG i, 1, 2⟩
def CV_CFG_EN (i : Nat) : Field := ⟨CV_CFG i, 0, 1⟩

/-- CV_CODE, instance `i` of 32 (R385, 12_output_converters.md; R645). -/
def CV_CODE (i : Nat) : Nat := 0x5180 + 0x4 * i
def CV_CODE_CODE (i : Nat) : Field := ⟨CV_CODE i, 0, 16⟩

/-- CV_OUT, instance `i` of 32 (R385, 12_output_converters.md; R645). -/
def CV_OUT (i : Nat) : Nat := 0x5200 + 0x4 * i
def CV_OUT_STATE (i : Nat) : Field := ⟨CV_OUT i, 17, 3⟩
def CV_OUT_WRITTEN (i : Nat) : Field := ⟨CV_OUT i, 16, 1⟩
def CV_OUT_CODE (i : Nat) : Field := ⟨CV_OUT i, 0, 16⟩

/-- CV_TRIM, instance `i` of 32 (R385, 12_output_converters.md; R645). -/
def CV_TRIM (i : Nat) : Nat := 0x5280 + 0x4 * i
def CV_TRIM_GAIN (i : Nat) : Field := ⟨CV_TRIM i, 16, 12⟩
def CV_TRIM_OFFSET (i : Nat) : Field := ⟨CV_TRIM i, 0, 8⟩

/-- CV_SINC, instance `i` of 32 (R385, 12_output_converters.md; R645). -/
def CV_SINC (i : Nat) : Nat := 0x5300 + 0x4 * i
def CV_SINC_INC (i : Nat) : Field := ⟨CV_SINC i, 0, 32⟩

/-- CV_GAMP, instance `i` of 32 (R385, 12_output_converters.md; R645). -/
def CV_GAMP (i : Nat) : Nat := 0x5380 + 0x4 * i
def CV_GAMP_OFFSET (i : Nat) : Field := ⟨CV_GAMP i, 16, 16⟩
def CV_GAMP_AMP (i : Nat) : Field := ⟨CV_GAMP i, 0, 16⟩

/-- CV_GCTL, instance `i` of 4 (R386, 12_output_converters.md; R645). -/
def CV_GCTL (i : Nat) : Nat := 0x5400 + 0x10 * i
def CV_GCTL_PRST (i : Nat) : Field := ⟨CV_GCTL i, 17, 1⟩
def CV_GCTL_SMOOTH (i : Nat) : Field := ⟨CV_GCTL i, 16, 1⟩
def CV_GCTL_SPUSE (i : Nat) : Field := ⟨CV_GCTL i, 8, 1⟩
def CV_GCTL_SPCH (i : Nat) : Field := ⟨CV_GCTL i, 0, 3⟩

/-- CV_GTRI, instance `i` of 4 (R386, 12_output_converters.md; R645). -/
def CV_GTRI (i : Nat) : Nat := 0x5404 + 0x10 * i
def CV_GTRI_INC (i : Nat) : Field := ⟨CV_GTRI i, 0, 32⟩

/-- CV_GSAW, instance `i` of 4 (R386, 12_output_converters.md; R645). -/
def CV_GSAW (i : Nat) : Nat := 0x5408 + 0x10 * i
def CV_GSAW_INC (i : Nat) : Field := ⟨CV_GSAW i, 0, 32⟩

/-- CV_GPEP, instance `i` of 4 (R386, 12_output_converters.md; R645). -/
def CV_GPEP (i : Nat) : Nat := 0x540c + 0x10 * i
def CV_GPEP_INC (i : Nat) : Field := ⟨CV_GPEP i, 0, 32⟩

/-- CV_PHRST (R386, 12_output_converters.md). -/
def CV_PHRST : Nat := 0x5440
def CV_PHRST_RST : Field := ⟨CV_PHRST, 0, 32⟩

/-- CV_STAT (R386, 12_output_converters.md). -/
def CV_STAT : Nat := 0x5444
def CV_STAT_VNEG_OK : Field := ⟨CV_STAT, 7, 1⟩
def CV_STAT_PUMP : Field := ⟨CV_STAT, 6, 1⟩
def CV_STAT_PUMPFORCE : Field := ⟨CV_STAT, 5, 1⟩
def CV_STAT_SPANREJ : Field := ⟨CV_STAT, 4, 1⟩
def CV_STAT_VINBAND : Field := ⟨CV_STAT, 2, 2⟩

/-- CV_CNT (R386, 12_output_converters.md). -/
def CV_CNT : Nat := 0x5448
def CV_CNT_HOSTLOST : Field := ⟨CV_CNT, 16, 16⟩
def CV_CNT_XDISC : Field := ⟨CV_CNT, 0, 16⟩

/-- CV_ILIM (R386, 12_output_converters.md). -/
def CV_ILIM : Nat := 0x544c
def CV_ILIM_ILIM : Field := ⟨CV_ILIM, 0, 32⟩

/-- AI_CFG, instance `i` of 16 (R410, 13_input_chain.md; R645). -/
def AI_CFG (i : Nat) : Nat := 0x6000 + 0x4 * i
def AI_CFG_IE_FADE (i : Nat) : Field := ⟨AI_CFG i, 19, 1⟩
def AI_CFG_IE_SET (i : Nat) : Field := ⟨AI_CFG i, 18, 1⟩
def AI_CFG_IE_OVR (i : Nat) : Field := ⟨AI_CFG i, 17, 1⟩
def AI_CFG_IE_CLIP (i : Nat) : Field := ⟨AI_CFG i, 16, 1⟩
def AI_CFG_DMATHR (i : Nat) : Field := ⟨AI_CFG i, 8, 6⟩
def AI_CFG_SKETCH (i : Nat) : Field := ⟨AI_CFG i, 7, 1⟩
def AI_CFG_ORATE (i : Nat) : Field := ⟨AI_CFG i, 6, 1⟩
def AI_CFG_DEC (i : Nat) : Field := ⟨AI_CFG i, 4, 2⟩
def AI_CFG_MODE (i : Nat) : Field := ⟨AI_CFG i, 1, 1⟩
def AI_CFG_EN (i : Nat) : Field := ⟨AI_CFG i, 0, 1⟩

/-- AI_RESP, instance `i` of 16 (R411, 13_input_chain.md; R645). -/
def AI_RESP (i : Nat) : Nat := 0x6040 + 0x4 * i
def AI_RESP_PEND (i : Nat) : Field := ⟨AI_RESP i, 12, 1⟩
def AI_RESP_LATCHED (i : Nat) : Field := ⟨AI_RESP i, 9, 3⟩
def AI_RESP_FADING (i : Nat) : Field := ⟨AI_RESP i, 8, 1⟩
def AI_RESP_ACTIVE (i : Nat) : Field := ⟨AI_RESP i, 4, 3⟩
def AI_RESP_RESP (i : Nat) : Field := ⟨AI_RESP i, 0, 3⟩

/-- AI_STAT, instance `i` of 16 (R412, 13_input_chain.md; R645). -/
def AI_STAT (i : Nat) : Nat := 0x6080 + 0x4 * i
def AI_STAT_DROP (i : Nat) : Field := ⟨AI_STAT i, 16, 16⟩
def AI_STAT_OCC (i : Nat) : Field := ⟨AI_STAT i, 8, 7⟩
def AI_STAT_LASTQ (i : Nat) : Field := ⟨AI_STAT i, 6, 1⟩
def AI_STAT_FADEDONE (i : Nat) : Field := ⟨AI_STAT i, 5, 1⟩
def AI_STAT_SETTLED (i : Nat) : Field := ⟨AI_STAT i, 4, 1⟩
def AI_STAT_OVR (i : Nat) : Field := ⟨AI_STAT i, 3, 1⟩
def AI_STAT_CLIP (i : Nat) : Field := ⟨AI_STAT i, 2, 1⟩
def AI_STAT_SKACT (i : Nat) : Field := ⟨AI_STAT i, 1, 1⟩
def AI_STAT_UNSET (i : Nat) : Field := ⟨AI_STAT i, 0, 1⟩

/-- AI_DLY, instance `i` of 16 (R413, 13_input_chain.md; R645). -/
def AI_DLY (i : Nat) : Nat := 0x60c0 + 0x4 * i
def AI_DLY_CYCLES (i : Nat) : Field := ⟨AI_DLY i, 0, 20⟩

/-- AI_DATA, instance `i` of 16 (R413, 13_input_chain.md; R645). -/
def AI_DATA (i : Nat) : Nat := 0x6100 + 0x4 * i
def AI_DATA_WORD (i : Nat) : Field := ⟨AI_DATA i, 0, 32⟩

/-- AI_DETCFG, instance `i` of 16 (R414, 13_input_chain.md; R645). -/
def AI_DETCFG (i : Nat) : Nat := 0x6140 + 0x4 * i
def AI_DETCFG_EN (i : Nat) : Field := ⟨AI_DETCFG i, 31, 1⟩
def AI_DETCFG_SEL (i : Nat) : Field := ⟨AI_DETCFG i, 29, 2⟩
def AI_DETCFG_TSC (i : Nat) : Field := ⟨AI_DETCFG i, 28, 1⟩
def AI_DETCFG_TRG (i : Nat) : Field := ⟨AI_DETCFG i, 23, 5⟩
def AI_DETCFG_TRGEN (i : Nat) : Field := ⟨AI_DETCFG i, 22, 1⟩
def AI_DETCFG_PKWIN (i : Nat) : Field := ⟨AI_DETCFG i, 16, 6⟩
def AI_DETCFG_PKREL (i : Nat) : Field := ⟨AI_DETCFG i, 12, 4⟩
def AI_DETCFG_RMSK (i : Nat) : Field := ⟨AI_DETCFG i, 8, 4⟩
def AI_DETCFG_ATK (i : Nat) : Field := ⟨AI_DETCFG i, 4, 4⟩
def AI_DETCFG_REL (i : Nat) : Field := ⟨AI_DETCFG i, 0, 4⟩

/-- AI_DETTHR, instance `i` of 16 (R414, 13_input_chain.md; R645). -/
def AI_DETTHR (i : Nat) : Nat := 0x6180 + 0x4 * i
def AI_DETTHR_ON (i : Nat) : Field := ⟨AI_DETTHR i, 16, 16⟩
def AI_DETTHR_OFF (i : Nat) : Field := ⟨AI_DETTHR i, 0, 16⟩

/-- AI_PEAK, instance `i` of 16 (R413, 13_input_chain.md; R645). -/
def AI_PEAK (i : Nat) : Nat := 0x6200 + 0x4 * i
def AI_PEAK_P (i : Nat) : Field := ⟨AI_PEAK i, 0, 24⟩

/-- AI_RMS, instance `i` of 16 (R413, 13_input_chain.md; R645). -/
def AI_RMS (i : Nat) : Nat := 0x6240 + 0x4 * i
def AI_RMS_R (i : Nat) : Field := ⟨AI_RMS i, 0, 24⟩

/-- AI_ENV, instance `i` of 16 (R413, 13_input_chain.md; R645). -/
def AI_ENV (i : Nat) : Nat := 0x6280 + 0x4 * i
def AI_ENV_E (i : Nat) : Field := ⟨AI_ENV i, 0, 24⟩

/-- AI_DETHOLD, instance `i` of 16 (R414, 13_input_chain.md; R645). -/
def AI_DETHOLD (i : Nat) : Nat := 0x62c0 + 0x4 * i
def AI_DETHOLD_HOLD (i : Nat) : Field := ⟨AI_DETHOLD i, 0, 16⟩

/-- AI_SYNC (R415, 13_input_chain.md). -/
def AI_SYNC : Nat := 0x6300
def AI_SYNC_SYNC : Field := ⟨AI_SYNC, 0, 16⟩

/-- SA_CFG, instance `i` of 4 (R433, 14_serial_audio_ports.md; R645). -/
def SA_CFG (i : Nat) : Nat := 0x7000 + 0x4 * i
def SA_CFG_BW (i : Nat) : Field := ⟨SA_CFG i, 18, 2⟩
def SA_CFG_RATE (i : Nat) : Field := ⟨SA_CFG i, 15, 3⟩
def SA_CFG_SHARE (i : Nat) : Field := ⟨SA_CFG i, 14, 1⟩
def SA_CFG_DLY (i : Nat) : Field := ⟨SA_CFG i, 13, 1⟩
def SA_CFG_FSINV (i : Nat) : Field := ⟨SA_CFG i, 12, 1⟩
def SA_CFG_EDGE (i : Nat) : Field := ⟨SA_CFG i, 11, 1⟩
def SA_CFG_WL (i : Nat) : Field := ⟨SA_CFG i, 9, 2⟩
def SA_CFG_SW (i : Nat) : Field := ⟨SA_CFG i, 8, 1⟩
def SA_CFG_SLOTS (i : Nat) : Field := ⟨SA_CFG i, 6, 2⟩
def SA_CFG_FMT (i : Nat) : Field := ⟨SA_CFG i, 4, 2⟩
def SA_CFG_ROLE (i : Nat) : Field := ⟨SA_CFG i, 1, 1⟩
def SA_CFG_EN (i : Nat) : Field := ⟨SA_CFG i, 0, 1⟩

/-- SA_STAT, instance `i` of 4 (R434, 14_serial_audio_ports.md; R645). -/
def SA_STAT (i : Nat) : Nat := 0x7020 + 0x4 * i
def SA_STAT_OCC (i : Nat) : Field := ⟨SA_STAT i, 8, 6⟩
def SA_STAT_CFGREJ (i : Nat) : Field := ⟨SA_STAT i, 5, 1⟩
def SA_STAT_HQOVR (i : Nat) : Field := ⟨SA_STAT i, 4, 1⟩
def SA_STAT_UNDER (i : Nat) : Field := ⟨SA_STAT i, 3, 1⟩
def SA_STAT_OVW (i : Nat) : Field := ⟨SA_STAT i, 2, 1⟩
def SA_STAT_LOCK (i : Nat) : Field := ⟨SA_STAT i, 0, 1⟩

/-- SA_RATIO, instance `i` of 4 (R435, 14_serial_audio_ports.md; R645). -/
def SA_RATIO (i : Nat) : Nat := 0x7040 + 0x4 * i
def SA_RATIO_RATIO (i : Nat) : Field := ⟨SA_RATIO i, 0, 32⟩

/-- SA_PHERR, instance `i` of 4 (R435, 14_serial_audio_ports.md; R645). -/
def SA_PHERR (i : Nat) : Nat := 0x7060 + 0x4 * i
def SA_PHERR_ERR (i : Nat) : Field := ⟨SA_PHERR i, 0, 16⟩

/-- SA_HCFG, instance `i` of 2 (R435, 14_serial_audio_ports.md; R645). -/
def SA_HCFG (i : Nat) : Nat := 0x7080 + 0x4 * i
def SA_HCFG_DMATHR (i : Nat) : Field := ⟨SA_HCFG i, 16, 6⟩
def SA_HCFG_MASK (i : Nat) : Field := ⟨SA_HCFG i, 0, 16⟩

/-- SA_DATA, instance `i` of 2 (R435, 14_serial_audio_ports.md; R645). -/
def SA_DATA (i : Nat) : Nat := 0x7090 + 0x4 * i
def SA_DATA_WORD (i : Nat) : Field := ⟨SA_DATA i, 0, 32⟩

/-- DMAn_SRC, instance `i` of 16 (R483, 16_dma.md; R645). -/
def DMAn_SRC (i : Nat) : Nat := 0x8000 + 0x20 * i
def DMAn_SRC_ADDR (i : Nat) : Field := ⟨DMAn_SRC i, 0, 32⟩

/-- DMAn_DST, instance `i` of 16 (R483, 16_dma.md; R645). -/
def DMAn_DST (i : Nat) : Nat := 0x8004 + 0x20 * i
def DMAn_DST_ADDR (i : Nat) : Field := ⟨DMAn_DST i, 0, 32⟩

/-- DMAn_CNT, instance `i` of 16 (R483, 16_dma.md; R645). -/
def DMAn_CNT (i : Nat) : Nat := 0x8008 + 0x20 * i
def DMAn_CNT_CNT (i : Nat) : Field := ⟨DMAn_CNT i, 0, 24⟩

/-- DMAn_CFG, instance `i` of 16 (R483, 16_dma.md; R645). -/
def DMAn_CFG (i : Nat) : Nat := 0x800c + 0x20 * i
def DMAn_CFG_CTRG (i : Nat) : Field := ⟨DMAn_CFG i, 27, 5⟩
def DMAn_CFG_CTEN (i : Nat) : Field := ⟨DMAn_CFG i, 26, 1⟩
def DMAn_CFG_PRIO (i : Nat) : Field := ⟨DMAn_CFG i, 24, 2⟩
def DMAn_CFG_ILV (i : Nat) : Field := ⟨DMAn_CFG i, 20, 2⟩
def DMAn_CFG_WAYS (i : Nat) : Field := ⟨DMAn_CFG i, 16, 4⟩
def DMAn_CFG_BURST (i : Nat) : Field := ⟨DMAn_CFG i, 12, 3⟩
def DMAn_CFG_DINC (i : Nat) : Field := ⟨DMAn_CFG i, 9, 1⟩
def DMAn_CFG_SINC (i : Nat) : Field := ⟨DMAn_CFG i, 8, 1⟩
def DMAn_CFG_REQ (i : Nat) : Field := ⟨DMAn_CFG i, 0, 6⟩

/-- DMAn_CTL, instance `i` of 16 (R483, 16_dma.md; R645). -/
def DMAn_CTL (i : Nat) : Nat := 0x8010 + 0x20 * i
def DMAn_CTL_STOP (i : Nat) : Field := ⟨DMAn_CTL i, 1, 1⟩
def DMAn_CTL_START (i : Nat) : Field := ⟨DMAn_CTL i, 0, 1⟩

/-- DMAn_STAT, instance `i` of 16 (R483, 16_dma.md; R645). -/
def DMAn_STAT (i : Nat) : Nat := 0x8014 + 0x20 * i
def DMAn_STAT_WHY (i : Nat) : Field := ⟨DMAn_STAT i, 5, 3⟩
def DMAn_STAT_TMISS (i : Nat) : Field := ⟨DMAn_STAT i, 4, 1⟩
def DMAn_STAT_WBUSY (i : Nat) : Field := ⟨DMAn_STAT i, 3, 1⟩
def DMAn_STAT_STATE (i : Nat) : Field := ⟨DMAn_STAT i, 0, 2⟩

/-- DMA_ERR (R484, 16_dma.md). -/
def DMA_ERR : Nat := 0x8400
def DMA_ERR_ERR : Field := ⟨DMA_ERR, 0, 16⟩

/-- TMRn_CFG, instance `i` of 16 (R501, 17_timers.md; R645). -/
def TMRn_CFG (i : Nat) : Nat := 0x9000 + 0x40 * i
def TMRn_CFG_PRE (i : Nat) : Field := ⟨TMRn_CFG i, 22, 8⟩
def TMRn_CFG_CLK (i : Nat) : Field := ⟨TMRn_CFG i, 19, 3⟩
def TMRn_CFG_CTRG (i : Nat) : Field := ⟨TMRn_CFG i, 14, 5⟩
def TMRn_CFG_SMODE (i : Nat) : Field := ⟨TMRn_CFG i, 11, 3⟩
def TMRn_CFG_STRG (i : Nat) : Field := ⟨TMRn_CFG i, 6, 5⟩
def TMRn_CFG_PEREN (i : Nat) : Field := ⟨TMRn_CFG i, 5, 1⟩

/-- TMRn_IO, instance `i` of 16 (R501, 17_timers.md; R645). -/
def TMRn_IO (i : Nat) : Nat := 0x9004 + 0x40 * i
def TMRn_IO_OEN (i : Nat) : Field := ⟨TMRn_IO i, 31, 1⟩
def TMRn_IO_OSEL (i : Nat) : Field := ⟨TMRn_IO i, 29, 2⟩
def TMRn_IO_OTRG (i : Nat) : Field := ⟨TMRn_IO i, 24, 5⟩
def TMRn_IO_GPMODE (i : Nat) : Field := ⟨TMRn_IO i, 22, 2⟩
def TMRn_IO_OPIN (i : Nat) : Field := ⟨TMRn_IO i, 19, 3⟩
def TMRn_IO_CAPSRC (i : Nat) : Field := ⟨TMRn_IO i, 17, 2⟩
def TMRn_IO_CAPTRG (i : Nat) : Field := ⟨TMRn_IO i, 12, 5⟩
def TMRn_IO_IPIN (i : Nat) : Field := ⟨TMRn_IO i, 9, 3⟩
def TMRn_IO_IEDGE (i : Nat) : Field := ⟨TMRn_IO i, 8, 1⟩

/-- TMRn_CTL, instance `i` of 16 (R501, 17_timers.md; R645). -/
def TMRn_CTL (i : Nat) : Nat := 0x9008 + 0x40 * i
def TMRn_CTL_IE (i : Nat) : Field := ⟨TMRn_CTL i, 8, 6⟩
def TMRn_CTL_RST (i : Nat) : Field := ⟨TMRn_CTL i, 1, 1⟩
def TMRn_CTL_RUN (i : Nat) : Field := ⟨TMRn_CTL i, 0, 1⟩

/-- TMRn_CNT, instance `i` of 16 (R501, 17_timers.md; R645). -/
def TMRn_CNT (i : Nat) : Nat := 0x900c + 0x40 * i
def TMRn_CNT_CNT (i : Nat) : Field := ⟨TMRn_CNT i, 0, 32⟩

/-- TMRn_CMP0, instance `i` of 16 (R501, 17_timers.md; R645). -/
def TMRn_CMP0 (i : Nat) : Nat := 0x9010 + 0x40 * i
def TMRn_CMP0_CMP (i : Nat) : Field := ⟨TMRn_CMP0 i, 0, 32⟩

/-- TMRn_CMP1, instance `i` of 16 (R501, 17_timers.md; R645). -/
def TMRn_CMP1 (i : Nat) : Nat := 0x9014 + 0x40 * i
def TMRn_CMP1_CMP (i : Nat) : Field := ⟨TMRn_CMP1 i, 0, 32⟩

/-- TMRn_PER, instance `i` of 16 (R501, 17_timers.md; R645). -/
def TMRn_PER (i : Nat) : Nat := 0x9018 + 0x40 * i
def TMRn_PER_PER (i : Nat) : Field := ⟨TMRn_PER i, 0, 32⟩

/-- TMRn_CAP, instance `i` of 16 (R501, 17_timers.md; R645). -/
def TMRn_CAP (i : Nat) : Nat := 0x901c + 0x40 * i
def TMRn_CAP_CAP (i : Nat) : Field := ⟨TMRn_CAP i, 0, 32⟩

/-- TMRn_STAT, instance `i` of 16 (R501, 17_timers.md; R645). -/
def TMRn_STAT (i : Nat) : Nat := 0x9020 + 0x40 * i
def TMRn_STAT_LATE (i : Nat) : Field := ⟨TMRn_STAT i, 5, 1⟩
def TMRn_STAT_CAP_OVR (i : Nat) : Field := ⟨TMRn_STAT i, 4, 1⟩
def TMRn_STAT_CAP_NEW (i : Nat) : Field := ⟨TMRn_STAT i, 3, 1⟩
def TMRn_STAT_M1 (i : Nat) : Field := ⟨TMRn_STAT i, 2, 1⟩
def TMRn_STAT_M0 (i : Nat) : Field := ⟨TMRn_STAT i, 1, 1⟩
def TMRn_STAT_OVF (i : Nat) : Field := ⟨TMRn_STAT i, 0, 1⟩

/-- TMRn_HI, instance `i` of 16 (R501, 17_timers.md; R645). -/
def TMRn_HI (i : Nat) : Nat := 0x9024 + 0x40 * i
def TMRn_HI_HI (i : Nat) : Field := ⟨TMRn_HI i, 0, 32⟩

/-- TMR_TRGSW (R502, 17_timers.md). -/
def TMR_TRGSW : Nat := 0x9400
def TMR_TRGSW_PULSE : Field := ⟨TMR_TRGSW, 0, 32⟩

/-- TMR_TRGSEEN (R502, 17_timers.md). -/
def TMR_TRGSEEN : Nat := 0x9404
def TMR_TRGSEEN_SEEN : Field := ⟨TMR_TRGSEEN, 0, 32⟩

/-- TMR_TCFG (R502, 17_timers.md). -/
def TMR_TCFG : Nat := 0x9410
def TMR_TCFG_KEN : Field := ⟨TMR_TCFG, 19, 1⟩
def TMR_TCFG_KTRG : Field := ⟨TMR_TCFG, 14, 5⟩
def TMR_TCFG_BEN : Field := ⟨TMR_TCFG, 13, 1⟩
def TMR_TCFG_BTRG : Field := ⟨TMR_TCFG, 8, 5⟩
def TMR_TCFG_SRC : Field := ⟨TMR_TCFG, 0, 3⟩

/-- TMR_TCTL (R502, 17_timers.md). -/
def TMR_TCTL : Nat := 0x9414
def TMR_TCTL_CONT : Field := ⟨TMR_TCTL, 2, 1⟩
def TMR_TCTL_STOP : Field := ⟨TMR_TCTL, 1, 1⟩
def TMR_TCTL_START : Field := ⟨TMR_TCTL, 0, 1⟩

/-- TMR_TBEAT (R502, 17_timers.md). -/
def TMR_TBEAT : Nat := 0x9418
def TMR_TBEAT_RUN : Field := ⟨TMR_TBEAT, 31, 1⟩
def TMR_TBEAT_LEN : Field := ⟨TMR_TBEAT, 0, 24⟩

/-- TMR_TPOS (R502, 17_timers.md). -/
def TMR_TPOS : Nat := 0x941c
def TMR_TPOS_TICKS : Field := ⟨TMR_TPOS, 0, 32⟩

/-- MEM_ECC (R465, 15_memory_banks_and_streaming.md). -/
def MEM_ECC : Nat := 0xa000
def MEM_ECC_CE : Field := ⟨MEM_ECC, 16, 16⟩
def MEM_ECC_UE : Field := ⟨MEM_ECC, 0, 16⟩

/-- MEM_EADDR (R465, 15_memory_banks_and_streaming.md). -/
def MEM_EADDR : Nat := 0xa004
def MEM_EADDR_KIND : Field := ⟨MEM_EADDR, 31, 1⟩
def MEM_EADDR_BANK : Field := ⟨MEM_EADDR, 20, 3⟩
def MEM_EADDR_WORD : Field := ⟨MEM_EADDR, 0, 19⟩

/-- MEM_SPARE, instance `i` of 8 (R465, 15_memory_banks_and_streaming.md; R645). -/
def MEM_SPARE (i : Nat) : Nat := 0xa010 + 0x4 * i
def MEM_SPARE_USED (i : Nat) : Field := ⟨MEM_SPARE i, 0, 6⟩

/-- RST_CFG (R465, 15_memory_banks_and_streaming.md). -/
def RST_CFG : Nat := 0xa100
def RST_CFG_PERIOD : Field := ⟨RST_CFG, 8, 8⟩
def RST_CFG_EN : Field := ⟨RST_CFG, 0, 1⟩

/-- RST_STAT (R465, 15_memory_banks_and_streaming.md). -/
def RST_STAT : Nat := 0xa104
def RST_STAT_NOSPARE : Field := ⟨RST_STAT, 4, 1⟩
def RST_STAT_REPAIR : Field := ⟨RST_STAT, 3, 1⟩
def RST_STAT_WRAP : Field := ⟨RST_STAT, 2, 1⟩
def RST_STAT_PHASE : Field := ⟨RST_STAT, 0, 2⟩

/-- RST_POS (R465, 15_memory_banks_and_streaming.md). -/
def RST_POS : Nat := 0xa108
def RST_POS_BANK : Field := ⟨RST_POS, 11, 3⟩
def RST_POS_GROUP : Field := ⟨RST_POS, 0, 11⟩

/-- RST_CCFG (R575, 20_faults_spares_and_service_life.md). -/
def RST_CCFG : Nat := 0xa110
def RST_CCFG_CVPER : Field := ⟨RST_CCFG, 24, 8⟩
def RST_CCFG_PERIOD : Field := ⟨RST_CCFG, 8, 8⟩
def RST_CCFG_CVEN : Field := ⟨RST_CCFG, 1, 1⟩
def RST_CCFG_EN : Field := ⟨RST_CCFG, 0, 1⟩

/-- RST_CPOS (R575, 20_faults_spares_and_service_life.md). -/
def RST_CPOS : Nat := 0xa114
def RST_CPOS_REGION : Field := ⟨RST_CPOS, 11, 2⟩
def RST_CPOS_BLOCK : Field := ⟨RST_CPOS, 6, 5⟩
def RST_CPOS_CELL : Field := ⟨RST_CPOS, 2, 4⟩
def RST_CPOS_PHASE : Field := ⟨RST_CPOS, 0, 2⟩

/-- RST_CCNT (R575, 20_faults_spares_and_service_life.md). -/
def RST_CCNT : Nat := 0xa118
def RST_CCNT_SKIP : Field := ⟨RST_CCNT, 16, 16⟩
def RST_CCNT_TRANS : Field := ⟨RST_CCNT, 0, 16⟩

/-- RST_JSTAT (R575, 20_faults_spares_and_service_life.md). -/
def RST_JSTAT : Nat := 0xa11c
def RST_JSTAT_RECS : Field := ⟨RST_JSTAT, 16, 13⟩
def RST_JSTAT_PEND : Field := ⟨RST_JSTAT, 8, 8⟩
def RST_JSTAT_FAIL : Field := ⟨RST_JSTAT, 1, 1⟩
def RST_JSTAT_BUSY : Field := ⟨RST_JSTAT, 0, 1⟩

/-- RST_JCTL (R575, 20_faults_spares_and_service_life.md). -/
def RST_JCTL : Nat := 0xa120
def RST_JCTL_HOLD : Field := ⟨RST_JCTL, 1, 1⟩
def RST_JCTL_COMMIT : Field := ⟨RST_JCTL, 0, 1⟩

/-- XS_CFG, instance `i` of 2 (R466, 15_memory_banks_and_streaming.md; R645). -/
def XS_CFG (i : Nat) : Nat := 0xa200 + 0x40 * i
def XS_CFG_AUTOFB (i : Nat) : Field := ⟨XS_CFG i, 16, 1⟩
def XS_CFG_DUMMY (i : Nat) : Field := ⟨XS_CFG i, 10, 6⟩
def XS_CFG_CLKDIV (i : Nat) : Field := ⟨XS_CFG i, 4, 4⟩
def XS_CFG_PROTO (i : Nat) : Field := ⟨XS_CFG i, 0, 1⟩

/-- XS_STAT, instance `i` of 2 (R466, 15_memory_banks_and_streaming.md; R645). -/
def XS_STAT (i : Nat) : Nat := 0xa204 + 0x40 * i
def XS_STAT_TOUT (i : Nat) : Field := ⟨XS_STAT i, 16, 16⟩
def XS_STAT_WERR (i : Nat) : Field := ⟨XS_STAT i, 4, 1⟩
def XS_STAT_FB (i : Nat) : Field := ⟨XS_STAT i, 3, 1⟩
def XS_STAT_NODEV (i : Nat) : Field := ⟨XS_STAT i, 2, 1⟩
def XS_STAT_CBUSY (i : Nat) : Field := ⟨XS_STAT i, 1, 1⟩
def XS_STAT_FBUSY (i : Nat) : Field := ⟨XS_STAT i, 0, 1⟩

/-- XS_CMD, instance `i` of 2 (R466, 15_memory_banks_and_streaming.md; R645). -/
def XS_CMD (i : Nat) : Nat := 0xa208 + 0x40 * i
def XS_CMD_COUNT (i : Nat) : Field := ⟨XS_CMD i, 8, 8⟩
def XS_CMD_OP (i : Nat) : Field := ⟨XS_CMD i, 0, 3⟩

/-- XS_ADDR, instance `i` of 2 (R466, 15_memory_banks_and_streaming.md; R645). -/
def XS_ADDR (i : Nat) : Nat := 0xa20c + 0x40 * i
def XS_ADDR_ADDR (i : Nat) : Field := ⟨XS_ADDR i, 0, 26⟩

/-- XS_DATA, instance `i` of 2 (R466, 15_memory_banks_and_streaming.md; R645). -/
def XS_DATA (i : Nat) : Nat := 0xa210 + 0x40 * i
def XS_DATA_DATA (i : Nat) : Field := ⟨XS_DATA i, 0, 32⟩

/-- SAF_STAT (R590, 21_security_and_debug.md). -/
def SAF_STAT : Nat := 0xb000
def SAF_STAT_TLEFT : Field := ⟨SAF_STAT, 8, 4⟩
def SAF_STAT_PROT : Field := ⟨SAF_STAT, 7, 1⟩
def SAF_STAT_TAMPER : Field := ⟨SAF_STAT, 6, 1⟩
def SAF_STAT_LOCKED : Field := ⟨SAF_STAT, 5, 1⟩
def SAF_STAT_ERASED : Field := ⟨SAF_STAT, 4, 1⟩
def SAF_STAT_SIGNREQ : Field := ⟨SAF_STAT, 3, 1⟩
def SAF_STAT_CMDREJ : Field := ⟨SAF_STAT, 2, 1⟩
def SAF_STAT_DBGDIS : Field := ⟨SAF_STAT, 1, 1⟩

/-- SAF_UID, instance `i` of 2 (R590, 21_security_and_debug.md; R645). -/
def SAF_UID (i : Nat) : Nat := 0xb004 + 0x4 * i
def SAF_UID_UID (i : Nat) : Field := ⟨SAF_UID i, 0, 32⟩

/-- SAF_SLOT, instance `i` of 4 (R590, 21_security_and_debug.md; R645). -/
def SAF_SLOT (i : Nat) : Nat := 0xb010 + 0x4 * i
def SAF_SLOT_HPRE (i : Nat) : Field := ⟨SAF_SLOT i, 16, 16⟩
def SAF_SLOT_STATE (i : Nat) : Field := ⟨SAF_SLOT i, 0, 2⟩

/-- SAF_STAGE, instance `i` of 16 (R590, 21_security_and_debug.md; R645). -/
def SAF_STAGE (i : Nat) : Nat := 0xb040 + 0x4 * i
def SAF_STAGE_DATA (i : Nat) : Field := ⟨SAF_STAGE i, 0, 32⟩

/-- SAF_CMD (R590, 21_security_and_debug.md). -/
def SAF_CMD : Nat := 0xb080
def SAF_CMD_KEY : Field := ⟨SAF_CMD, 16, 16⟩
def SAF_CMD_SLOT : Field := ⟨SAF_CMD, 4, 2⟩
def SAF_CMD_OP : Field := ⟨SAF_CMD, 0, 3⟩

/-- DBG_CTL (R591, 21_security_and_debug.md). -/
def DBG_CTL : Nat := 0xb100
def DBG_CTL_VERIFY : Field := ⟨DBG_CTL, 2, 1⟩
def DBG_CTL_CHAL : Field := ⟨DBG_CTL, 1, 1⟩
def DBG_CTL_LOCK : Field := ⟨DBG_CTL, 0, 1⟩

/-- DBG_STAT (R591, 21_security_and_debug.md). -/
def DBG_STAT : Nat := 0xb104
def DBG_STAT_WHY : Field := ⟨DBG_STAT, 8, 4⟩
def DBG_STAT_FAILS : Field := ⟨DBG_STAT, 2, 2⟩
def DBG_STAT_HALTED : Field := ⟨DBG_STAT, 1, 1⟩
def DBG_STAT_UNLOCKED : Field := ⟨DBG_STAT, 0, 1⟩

/-- DBG_CHAL, instance `i` of 8 (R591, 21_security_and_debug.md; R645). -/
def DBG_CHAL (i : Nat) : Nat := 0xb120 + 0x4 * i
def DBG_CHAL_CHAL (i : Nat) : Field := ⟨DBG_CHAL i, 0, 32⟩

/-- DBG_RESP, instance `i` of 32 (R591, 21_security_and_debug.md; R645). -/
def DBG_RESP (i : Nat) : Nat := 0xb140 + 0x4 * i
def DBG_RESP_RESP (i : Nat) : Field := ⟨DBG_RESP i, 0, 32⟩

/-- DBG_HALT (R591, 21_security_and_debug.md). -/
def DBG_HALT : Nat := 0xb1c0
def DBG_HALT_EZ : Field := ⟨DBG_HALT, 16, 1⟩
def DBG_HALT_BLK : Field := ⟨DBG_HALT, 15, 1⟩
def DBG_HALT_REGION : Field := ⟨DBG_HALT, 5, 2⟩
def DBG_HALT_BLOCK : Field := ⟨DBG_HALT, 0, 5⟩

/-- RGNn_RDY, instance `i` of 4 (R122, 04_engine_organization.md; R645). -/
def RGNn_RDY (i : Nat) : Nat := 0x10020 + 0x4000 * i
def RGNn_RDY_FULL (i : Nat) : Field := ⟨RGNn_RDY i, 16, 1⟩
def RGNn_RDY_PEAK (i : Nat) : Field := ⟨RGNn_RDY i, 8, 8⟩
def RGNn_RDY_OCC (i : Nat) : Field := ⟨RGNn_RDY i, 0, 7⟩

/-- RGNn_PGDLY, instance `i` of 4 (R123, 04_engine_organization.md; R645). -/
def RGNn_PGDLY (i : Nat) : Nat := 0x10024 + 0x4000 * i
def RGNn_PGDLY_MS (i : Nat) : Field := ⟨RGNn_PGDLY i, 0, 8⟩

/-- RGNn_FENCE, instance `i` of 4 (R464, 15_memory_banks_and_streaming.md; R645). -/
def RGNn_FENCE (i : Nat) : Nat := 0x10030 + 0x4000 * i
def RGNn_FENCE_DRAINED (i : Nat) : Field := ⟨RGNn_FENCE i, 0, 6⟩

/-- RGNn_MSTAT, instance `i` of 4 (R464, 15_memory_banks_and_streaming.md; R645). -/
def RGNn_MSTAT (i : Nat) : Nat := 0x10034 + 0x4000 * i
def RGNn_MSTAT_BUSY (i : Nat) : Field := ⟨RGNn_MSTAT i, 16, 16⟩
def RGNn_MSTAT_WBOCC (i : Nat) : Field := ⟨RGNn_MSTAT i, 0, 6⟩

/-- RGNn_STRSTAT, instance `i` of 4 (R464, 15_memory_banks_and_streaming.md; R645). -/
def RGNn_STRSTAT (i : Nat) : Nat := 0x10038 + 0x4000 * i
def RGNn_STRSTAT_RINGS (i : Nat) : Field := ⟨RGNn_STRSTAT i, 16, 9⟩
def RGNn_STRSTAT_UND (i : Nat) : Field := ⟨RGNn_STRSTAT i, 0, 16⟩

/-- RGNn_STRCNT, instance `i` of 4 (R464, 15_memory_banks_and_streaming.md; R645). -/
def RGNn_STRCNT (i : Nat) : Nat := 0x1003c + 0x4000 * i
def RGNn_STRCNT_NORING (i : Nat) : Field := ⟨RGNn_STRCNT i, 16, 16⟩

/-- RGNn_FAULT, instance `i` of 4 (R571, 20_faults_spares_and_service_life.md; R645). -/
def RGNn_FAULT (i : Nat) : Nat := 0x10040 + 0x4000 * i
def RGNn_FAULT_CODE (i : Nat) : Field := ⟨RGNn_FAULT i, 24, 8⟩
def RGNn_FAULT_BLOCK (i : Nat) : Field := ⟨RGNn_FAULT i, 19, 5⟩
def RGNn_FAULT_MASTER (i : Nat) : Field := ⟨RGNn_FAULT i, 16, 3⟩
def RGNn_FAULT_STANDIN (i : Nat) : Field := ⟨RGNn_FAULT i, 9, 1⟩
def RGNn_FAULT_OOS (i : Nat) : Field := ⟨RGNn_FAULT i, 8, 1⟩
def RGNn_FAULT_REVOKE (i : Nat) : Field := ⟨RGNn_FAULT i, 2, 1⟩
def RGNn_FAULT_SPARE (i : Nat) : Field := ⟨RGNn_FAULT i, 1, 1⟩
def RGNn_FAULT_FAULT (i : Nat) : Field := ⟨RGNn_FAULT i, 0, 1⟩

/-- RGNn_SPARE, instance `i` of 4 (R572, 20_faults_spares_and_service_life.md; R645). -/
def RGNn_SPARE (i : Nat) : Nat := 0x10044 + 0x4000 * i
def RGNn_SPARE_OUT (i : Nat) : Field := ⟨RGNn_SPARE i, 27, 5⟩
def RGNn_SPARE_SCDEAD (i : Nat) : Field := ⟨RGNn_SPARE i, 22, 5⟩
def RGNn_SPARE_SCIN (i : Nat) : Field := ⟨RGNn_SPARE i, 17, 5⟩
def RGNn_SPARE_FREE (i : Nat) : Field := ⟨RGNn_SPARE i, 12, 2⟩
def RGNn_SPARE_SB1 (i : Nat) : Field := ⟨RGNn_SPARE i, 5, 5⟩
def RGNn_SPARE_SB0 (i : Nat) : Field := ⟨RGNn_SPARE i, 0, 5⟩

/-- BLK_CTL, region `i`, block `b` (R124, 04_engine_organization.md; R645). -/
def BLK_CTL (i b : Nat) : Nat := 0x11000 + 0x4000 * i + 0x80 * b
def BLK_CTL_TMPL (i b : Nat) : Field := ⟨BLK_CTL i b, 8, 5⟩
def BLK_CTL_LOAD (i b : Nat) : Field := ⟨BLK_CTL i b, 4, 1⟩
def BLK_CTL_KEEP (i b : Nat) : Field := ⟨BLK_CTL i b, 3, 1⟩
def BLK_CTL_MODE (i b : Nat) : Field := ⟨BLK_CTL i b, 2, 1⟩
def BLK_CTL_EN (i b : Nat) : Field := ⟨BLK_CTL i b, 0, 1⟩

/-- BLK_STAT, region `i`, block `b` (R125, 04_engine_organization.md; R645). -/
def BLK_STAT (i b : Nat) : Nat := 0x11004 + 0x4000 * i + 0x80 * b
def BLK_STAT_LOAD_REJ (i b : Nat) : Field := ⟨BLK_STAT i b, 20, 1⟩
def BLK_STAT_GLZ_FREE (i b : Nat) : Field := ⟨BLK_STAT i b, 18, 2⟩
def BLK_STAT_SC_BUSY (i b : Nat) : Field := ⟨BLK_STAT i b, 17, 1⟩
def BLK_STAT_TMPL (i b : Nat) : Field := ⟨BLK_STAT i b, 12, 5⟩
def BLK_STAT_ACTIVE (i b : Nat) : Field := ⟨BLK_STAT i b, 7, 5⟩
def BLK_STAT_STATE (i b : Nat) : Field := ⟨BLK_STAT i b, 0, 3⟩

/-- BLK_FAULT, region `i`, block `b` (R126, 04_engine_organization.md; R645). -/
def BLK_FAULT (i b : Nat) : Nat := 0x11008 + 0x4000 * i + 0x80 * b
def BLK_FAULT_SLOT (i b : Nat) : Field := ⟨BLK_FAULT i b, 20, 4⟩
def BLK_FAULT_CELL (i b : Nat) : Field := ⟨BLK_FAULT i b, 16, 4⟩
def BLK_FAULT_CODE (i b : Nat) : Field := ⟨BLK_FAULT i b, 8, 8⟩
def BLK_FAULT_OTHER (i b : Nat) : Field := ⟨BLK_FAULT i b, 1, 1⟩
def BLK_FAULT_BUDGET (i b : Nat) : Field := ⟨BLK_FAULT i b, 0, 1⟩

/-- BLK_PEAK, region `i`, block `b` (R127, 04_engine_organization.md; R645). -/
def BLK_PEAK (i b : Nat) : Nat := 0x1100c + 0x4000 * i + 0x80 * b
def BLK_PEAK_MC1 (i b : Nat) : Field := ⟨BLK_PEAK i b, 16, 16⟩
def BLK_PEAK_MC0 (i b : Nat) : Field := ⟨BLK_PEAK i b, 0, 16⟩

/-- BLK_CNT, region `i`, block `b` (R128, 04_engine_organization.md; R645). -/
def BLK_CNT (i b : Nat) : Nat := 0x11010 + 0x4000 * i + 0x80 * b
def BLK_CNT_MISS (i b : Nat) : Field := ⟨BLK_CNT i b, 16, 16⟩
def BLK_CNT_OVR (i b : Nat) : Field := ⟨BLK_CNT i b, 0, 16⟩

/-- BLK_MACOV, region `i`, block `b` (R197, 06_mac_cells.md; R645). -/
def BLK_MACOV (i b : Nat) : Nat := 0x11014 + 0x4000 * i + 0x80 * b
def BLK_MACOV_MC1 (i b : Nat) : Field := ⟨BLK_MACOV i b, 16, 16⟩
def BLK_MACOV_MC0 (i b : Nat) : Field := ⟨BLK_MACOV i b, 0, 16⟩

/-- BLK_MACC, region `i`, block `b` (R198, 06_mac_cells.md; R645). -/
def BLK_MACC (i b : Nat) : Nat := 0x11018 + 0x4000 * i + 0x80 * b
def BLK_MACC_ERR (i b : Nat) : Field := ⟨BLK_MACC i b, 29, 1⟩
def BLK_MACC_CELL (i b : Nat) : Field := ⟨BLK_MACC i b, 25, 1⟩
def BLK_MACC_MEM (i b : Nat) : Field := ⟨BLK_MACC i b, 23, 2⟩
def BLK_MACC_INC (i b : Nat) : Field := ⟨BLK_MACC i b, 20, 1⟩
def BLK_MACC_ADDR (i b : Nat) : Field := ⟨BLK_MACC i b, 0, 10⟩

/-- BLK_MDAT, region `i`, block `b` (R199, 06_mac_cells.md; R645). -/
def BLK_MDAT (i b : Nat) : Nat := 0x1101c + 0x4000 * i + 0x80 * b
def BLK_MDAT_DATA (i b : Nat) : Field := ⟨BLK_MDAT i b, 0, 32⟩

/-- BLK_MINFO, region `i`, block `b` (R202, 06_mac_cells.md; R645). -/
def BLK_MINFO (i b : Nat) : Nat := 0x11020 + 0x4000 * i + 0x80 * b
def BLK_MINFO_MC1_LOOP (i b : Nat) : Field := ⟨BLK_MINFO i b, 26, 1⟩
def BLK_MINFO_MC1_LEN (i b : Nat) : Field := ⟨BLK_MINFO i b, 16, 10⟩
def BLK_MINFO_MC0_LOOP (i b : Nat) : Field := ⟨BLK_MINFO i b, 10, 1⟩
def BLK_MINFO_MC0_LEN (i b : Nat) : Field := ⟨BLK_MINFO i b, 0, 10⟩

/-- BLK_SCST, region `i`, block `b` (R573, 20_faults_spares_and_service_life.md; R645). -/
def BLK_SCST (i b : Nat) : Nat := 0x11024 + 0x4000 * i + 0x80 * b
def BLK_SCST_TEST (i b : Nat) : Field := ⟨BLK_SCST i b, 5, 1⟩
def BLK_SCST_DEAD (i b : Nat) : Field := ⟨BLK_SCST i b, 4, 1⟩
def BLK_SCST_FOR (i b : Nat) : Field := ⟨BLK_SCST i b, 0, 4⟩

/-- Rows of the register map (R646 to R650). -/
def regTable0 : List RegDef :=
  [ ⟨"CHIP_ID", 0x0, 1, 0x4, 1, 0x4, 0x47561536, 0x0, 0xffffffff, 0x0, 0x0⟩
  , ⟨"CHIP_STEP", 0x4, 1, 0x4, 1, 0x4, 0x0, 0x0, 0xff, 0x0, 0x0⟩
  , ⟨"HST_CFG", 0x80, 1, 0x4, 1, 0x4, 0xa70, 0x1f71, 0x0, 0x0, 0x0⟩
  , ⟨"HST_STAT", 0x84, 1, 0x4, 1, 0x4, 0x0, 0x0, 0x71, 0x80, 0x0⟩
  , ⟨"HST_CNT", 0x88, 1, 0x4, 1, 0x4, 0x0, 0xffff, 0x0, 0x0, 0x0⟩
  , ⟨"CLK_CFG", 0x100, 1, 0x4, 1, 0x4, 0x4, 0x7, 0x0, 0x0, 0x0⟩
  , ⟨"CLK_STAT", 0x104, 1, 0x4, 1, 0x4, 0x80, 0x0, 0xff, 0x100, 0x0⟩
  , ⟨"CLK_CTL", 0x108, 1, 0x4, 1, 0x4, 0x0, 0x0, 0x0, 0x0, 0x1⟩
  , ⟨"CLK_TBL", 0x110, 1, 0x4, 1, 0x4, 0x0, 0x0, 0xffffffff, 0x0, 0x0⟩
  , ⟨"CLK_TBH", 0x114, 1, 0x4, 1, 0x4, 0x0, 0x0, 0xffffffff, 0x0, 0x0⟩
  , ⟨"CLK_TBLD_L", 0x118, 1, 0x4, 1, 0x4, 0x0, 0xffffffff, 0x0, 0x0, 0x0⟩
  , ⟨"CLK_TBLD_H", 0x11c, 1, 0x4, 1, 0x4, 0x0, 0xffffffff, 0x0, 0x0, 0x0⟩
  , ⟨"CLK_FSYNC", 0x120, 1, 0x4, 1, 0x4, 0x20, 0x7f, 0x0, 0x0, 0x0⟩
  , ⟨"CLK_FSRATIO", 0x124, 1, 0x4, 1, 0x4, 0x100780, 0xfffffff, 0x0, 0x0, 0x0⟩
  , ⟨"CLK_FSCAP", 0x128, 1, 0x4, 1, 0x4, 0x0, 0x0, 0xffffffff, 0x0, 0x0⟩
  , ⟨"CLK_FSERR", 0x12c, 1, 0x4, 1, 0x4, 0x0, 0x0, 0xffff, 0x0, 0x0⟩
  , ⟨"BOOT_STAT", 0x200, 1, 0x4, 1, 0x4, 0x1000067, 0x0, 0xffff0ff, 0x100, 0x0⟩
  , ⟨"BOOT_CAUSE", 0x204, 1, 0x4, 1, 0x4, 0x1, 0x0, 0x79f, 0x0, 0x0⟩
  , ⟨"BOOT_LEVEL", 0x208, 1, 0x4, 1, 0x4, 0x0, 0x0, 0x7ff3ff, 0x0, 0x0⟩
  , ⟨"BOOT_DETAIL", 0x20c, 1, 0x4, 1, 0x4, 0x1ff, 0x0, 0x1ff, 0x0, 0x0⟩
  , ⟨"BOOT_CNT", 0x210, 1, 0x4, 1, 0x4, 0x10000, 0x0, 0xffff001f, 0x0, 0x0⟩
  , ⟨"BOOT_SLOT", 0x214, 3, 0x4, 1, 0x4, 0x0, 0x0, 0xffffff01, 0x0, 0x0⟩
  , ⟨"BOOT_CTL", 0x220, 1, 0x4, 1, 0x4, 0x0, 0x0, 0x0, 0x0, 0xffff0317⟩
  , ⟨"BOOT_TIME", 0x224, 1, 0x4, 1, 0x4, 0x0, 0x0, 0xffffff, 0x0, 0x0⟩ ]

/-- Rows of the register map (R646 to R650). -/
def regTable1 : List RegDef :=
  [ ⟨"CHIP_FAULT", 0x300, 1, 0x4, 1, 0x4, 0x0, 0x0, 0xff1f0000, 0x7, 0x0⟩
  , ⟨"PWR_CFG", 0x400, 1, 0x4, 1, 0x4, 0x7300, 0xffff8, 0x0, 0x0, 0x0⟩
  , ⟨"PWR_CTL", 0x404, 1, 0x4, 1, 0x4, 0x0, 0x0, 0x0, 0x0, 0xffff0001⟩
  , ⟨"PWR_STAT", 0x408, 1, 0x4, 1, 0x4, 0x0, 0x0, 0x73, 0xf80, 0x0⟩
  , ⟨"PWR_VIN", 0x40c, 1, 0x4, 1, 0x4, 0xffff0000, 0xffff0000, 0xffff, 0x0, 0x0⟩
  , ⟨"PWR_TEMP", 0x410, 1, 0x4, 1, 0x4, 0x8000, 0xff00, 0xff, 0x0, 0x0⟩
  , ⟨"PWR_OPCFG", 0x414, 1, 0x4, 1, 0x4, 0x140c04, 0xff1f1f, 0x0, 0x0, 0x0⟩
  , ⟨"PWR_RGCFG", 0x420, 4, 0x4, 1, 0x4, 0x4, 0x7, 0x0, 0x0, 0x0⟩
  , ⟨"PWR_RGSTAT", 0x430, 4, 0x4, 1, 0x4, 0x0, 0xffff0000, 0x1ff, 0x200, 0x0⟩
  , ⟨"PWR_BUCK", 0x440, 1, 0x4, 1, 0x4, 0x1, 0x0, 0x3f, 0x3f0000, 0x0⟩
  , ⟨"EVC_PEND", 0x1000, 4, 0x4, 1, 0x4, 0x0, 0x0, 0x0, 0xffffffff, 0x0⟩
  , ⟨"EVC_EN0", 0x1010, 4, 0x4, 1, 0x4, 0x0, 0xffffffff, 0x0, 0x0, 0x0⟩
  , ⟨"EVC_EN1", 0x1020, 4, 0x4, 1, 0x4, 0x0, 0xffffffff, 0x0, 0x0, 0x0⟩
  , ⟨"EVC_ACT0", 0x1030, 4, 0x4, 1, 0x4, 0x0, 0x0, 0xffffffff, 0x0, 0x0⟩
  , ⟨"EVC_ACT1", 0x1040, 4, 0x4, 1, 0x4, 0x0, 0x0, 0xffffffff, 0x0, 0x0⟩
  , ⟨"EVC_NEXT0", 0x1050, 1, 0x4, 1, 0x4, 0x0, 0x0, 0x8000007f, 0x0, 0x0⟩
  , ⟨"EVC_NEXT1", 0x1054, 1, 0x4, 1, 0x4, 0x0, 0x0, 0x8000007f, 0x0, 0x0⟩
  , ⟨"EVC_CFG", 0x1060, 1, 0x4, 1, 0x4, 0x0, 0xf, 0x0, 0x0, 0x0⟩
  , ⟨"EVC_RAISE", 0x1064, 1, 0x4, 1, 0x4, 0x0, 0x0, 0x0, 0x0, 0x7f⟩
  , ⟨"EZ_CFG", 0x2000, 1, 0x4, 1, 0x4, 0x800, 0xff01, 0x0, 0x0, 0x0⟩
  , ⟨"EZ_LFREE", 0x2004, 1, 0x4, 1, 0x4, 0x8010080, 0x0, 0xfffffff, 0x0, 0x0⟩
  , ⟨"EZ_STORE", 0x2008, 1, 0x4, 1, 0x4, 0x0, 0x7ff0000, 0x7ff, 0x0, 0x0⟩
  , ⟨"EZ_STHWM", 0x200c, 1, 0x4, 1, 0x4, 0x300, 0x7ff, 0x0, 0x0, 0x0⟩
  , ⟨"EZ_CNT0", 0x2010, 1, 0x4, 1, 0x4, 0x0, 0xffffffff, 0x0, 0x0, 0x0⟩ ]

/-- Rows of the register map (R646 to R650). -/
def regTable2 : List RegDef :=
  [ ⟨"EZ_CNT1", 0x2014, 1, 0x4, 1, 0x4, 0x0, 0xffffffff, 0x0, 0x0, 0x0⟩
  , ⟨"EZ_CNT2", 0x2018, 1, 0x4, 1, 0x4, 0x0, 0xffffffff, 0x0, 0x0, 0x0⟩
  , ⟨"EZ_DISCWHY", 0x201c, 1, 0x4, 1, 0x4, 0x0, 0x0, 0xffff, 0x0, 0x0⟩
  , ⟨"EZ_CANCELLED", 0x2020, 1, 0x4, 1, 0x4, 0x0, 0xffffffff, 0x0, 0x0, 0x0⟩
  , ⟨"EZ_MIDICFG", 0x2040, 4, 0x4, 1, 0x4, 0x5, 0x1f, 0x0, 0x0, 0x0⟩
  , ⟨"EZ_MIDIERR", 0x2050, 4, 0x4, 1, 0x4, 0x0, 0xffffffff, 0x0, 0x0, 0x0⟩
  , ⟨"EZ_MIDIDROP", 0x2060, 1, 0x4, 1, 0x4, 0x0, 0xffffffff, 0x0, 0x0, 0x0⟩
  , ⟨"EZ_MPE", 0x2080, 20, 0x4, 1, 0x4, 0x100, 0x1ff, 0x0, 0x0, 0x0⟩
  , ⟨"EZ_DET", 0x2100, 16, 0x4, 1, 0x4, 0x20000000, 0xffffff7f, 0x0, 0x0, 0x0⟩
  , ⟨"EZ_MO", 0x2140, 2, 0x4, 1, 0x4, 0x0, 0x7f, 0x0, 0x0, 0x0⟩
  , ⟨"EZ_MOTX", 0x2148, 2, 0x4, 1, 0x4, 0x0, 0x0, 0x0, 0x0, 0xff⟩
  , ⟨"EZ_MOSTAT", 0x2150, 1, 0x4, 1, 0x4, 0x400040, 0x0, 0x7f007f, 0x800080, 0x0⟩
  , ⟨"PAL_CMD", 0x3000, 1, 0x4, 1, 0x4, 0x0, 0x0, 0x0, 0x0, 0x33f⟩
  , ⟨"PAL_STAT", 0x3004, 1, 0x4, 1, 0x4, 0x0, 0x0, 0xe007f, 0x10000, 0x0⟩
  , ⟨"PAL_CNT", 0x3008, 1, 0x4, 1, 0x4, 0x0, 0xffffffff, 0x0, 0x0, 0x0⟩
  , ⟨"PAL_CNT2", 0x300c, 1, 0x4, 1, 0x4, 0x0, 0x3fffff, 0x0, 0x0, 0x0⟩
  , ⟨"VX_LAST", 0x3010, 1, 0x4, 1, 0x4, 0x0, 0x0, 0xfffffff, 0x0, 0x0⟩
  , ⟨"VX_QUERY", 0x3014, 1, 0x4, 1, 0x4, 0x0, 0xffff, 0x0, 0x0, 0x0⟩
  , ⟨"VX_QINFO", 0x3018, 1, 0x4, 1, 0x4, 0x0, 0x0, 0xfffffc00, 0x0, 0x0⟩
  , ⟨"PAL_PCFG", 0x3110, 63, 0x10, 1, 0x4, 0x1410, 0x7ffff3f, 0x0, 0x0, 0x0⟩
  , ⟨"PAL_POL", 0x3114, 63, 0x10, 1, 0x4, 0xf000412, 0xf3f1f13, 0x0, 0x0, 0x0⟩
  , ⟨"PAL_PSTAT", 0x3118, 63, 0x10, 1, 0x4, 0x0, 0x0, 0x87ff000f, 0x0, 0x0⟩
  , ⟨"PAL_PCNT", 0x311c, 63, 0x10, 1, 0x4, 0x0, 0xffffffff, 0x0, 0x0, 0x0⟩
  , ⟨"CNV_ROVF", 0x4010, 4, 0x4, 1, 0x4, 0x0, 0x0, 0x0, 0xffff, 0x0⟩ ]

/-- Rows of the register map (R646 to R650). -/
def regTable3 : List RegDef :=
  [ ⟨"CNV_COVF", 0x4020, 1, 0x4, 1, 0x4, 0x0, 0x0, 0x0, 0xffffffff, 0x0⟩
  , ⟨"CNV_BFADE", 0x4030, 4, 0x4, 1, 0x4, 0x0, 0x0, 0xffffff, 0x0, 0x0⟩
  , ⟨"CNV_RBG", 0x4100, 64, 0x4, 1, 0x4, 0x67fffff, 0xfffffff, 0x0, 0x0, 0x0⟩
  , ⟨"CNV_RBD", 0x4200, 64, 0x4, 1, 0x4, 0x10, 0x1f, 0x0, 0x0, 0x0⟩
  , ⟨"CNV_CBG", 0x4300, 32, 0x4, 1, 0x4, 0x67fffff, 0xfffffff, 0x0, 0x0, 0x0⟩
  , ⟨"CNV_AOMAP", 0x4380, 4, 0x4, 1, 0x4, 0x0, 0x9f9f9f9f, 0x0, 0x0, 0x0⟩
  , ⟨"CNV_CVMAP", 0x4390, 8, 0x4, 1, 0x4, 0x0, 0x9f9f9f9f, 0x0, 0x0, 0x0⟩
  , ⟨"CNV_SAMAP", 0x43b0, 8, 0x4, 1, 0x4, 0x0, 0x9f9f9f9f, 0x0, 0x0, 0x0⟩
  , ⟨"AO_CTL", 0x5000, 16, 0x4, 1, 0x4, 0x100, 0x3ff, 0x0, 0x0, 0x0⟩
  , ⟨"AO_STAT", 0x5040, 1, 0x4, 1, 0x4, 0x0, 0x0, 0xffff, 0xffff0000, 0x0⟩
  , ⟨"CV_CFG", 0x5100, 32, 0x4, 1, 0x4, 0x0, 0x71f, 0x0, 0x0, 0x0⟩
  , ⟨"CV_CODE", 0x5180, 32, 0x4, 1, 0x4, 0x0, 0xffff, 0x0, 0x0, 0x0⟩
  , ⟨"CV_OUT", 0x5200, 32, 0x4, 1, 0x4, 0x0, 0x0, 0xfffff, 0x0, 0x0⟩
  , ⟨"CV_TRIM", 0x5280, 32, 0x4, 1, 0x4, 0x0, 0xfff00ff, 0x0, 0x0, 0x0⟩
  , ⟨"CV_SINC", 0x5300, 32, 0x4, 1, 0x4, 0x0, 0xffffffff, 0x0, 0x0, 0x0⟩
  , ⟨"CV_GAMP", 0x5380, 32, 0x4, 1, 0x4, 0x7fff, 0xffffffff, 0x0, 0x0, 0x0⟩
  , ⟨"CV_GCTL", 0x5400, 4, 0x10, 1, 0x4, 0x0, 0x10000, 0x107, 0x0, 0x20000⟩
  , ⟨"CV_GTRI", 0x5404, 4, 0x10, 1, 0x4, 0x0, 0xffffffff, 0x0, 0x0, 0x0⟩
  , ⟨"CV_GSAW", 0x5408, 4, 0x10, 1, 0x4, 0x0, 0xffffffff, 0x0, 0x0, 0x0⟩
  , ⟨"CV_GPEP", 0x540c, 4, 0x10, 1, 0x4, 0x0, 0xffffffff, 0x0, 0x0, 0x0⟩
  , ⟨"CV_PHRST", 0x5440, 1, 0x4, 1, 0x4, 0x0, 0x0, 0x0, 0x0, 0xffffffff⟩
  , ⟨"CV_STAT", 0x5444, 1, 0x4, 1, 0x4, 0x0, 0x20, 0xcc, 0x10, 0x0⟩
  , ⟨"CV_CNT", 0x5448, 1, 0x4, 1, 0x4, 0x0, 0xffffffff, 0x0, 0x0, 0x0⟩
  , ⟨"CV_ILIM", 0x544c, 1, 0x4, 1, 0x4, 0x0, 0x0, 0x0, 0xffffffff, 0x0⟩ ]

/-- Rows of the register map (R646 to R650). -/
def regTable4 : List RegDef :=
  [ ⟨"AI_CFG", 0x6000, 16, 0x4, 1, 0x4, 0x10b0, 0xf3ff3, 0x0, 0x0, 0x0⟩
  , ⟨"AI_RESP", 0x6040, 16, 0x4, 1, 0x4, 0x0, 0x7, 0x1f70, 0x0, 0x0⟩
  , ⟨"AI_STAT", 0x6080, 16, 0x4, 1, 0x4, 0x0, 0xffff0000, 0x7f43, 0x3c, 0x0⟩
  , ⟨"AI_DLY", 0x60c0, 16, 0x4, 1, 0x4, 0x0, 0x0, 0xfffff, 0x0, 0x0⟩
  , ⟨"AI_DATA", 0x6100, 16, 0x4, 1, 0x4, 0x80000000, 0x0, 0xffffffff, 0x0, 0x0⟩
  , ⟨"AI_DETCFG", 0x6140, 16, 0x4, 1, 0x4, 0x8808, 0xffffffff, 0x0, 0x0, 0x0⟩
  , ⟨"AI_DETTHR", 0x6180, 16, 0x4, 1, 0x4, 0x8000200, 0xffffffff, 0x0, 0x0, 0x0⟩
  , ⟨"AI_PEAK", 0x6200, 16, 0x4, 1, 0x4, 0x0, 0x0, 0xffffff, 0x0, 0x0⟩
  , ⟨"AI_RMS", 0x6240, 16, 0x4, 1, 0x4, 0x0, 0x0, 0xffffff, 0x0, 0x0⟩
  , ⟨"AI_ENV", 0x6280, 16, 0x4, 1, 0x4, 0x0, 0x0, 0xffffff, 0x0, 0x0⟩
  , ⟨"AI_DETHOLD", 0x62c0, 16, 0x4, 1, 0x4, 0x0, 0xffff, 0x0, 0x0, 0x0⟩
  , ⟨"AI_SYNC", 0x6300, 1, 0x4, 1, 0x4, 0x0, 0x0, 0x0, 0x0, 0xffff⟩
  , ⟨"SA_CFG", 0x7000, 4, 0x4, 1, 0x4, 0x4a300, 0xffff3, 0x0, 0x0, 0x0⟩
  , ⟨"SA_STAT", 0x7020, 4, 0x4, 1, 0x4, 0x0, 0x0, 0x3f01, 0x3c, 0x0⟩
  , ⟨"SA_RATIO", 0x7040, 4, 0x4, 1, 0x4, 0x0, 0x0, 0xffffffff, 0x0, 0x0⟩
  , ⟨"SA_PHERR", 0x7060, 4, 0x4, 1, 0x4, 0x0, 0x0, 0xffff, 0x0, 0x0⟩
  , ⟨"SA_HCFG", 0x7080, 2, 0x4, 1, 0x4, 0x100000, 0x3fffff, 0x0, 0x0, 0x0⟩
  , ⟨"SA_DATA", 0x7090, 2, 0x4, 1, 0x4, 0x80000000, 0x0, 0xffffffff, 0x0, 0x0⟩
  , ⟨"DMAn_SRC", 0x8000, 16, 0x20, 1, 0x4, 0x0, 0xffffffff, 0x0, 0x0, 0x0⟩
  , ⟨"DMAn_DST", 0x8004, 16, 0x20, 1, 0x4, 0x0, 0xffffffff, 0x0, 0x0, 0x0⟩
  , ⟨"DMAn_CNT", 0x8008, 16, 0x20, 1, 0x4, 0x0, 0xffffff, 0x0, 0x0, 0x0⟩
  , ⟨"DMAn_CFG", 0x800c, 16, 0x20, 1, 0x4, 0x4300, 0xff3f733f, 0x0, 0x0, 0x0⟩
  , ⟨"DMAn_CTL", 0x8010, 16, 0x20, 1, 0x4, 0x0, 0x0, 0x0, 0x0, 0x3⟩
  , ⟨"DMAn_STAT", 0x8014, 16, 0x20, 1, 0x4, 0x0, 0x0, 0xe3, 0x18, 0x0⟩ ]

/-- Rows of the register map (R646 to R650). -/
def regTable5 : List RegDef :=
  [ ⟨"DMA_ERR", 0x8400, 1, 0x4, 1, 0x4, 0x0, 0x0, 0x0, 0xffff, 0x0⟩
  , ⟨"TMRn_CFG", 0x9000, 16, 0x40, 1, 0x4, 0x0, 0x3fffffe0, 0x0, 0x0, 0x0⟩
  , ⟨"TMRn_IO", 0x9004, 16, 0x40, 1, 0x4, 0x0, 0xffffff00, 0x0, 0x0, 0x0⟩
  , ⟨"TMRn_CTL", 0x9008, 16, 0x40, 1, 0x4, 0x0, 0x3f01, 0x0, 0x0, 0x2⟩
  , ⟨"TMRn_CNT", 0x900c, 16, 0x40, 1, 0x4, 0x0, 0xffffffff, 0x0, 0x0, 0x0⟩
  , ⟨"TMRn_CMP0", 0x9010, 16, 0x40, 1, 0x4, 0x0, 0xffffffff, 0x0, 0x0, 0x0⟩
  , ⟨"TMRn_CMP1", 0x9014, 16, 0x40, 1, 0x4, 0x0, 0xffffffff, 0x0, 0x0, 0x0⟩
  , ⟨"TMRn_PER", 0x9018, 16, 0x40, 1, 0x4, 0x0, 0xffffffff, 0x0, 0x0, 0x0⟩
  , ⟨"TMRn_CAP", 0x901c, 16, 0x40, 1, 0x4, 0x0, 0x0, 0xffffffff, 0x0, 0x0⟩
  , ⟨"TMRn_STAT", 0x9020, 16, 0x40, 1, 0x4, 0x0, 0x0, 0x8, 0x37, 0x0⟩
  , ⟨"TMRn_HI", 0x9024, 16, 0x40, 1, 0x4, 0x0, 0x0, 0xffffffff, 0x0, 0x0⟩
  , ⟨"TMR_TRGSW", 0x9400, 1, 0x4, 1, 0x4, 0x0, 0x0, 0x0, 0x0, 0xffffffff⟩
  , ⟨"TMR_TRGSEEN", 0x9404, 1, 0x4, 1, 0x4, 0x0, 0x0, 0x0, 0xffffffff, 0x0⟩
  , ⟨"TMR_TCFG", 0x9410, 1, 0x4, 1, 0x4, 0x0, 0xfff07, 0x0, 0x0, 0x0⟩
  , ⟨"TMR_TCTL", 0x9414, 1, 0x4, 1, 0x4, 0x0, 0x0, 0x0, 0x0, 0x7⟩
  , ⟨"TMR_TBEAT", 0x9418, 1, 0x4, 1, 0x4, 0x5dc0, 0xffffff, 0x80000000, 0x0, 0x0⟩
  , ⟨"TMR_TPOS", 0x941c, 1, 0x4, 1, 0x4, 0x0, 0xffffffff, 0x0, 0x0, 0x0⟩
  , ⟨"MEM_ECC", 0xa000, 1, 0x4, 1, 0x4, 0x0, 0xffffffff, 0x0, 0x0, 0x0⟩
  , ⟨"MEM_EADDR", 0xa004, 1, 0x4, 1, 0x4, 0x0, 0x0, 0x8077ffff, 0x0, 0x0⟩
  , ⟨"MEM_SPARE", 0xa010, 8, 0x4, 1, 0x4, 0x0, 0x0, 0x3f, 0x0, 0x0⟩
  , ⟨"RST_CFG", 0xa100, 1, 0x4, 1, 0x4, 0x101, 0xff01, 0x0, 0x0, 0x0⟩
  , ⟨"RST_STAT", 0xa104, 1, 0x4, 1, 0x4, 0x0, 0x0, 0x3, 0x1c, 0x0⟩
  , ⟨"RST_POS", 0xa108, 1, 0x4, 1, 0x4, 0x0, 0x0, 0x3fff, 0x0, 0x0⟩
  , ⟨"RST_CCFG", 0xa110, 1, 0x4, 1, 0x4, 0xa000a03, 0xff00ff03, 0x0, 0x0, 0x0⟩ ]

/-- Rows of the register map (R646 to R650). -/
def regTable6 : List RegDef :=
  [ ⟨"RST_CPOS", 0xa114, 1, 0x4, 1, 0x4, 0x0, 0x0, 0x1fff, 0x0, 0x0⟩
  , ⟨"RST_CCNT", 0xa118, 1, 0x4, 1, 0x4, 0x0, 0xffffffff, 0x0, 0x0, 0x0⟩
  , ⟨"RST_JSTAT", 0xa11c, 1, 0x4, 1, 0x4, 0x0, 0x0, 0x1fffff01, 0x2, 0x0⟩
  , ⟨"RST_JCTL", 0xa120, 1, 0x4, 1, 0x4, 0x0, 0x2, 0x0, 0x0, 0x1⟩
  , ⟨"XS_CFG", 0xa200, 2, 0x40, 1, 0x4, 0x15070, 0x1fcf1, 0x0, 0x0, 0x0⟩
  , ⟨"XS_STAT", 0xa204, 2, 0x40, 1, 0x4, 0x0, 0xffff0000, 0xf, 0x10, 0x0⟩
  , ⟨"XS_CMD", 0xa208, 2, 0x40, 1, 0x4, 0x0, 0x0, 0x0, 0x0, 0xff07⟩
  , ⟨"XS_ADDR", 0xa20c, 2, 0x40, 1, 0x4, 0x0, 0x3ffffff, 0x0, 0x0, 0x0⟩
  , ⟨"XS_DATA", 0xa210, 2, 0x40, 1, 0x4, 0x0, 0xffffffff, 0x0, 0x0, 0x0⟩
  , ⟨"SAF_STAT", 0xb000, 1, 0x4, 1, 0x4, 0xf00, 0x0, 0xffa, 0x4, 0x0⟩
  , ⟨"SAF_UID", 0xb004, 2, 0x4, 1, 0x4, 0x0, 0x0, 0xffffffff, 0x0, 0x0⟩
  , ⟨"SAF_SLOT", 0xb010, 4, 0x4, 1, 0x4, 0x0, 0x0, 0xffff0003, 0x0, 0x0⟩
  , ⟨"SAF_STAGE", 0xb040, 16, 0x4, 1, 0x4, 0x0, 0x0, 0x0, 0x0, 0xffffffff⟩
  , ⟨"SAF_CMD", 0xb080, 1, 0x4, 1, 0x4, 0x0, 0x0, 0x0, 0x0, 0xffff0037⟩
  , ⟨"DBG_CTL", 0xb100, 1, 0x4, 1, 0x4, 0x0, 0x0, 0x0, 0x0, 0x7⟩
  , ⟨"DBG_STAT", 0xb104, 1, 0x4, 1, 0x4, 0x0, 0x0, 0xf0f, 0x0, 0x0⟩
  , ⟨"DBG_CHAL", 0xb120, 8, 0x4, 1, 0x4, 0x0, 0x0, 0xffffffff, 0x0, 0x0⟩
  , ⟨"DBG_RESP", 0xb140, 32, 0x4, 1, 0x4, 0x0, 0x0, 0x0, 0x0, 0xffffffff⟩
  , ⟨"DBG_HALT", 0xb1c0, 1, 0x4, 1, 0x4, 0x0, 0x1807f, 0x0, 0x0, 0x0⟩
  , ⟨"RGNn_RDY", 0x10020, 4, 0x4000, 1, 0x4, 0x0, 0xff00, 0x7f, 0x10000, 0x0⟩
  , ⟨"RGNn_PGDLY", 0x10024, 4, 0x4000, 1, 0x4, 0x32, 0xff, 0x0, 0x0, 0x0⟩
  , ⟨"RGNn_FENCE", 0x10030, 4, 0x4000, 1, 0x4, 0x0, 0x0, 0x3f, 0x0, 0x0⟩
  , ⟨"RGNn_MSTAT", 0x10034, 4, 0x4000, 1, 0x4, 0x0, 0xffff0000, 0x3f, 0x0, 0x0⟩
  , ⟨"RGNn_STRSTAT", 0x10038, 4, 0x4000, 1, 0x4, 0x0, 0xffff, 0x1ff0000, 0x0, 0x0⟩ ]

/-- Rows of the register map (R646 to R650). -/
def regTable7 : List RegDef :=
  [ ⟨"RGNn_STRCNT", 0x1003c, 4, 0x4000, 1, 0x4, 0x0, 0xffff0000, 0x0, 0x0, 0x0⟩
  , ⟨"RGNn_FAULT", 0x10040, 4, 0x4000, 1, 0x4, 0x0, 0x0, 0xffff0300, 0x7, 0x0⟩
  , ⟨"RGNn_SPARE", 0x10044, 4, 0x4000, 1, 0x4, 0x23ff, 0x0, 0xfffe33ff, 0x0, 0x0⟩
  , ⟨"BLK_CTL", 0x11000, 4, 0x4000, 24, 0x80, 0x1, 0x1f0d, 0x0, 0x0, 0x10⟩
  , ⟨"BLK_STAT", 0x11004, 4, 0x4000, 24, 0x80, 0x1f001, 0x0, 0xfff87, 0x100000, 0x0⟩
  , ⟨"BLK_FAULT", 0x11008, 4, 0x4000, 24, 0x80, 0x0, 0x0, 0xffff00, 0x3, 0x0⟩
  , ⟨"BLK_PEAK", 0x1100c, 4, 0x4000, 24, 0x80, 0x0, 0xffffffff, 0x0, 0x0, 0x0⟩
  , ⟨"BLK_CNT", 0x11010, 4, 0x4000, 24, 0x80, 0x0, 0xffffffff, 0x0, 0x0, 0x0⟩
  , ⟨"BLK_MACOV", 0x11014, 4, 0x4000, 24, 0x80, 0x0, 0x0, 0x0, 0xffffffff, 0x0⟩
  , ⟨"BLK_MACC", 0x11018, 4, 0x4000, 24, 0x80, 0x0, 0x39003ff, 0x0, 0x20000000, 0x0⟩
  , ⟨"BLK_MDAT", 0x1101c, 4, 0x4000, 24, 0x80, 0x0, 0xffffffff, 0x0, 0x0, 0x0⟩
  , ⟨"BLK_MINFO", 0x11020, 4, 0x4000, 24, 0x80, 0x0, 0x0, 0x7ff07ff, 0x0, 0x0⟩
  , ⟨"BLK_SCST", 0x11024, 4, 0x4000, 24, 0x80, 0xf, 0x0, 0x3f, 0x0, 0x0⟩ ]

/-- The whole register map (R646 to R650). -/
def regTable : List RegDef :=
  regTable0 ++ regTable1 ++ regTable2 ++ regTable3 ++ regTable4 ++ regTable5 ++ regTable6 ++ regTable7

/-- Does the row hold the word-aligned address? (R645) -/
def RegDef.hit (r : RegDef) (a : Nat) : Bool :=
  let o := a - r.base
  let q := o % r.stride1
  decide (r.base ≤ a) &&
    (if r.count2 = 1 then decide (q = 0) && decide (o / r.stride1 < r.count1)
     else decide (o / r.stride1 < r.count1) && decide (q % r.stride2 = 0) && decide (q / r.stride2 < r.count2))

/-- The row of the register map that holds an address; none where it names no register (R642). -/
def findReg (a : Nat) : Option RegDef := regTable.find? fun r => r.hit a

/-- Reset values that differ between the instances of a row: CNV_RBD (R357) and CNV_AOMAP (R358). -/
def resetSpecial (a : Nat) : Nat :=
  if 0x4200 ≤ a ∧ a < 0x4300 then 0x10 + ((a - 0x4200) / 4) % 16
  else if a = 0x4380 then 0x83828180
  else if a = 0x4384 then 0x87868584
  else if a = 0x4388 then 0x8B8A8988
  else if a = 0x438C then 0x8F8E8D8C
  else 0

/-- What a register reads as at reset (R645 to R650); 0 where the address names no register (R642). -/
def regReset (a : Nat) : Word :=
  if 0x4200 ≤ a ∧ a < 0x4300 ∨ 0x4380 ≤ a ∧ a < 0x4390 then BitVec.ofNat 32 (resetSpecial a)
  else match findReg a with
    | some r => BitVec.ofNat 32 r.reset
    | none => 0

end Sys2Proof.Machine
end

