-- ==== Sys2Proof/Machine/StateEasel.lean ====
section
/-! DEFINITION. The state of the easel (chapter "Event ingress and the easel") and of the canvas (chapter "The canvas
mix fabric"). -/

namespace Sys2Proof.Machine

/-- A normalised event (R260 to R265): `op` is coded as R263; `src` as EZ_DISCWHY.SOURCE; `host` true of an event of a host
lane; `vel16` velocity; `pitch` the event pitch of a note-on or NOTE_CTL WORD 0; `word` and `value` page writes. Codes
0x10–0x14 are events that the parsers leave to their service: a controller (R275, KEY its CCMAP code), a per-note bend (R269,
R279), a per-note controller (R275), a detach (R269) and a PNRANGE write (R277). `id` numbers the event once it is allocated;
`follows` marks one that goes with the event before it in the same sample (R279). -/
structure Ev where
  op : Nat
  part : Nat
  key : Nat := 0
  tag : BitVec 12 := 0
  timed : Bool := false
  ts : Word := 0
  vel16 : BitVec 16 := 0
  pitch : Word := 0
  word : Nat := 0
  value : Word := 0
  handle : BitVec 16 := 0
  words : List Word := []
  src : Nat := 0
  host : Bool := false
  stamp : Nat := 0
  tb : Word := 0
  late : Bool := false
  id : Nat := 0
  follows : Bool := false
  deriving DecidableEq, Repr

/-- An entry of a host lane (R259): the words of a frame or UMP packet, its order of arrival and TB[31:0] at its arrival
instant (R13), the posted words that must have landed before it is served (R513), the timestamp of R270, and the events that the
splitter has made of a packet and the service has not taken yet (R261). -/
structure LaneEntry where
  words : List Word
  ump : Bool
  stamp : Nat
  tb : Word
  posted : Nat := 0
  ts : Option Word := none
  split : Bool := false
  evs : List Ev := []
  deriving DecidableEq, Repr

/-- An entry of the detector queue (R259, R286): the events that a pulse or a release of a channel made, with their ingress
class, as EZ_DET stood at that instant. -/
structure DetEv where
  chan : Nat
  cls : Nat
  evs : List Ev
  stamp : Nat
  deriving DecidableEq, Repr

/-- A byte that a MIDI receiver has taken (R13, R271): whether its stop bit was low, and its arrival. -/
structure RxByte where
  byte : Byte
  bad : Bool
  stamp : Nat
  tb : Word
  deriving DecidableEq, Repr

/-- A MIDI receiver's parser and queue (R271 to R273, R285); `none` in the queue marks the point of a first drop. -/
structure MidiIn where
  rx : List (Option RxByte) := []
  running : Nat := 0
  status : Nat := 0
  data : List Nat := []
  sysex : Bool := false
  sense : Bool := false
  dropped : Bool := false
  deriving DecidableEq, Repr

/-- The RPN and bank state of one channel of a source (R274, R277). PRESUMED (assumption 11). -/
structure ChanSt where
  nrpn : Bool := false
  rpn : Nat := 0x3FFF
  dataMsb : Nat := 0
  bank : Nat := 0
  keys : List Nat := []
  bend : Int := 0
  press : Q := 0
  cc74 : Q := 0
  deriving DecidableEq, Repr

/-- A MIDI output (R287, R288): the host queue, thru bytes, the input of the newest of them, clock bytes, and the bytes left of the
message being sent (`cur` 0 none, 1 thru, 2 host), and the byte it sent last. -/
structure MidiOut where
  host : List Byte := []
  thru : List Byte := []
  thruSrc : Nat := 0
  clock : List Byte := []
  cur : Nat := 0
  left : Nat := 0
  running : Nat := 0
  thruRunning : Nat := 0
  sysex : Bool := false
  last : Option Byte := none
  deriving DecidableEq, Repr

/-- A note-on placed in slot 0 of an evicted block, which waits for the block to empty (R316): its entry, which goes to the ready
list with the load, and its pending voice. DEDUCED (assumption 28). -/
structure EvictWait where
  entry : Entry
  voice : Voice
  deriving DecidableEq, Repr

/-- A write that the palette unit makes at the next boundary (R265): the page of parameter memory, the word in it, the value, and the
bits that it sets. -/
structure PalWrite where
  page : Nat
  word : Nat
  value : Word
  mask : Word := 0xFFFFFFFF
  deriving DecidableEq, Repr

/-- The easel (R259 to R288); `chosen` holds part and tag of every tagged entry that a scan has selected
(R325). DEDUCED (assumption 76). -/
structure Easel where
  laneA : List LaneEntry := []
  laneB : List LaneEntry := []
  laneC : List LaneEntry := []
  midi : Tab MidiIn := []
  msgs : List Ev := []
  dets : List DetEv := []
  store : List Ev := []
  stamp : Nat := 0
  chans : Tab ChanSt := []
  anchors : Tab (Option (Nat × Word)) := []
  jr : Tab (Option Nat) := []
  outs : Tab MidiOut := []
  palQ : List PalWrite := []
  evicts : List EvictWait := []
  chosen : List (Nat × BitVec 12) := []
  halted : Bool := false
  deriving DecidableEq, Repr

/-- A gain ramp (R343): the gain it starts from, the target, R, and the closes done; idle when done = R. -/
structure GainRamp where
  g0 : Q := 0x7FFFFF
  gt : Q := 0x7FFFFF
  r : Nat := 1
  j : Nat := 1
  deriving DecidableEq, Repr

/-- A block fade of R350: held or live, the sample with j = 1, whether the live one is R120's, and, for a held fade that
starts during a live one, the sample with j = 1 of the live one (R351). -/
structure BlockFade where
  heldKind : Bool
  start : Nat
  disable : Bool := false
  was : Option Nat := none
  deriving DecidableEq, Repr

/-- The canvas (R337 to R352): ramps by gain register index (region buses 0–63, chip buses 64–95), gain writes pending for
the next boundary, the CNV registers in force and the W1C bits that writes will clear at the next boundary (R349), the bus
values last closed, the chip buses, block fades by block, and what each block contributed at the last close, (bus·2 + side,
Q9.23 value) in order. DESIGN CHOICE (assumption 4). -/
structure Canvas where
  ramps : Tab GainRamp := []
  gainPend : List Nat := []
  shadow : Tab Word := []
  w1c : Tab Word := []
  busVal : Tab Int := []
  chip : Tab Q := []
  fades : Tab (Option BlockFade) := []
  lastContrib : Tab (List (Nat × Int)) := []
  deriving DecidableEq, Repr

end Sys2Proof.Machine
end

