-- ==== Sys2Proof/Machine/StateIo.lean ====
section
/-! DEFINITION. The state of the output converters (chapter "Audio and CV outputs") and of the input chain (chapter
"Inputs, decimation and resampling") beyond their registers. -/

namespace Sys2Proof.Machine

/-- The states of an audio channel (R361). -/
inductive AoSt where
  | clamped | rising | fadeIn | live | fadeOut | muted | falling
  deriving DecidableEq, Repr

/-- An audio channel (R359 to R362): its state, the level its legs have reached (0 to 80 × Fs_base ÷ 1,000, in units of a
quarter of a base sample), the mute gain its fade started from (in 2⁻²³), the fade sample j, the attenuation step in
force and the value last driven. -/
structure AoChan where
  st : AoSt := .clamped
  legs : Nat := 0
  mg0 : Nat := 0
  j : Nat := 0
  att : Nat := 0
  out : Q := 0
  line : List Q := []
  deriving DecidableEq, Repr

/-- The states of a CV channel, in the coding of CV_OUT.STATE (R385). -/
inductive CvSt where
  | clamped | spanClamp | driving | ramp | bandClamp
  deriving DecidableEq, Repr

/-- A CV channel (R364 to R379): its state, sine phase, the code D its source gave last, the applied code D′, the sample
in which a host write became pending and the host code before it, WRITTEN, the disable ramp's start and sample j, a clamp
due at the next update, a timed clamp running, the code the pin drives (none: 0 V through the rest clamp), a deglitcher
hold, a phase reset pending, a core lost for good, and a fall of VINBAND or VNEG_OK since the last update that clamps it (R376).
DESIGN CHOICE (assumption 4). -/
structure CvChan where
  st : CvSt := .clamped
  phi : Word := 0
  d : Nat := 0
  code : Nat := 0
  hostPend : Option Nat := none
  hostOld : Nat := 0
  written : Bool := false
  rampD0 : Nat := 0
  rampJ : Nat := 0
  clampReq : Bool := false
  timed : Bool := false
  drive : Option Nat := none
  hold : Bool := false
  phrst : Bool := false
  lost : Bool := false
  bandReq : Bool := false
  deriving DecidableEq, Repr

/-- A CV group's generators (R380) and its spare core (R382, R564): the accumulators, the Pepper register with its values
a and b, a reset pending, the sample of the last update and the outputs it gave, the channel checked next, whether the
spare has failed, and consecutive differences by channel. -/
structure CvGroup where
  tri : Word := 0
  saw : Word := 0
  pep : Word := 0
  lfsr : Word := 0
  a : Q := 0
  b : Q := 0
  prst : Bool := false
  at_ : Option Nat := none
  wTri : Q := 0
  wSaw : Q := 0
  wPep : Q := 0
  next : Nat := 0
  spareBad : Bool := false
  fails : Tab Nat := []
  deriving DecidableEq, Repr

/-- A matrix export on its way to a CV channel (R369): channel, handle bits [10:0] and value. -/
structure CvExport where
  chan : Nat
  low : Nat
  port : Nat
  value : Q
  deriving DecidableEq, Repr

/-- The trigger of a detector (R405): off, a window with the outputs left and the largest a, or on. -/
inductive TrigSt where
  | off
  | window (left : Nat) (best : Nat)
  | on
  deriving DecidableEq, Repr

/-- An input channel (R387 to R408): running, a stop due at the next output, MODE and DEC in force, the active and standby
responses, a cross-fade requested and its output j, the latched request, UNSETTLED outputs left and the resampler's
32 after them, outputs of a decimator recovery left, the detectors p, m, r and e, the trigger, outputs since the last
pulse, the host queue and how many of its words carry LASTQ, theta of the last reset, the last decimator output and its flag bits
[31:24], the engine's value and the two values in the crossing queue, the sums of the modulator outputs of the newest Fd samples
since the reset, newest first (R395), and the level that the high-pass of audio mode takes out, in units of 2⁻¹⁶ LSB (R387).
DESIGN CHOICE (assumption 4). -/
structure AiChan where
  running : Bool := false
  stopPend : Bool := false
  mode : Nat := 0
  dec : Nat := 3
  active : Nat := 0
  standby : Nat := 0
  fading : Bool := false
  fadeJ : Nat := 0
  latched : Option Nat := none
  settle : Nat := 0
  resLeft : Nat := 0
  recover : Nat := 0
  p : Nat := 0
  m : Nat := 0
  r : Nat := 0
  e : Nat := 0
  trig : TrigSt := .off
  since : Nat := 0xFFFF
  queue : List Word := []
  drain : Nat := 0
  theta : Nat := 0
  lastOut : Q := 0
  flags : BitVec 8 := 0
  engine : Q := 0
  crossing : List Q := []
  mods : List Int := []
  dc : Int := 0
  deriving DecidableEq, Repr

/-- A serial audio port (R416 to R431): running (from an accepted enable until its pins are released), the disable fade's j
and the zero frames left, frames in the dual-clock queue, consecutive frames within 8 cycles, loss of lock by timeout,
whether the last sample was delivered as 0 for want of a frame, an input queue refilling, the resume gain (64 full), the
resampler's frames due (Q28), master input frames by the sample that receives them, the values delivered or sent last and
those that an output sends from the next boundary (R20), whether a frame has come since the enable, the slots of the last
frame sent and of the one before as W-bit words, the resampler's source values, newest first, the tracking loop's integrator,
a ratio held since a timeout (R429), the master's rate ÷ Fs in Q4.28 and the consecutive frames at it while locked (R403),
and the host queue and how many of its words carry LASTQ. -/
structure SaPort where
  running : Bool := false
  fade : Option Nat := none
  zeros : Nat := 0
  queue : List (List Q) := []
  good : Nat := 0
  lost : Bool := false
  under : Bool := false
  refill : Bool := false
  rise : Nat := 64
  acc : Nat := 0
  due : List (Nat × List Q) := []
  vals : List Q := []
  next : List Q := []
  framed : Bool := false
  sent : List Word := []
  before : List Word := []
  taps : List (List Q) := []
  integ : Int := 0
  hold : Bool := false
  master : Word := 0
  steady : Nat := 0
  host : List Word := []
  drain : Nat := 0
  deriving DecidableEq, Repr

/-- A timer (R486 to R495): repeating base, level of its GP output, and the TMRn_HI shadows of the host
and of the DMA engine. -/
structure TimerSt where
  base : Word := 0
  gp : Bool := false
  hiHost : Word := 0
  hiDma : Word := 0
  deriving DecidableEq, Repr

/-- The tempo clock (R496 to R498) beyond its registers: the sample in which its beat started, the beat length in force,
and the sample of the last external beat. -/
structure Tempo where
  beatAt : Int := 0
  len : Nat := 24000
  lastBeat : Option Nat := none
  deriving DecidableEq, Repr

/-- A DMA channel (R467 to R479): the pending trigger pulse and the count its transfer started with. -/
structure DmaChan where
  pulse : Bool := false
  full : Nat := 0
  deriving DecidableEq, Repr

/-- A word of the posted-write queue (R657): its transaction, its address and value, and whether its transaction is already
counted in HST_CNT (R524). -/
structure Posted where
  txn : Nat
  addr : Word
  value : Word
  counted : Bool
  deriving DecidableEq, Repr

/-- The host port (R503 to R517, R657): the posted-write queue, transactions, words posted and words landed since reset, the
ERR and REJ flags of the status byte, and the status byte and words that the port returned last. DEDUCED (assumption 17). -/
structure HostPort where
  queue : List Posted := []
  txn : Nat := 0
  posted : Nat := 0
  landed : Nat := 0
  err : Bool := false
  rej : Bool := false
  rejecting : Bool := false
  status : Byte := 0
  words : List Word := []
  deriving DecidableEq, Repr

/-- A fence read that waits (R444): by the DMA engine or the host, the writes left before it and the count it reports. -/
structure FenceWait where
  dma : Bool
  left : Nat
  count : Nat
  deriving DecidableEq, Repr

/-- A region's memory side (R443 to R445, R459 to R461): its write buffer (byte address and word), fence reads, rings by
number, retention, a wake in progress, and a port-B access held for it. -/
structure RegionMem where
  wbuf : List (Nat × Word) := []
  fences : List FenceWait := []
  rings : Tab (Option Ring) := []
  heads : List (Nat × Nat) := []
  retained : Bool := false
  waking : Bool := false
  held : Bool := false
  deriving DecidableEq, Repr

end Sys2Proof.Machine
end

