-- ==== Sys2Proof/Machine/StateSys.lean ====
section
/-! DEFINITION. The state of memory and flash (chapter "Bank memory, xSPI and sample streaming"), of the boot sequencer
("Boot, reset and restart"), of the Restorer and the repair map ("Faults, spares and service life"), of Saffron, debug
and the TAP ("Security and debug access") and of the power manager ("Power supply and power states"), beyond their
registers. -/

namespace Sys2Proof.Machine

/-- A repair record (R566). -/
structure Repair where
  kind : Nat
  unit : Nat
  loc : Nat
  spare : Nat
  code : Nat
  boots : Nat
  deriving DecidableEq, Repr

/-- A command the xSPI command interface runs (R458): operation, address and bytes. -/
structure XsOp where
  op : Nat
  addr : Nat
  data : List Byte
  deriving DecidableEq, Repr

/-- An xSPI port (R454 to R458): its program buffer, last status byte, consecutive failed reads, whether the failed read that made it
fall back is being retried (R455), and command. -/
structure XsPort where
  buf : List Byte := []
  status : Byte := 0
  fails : Nat := 0
  retry : Bool := false
  op : Option XsOp := none
  deriving DecidableEq, Repr

/-- The Restorer's bank step (R449 to R452): running or idle, its bank and group, and its save buffer. -/
structure BankStep where
  on : Bool := false
  bank : Nat := 0
  group : Nat := 0
  save : List Word := []
  deriving DecidableEq, Repr

/-- The phases of a cell step as the commands mark them (R553). -/
inductive CellPhase where
  | idle | hold | shadow | test | shadowBack
  deriving DecidableEq, Repr

/-- The Restorer's cell step (R552 to R557): its phase, region, block and cell, cells to visit ahead of the walk (region,
block, cell), and, after a mismatch, the follow-up under way (R557): 0 none, 1 the standby cell's test, 2 the full step. -/
structure CellWalk where
  phase : CellPhase := .idle
  region : Fin 4 := 0
  block : Fin 24 := 0
  cell : Nat := 0
  ahead : List (Fin 4 × Fin 24 × Nat) := []
  follow : Nat := 0
  resumeAt : Option (Fin 4 × Fin 24 × Nat) := none
  deriving DecidableEq, Repr

/-- The banks (R436, R446, R447): their bytes by host address, and the words in error by bank index × 2¹⁹ + word
(1 corrected at each read, 2 uncorrectable). -/
structure MemState where
  banks : Tab Byte := []
  ecc : Tab Nat := []
  deriving DecidableEq, Repr

/-- Flash commands, the Restorer and the repair map (R449 to R458, R552 to R557, R566 to R568): the ports, the bank step,
the cell walk, the map in force, the records pending, a journal write under way (its body and how many pending
records it takes), and the sequence number and copy in force. DESIGN CHOICE (assumption 7). -/
structure RepairSt where
  xs0 : XsPort := {}
  xs1 : XsPort := {}
  step : BankStep := {}
  walk : CellWalk := {}
  map : List Repair := []
  pend : List Repair := []
  jwrite : Option (List Repair × Nat) := none
  jseq : Word := 0
  jcopy : Nat := 1
  deriving DecidableEq, Repr

/-- A slot mark of the boot record (R534). -/
structure SlotMark where
  marked : Bool := false
  hcrc : Nat := 0
  reason : Nat := 0
  deriving DecidableEq, Repr

/-- A maker key slot (R576): state (0 empty, 1 provisioned, 2 revoked, 3 erased), public-key hash and wrapping key. -/
structure KeySlot where
  st : Nat := 0
  hash : List Byte := []
  wrap : List Byte := []
  deriving DecidableEq, Repr

/-- What a load reads of the Saffron store (R578): its key slots, whether it is locked, and SIGNREQ. -/
structure StoreKeys where
  slots : Tab KeySlot := []
  locked : Bool := false
  signreq : Bool := false
  deriving DecidableEq, Repr

/-- The boot record of the keep-alive domain (R537): whether it survived (KAVALID), the step, the levels of the steps, the
slot marks, ATTEMPTS, CLEAN and BOOTS, the last failure's step, reason and loader section, the cause, the straps, BOOT_TIME,
and the chip code of a fault reset (R563). Beside it stand the sequencer's own variables: whether the boot log is in use, its
next sequence number and entry (R538, R539), failures of the attempt that it does not yet hold (step, reason, DATA), slots
still to try in step 0x0C (R535), a load whose end is awaited (slot, HEADER_CRC[15:0]), the store as such a load has read it
(R578), regions whose buck failed (R529 step 0x05, R561), and BKC out of regulation (R597). DESIGN CHOICE (assumption 7).
PRESUMED (assumption 88). DESIGN CHOICE (assumption 89). -/
structure BootRec where
  valid : Bool := false
  step : Nat := 6
  levels : Tab Nat := []
  marks : Tab SlotMark := []
  attempts : Nat := 1
  clean : Nat := 0
  boots : Nat := 1
  fstep : Nat := 0
  reason : Nat := 0
  section_ : Nat := 0x1FF
  cause : Nat := 0
  straps : Nat := 0
  time : Nat := 0
  chip : Nat := 0
  logOn : Bool := false
  logSeq : Word := 0
  logPos : Nat := 0
  unlogged : List (Nat × Nat × Word) := []
  tries : List Nat := []
  loading : Option (Nat × Nat) := none
  keys : Option StoreKeys := none
  badBucks : List Nat := []
  buckOff : Bool := false
  deriving DecidableEq, Repr

/-- What outlasts every reset (R527, R576, R566): the flash bytes of XA and XB by flash address, the Saffron store's one-time
content (maker key slots, debug key hash, SIGNREQ, DBGDIS, tamper fuses left, ERASED), and the eFuse repair baseline.
DESIGN CHOICE (assumption 3). -/
structure NonVol where
  xa : Tab Byte := []
  xb : Tab Byte := []
  slots : Tab KeySlot := []
  dbgHash : Option (List Byte) := none
  signreq : Bool := false
  dbgdis : Bool := false
  tleft : Nat := 15
  erased : Bool := false
  fuses : List Repair := []
  deriving DecidableEq, Repr

/-- Saffron and debug unlock beyond the one-time content (R577 to R588): the tamper state and failed unlocks the keep-alive
domain holds, the store locked at boot, the words of SAF_STAGE and DBG_RESP, a command under way (operation, slot, staged
words), PROT of the content in memory, whether the challenge is valid, an unlock that erases, and UNLOCKED. -/
structure Saffron where
  tamper : Bool := false
  fails : Nat := 0
  storeLocked : Bool := false
  stage : Tab Word := []
  resp : Tab Word := []
  cmd : Option (Nat × Nat × List Word) := none
  prot : Bool := false
  chalOk : Bool := false
  unlocking : Bool := false
  unlocked : Bool := false
  deriving DecidableEq, Repr

/-- The JTAG TAP (R581, R582, R622): the instruction in its register, the boundary-scan register, the pins it sampled last, the
bypass bit, and the DBGACC register as it was last shifted in, with DATA and DONE as its last access left them.
PRESUMED (assumption 8). -/
structure Tap where
  ir : Nat := 2
  bsr : BitVec 171 := 0
  sampled : BitVec 57 := 0
  byp : Bool := false
  wr : Bool := false
  addr : Word := 0
  data : Word := 0
  done : Bool := false
  deriving DecidableEq, Repr

/-- Power (R592 to R609): VIN at 2.5 V or above, a reset held (R526, R597), VIO still below 1.5 V as the device is held (R593), the
rest clamps powered, VIN-band debounce counts
(in measurements of 100 µs), VINLOW armed, bucks regulating, slack floors, the point in force, regions dozing and out of
service, the region on BKC, converters held at their rest clamps (R529 step 0x01, R597), a wake that stops Hold's entry,
outputs that wait for the engine's restart after Hold (R606), and the levels IRQ0 and IRQ1 keep in Hold (R605). -/
structure PowerSt where
  vin : Bool := true
  held : Bool := false
  vioLow : Bool := false
  rest : Bool := true
  bandCnt1 : Nat := 0
  bandCnt2 : Nat := 0
  lowArmed : Bool := true
  slack : Tab Nat := []
  point : Tab Nat := []
  dozing : List Nat := []
  oos : List Nat := []
  standIn : Option Nat := none
  convOff : Bool := false
  wakeHold : Bool := false
  waitStart : Bool := false
  irqHold : Option (Bool × Bool) := none
  deriving DecidableEq, Repr

/-- The clocks (R26 to R38): TB, the model's own count of samples since the last
reset, a TB load pending, the shadows of
TB[63:32], the sample in which the stop fade began, a restart due at the next boundary, whether the engine has run since the
reset (R361), and the frame sync's: consecutive good group edges, whether the EPLL holds its correction, frame edges counted in the
group, a group edge that has come, and the correction in units of 10⁻⁹. DESIGN CHOICE (assumption 4). -/
structure ClockSt where
  tb : BitVec 64 := 0
  smp : Nat := 0
  loadPend : Bool := false
  hostTb : Word := 0
  dmaTb : Word := 0
  stopAt : Option Nat := none
  restart : Bool := false
  started : Bool := false
  good : Nat := 0
  fsHold : Bool := true
  fsFrames : Nat := 0
  fsDue : Bool := false
  fsCorr : Int := 0
  deriving DecidableEq, Repr

end Sys2Proof.Machine
end

