-- ==== Sys2Proof/Machine/State.lean ====
section
/-! DEFINITION. The machine's state and its reset. `Chip` is everything a reset of R526 clears or keeps in the keep-alive
domain; the banks and what outlasts every reset stand beside it, and the queue of waiting commands beside both. -/

namespace Sys2Proof.Machine

/-- A region's supervisor (R99, R110, R284, R321): its ready list, the entries selected, the entries the easel holds for
its full list, and its load path's requests, oldest first. -/
structure RegionSt where
  ready : List Entry := []
  sel : List Entry := []
  held : List Entry := []
  loads : List LoadReq := []
  deriving DecidableEq, Repr

/-- The device but for the banks and what outlasts every reset. The tables are keyed: `regs` by register address (an
unlisted register reads its reset value), `blocks` by 24 × region + block, `slots` by 40 × block key + slot (16 and 17 the
glaze contexts, 18 + slot the occupant that a dispatch has just replaced), `late` from a slot key to the key that holds the
occupant of the sample before, `tails` by slot key, the rest by their index. `trg` holds the trigger lines raised for the next cycle
and `trgNow` those of the cycle whose delivery has begun (R485). -/
structure Chip where
  regs : Tab Word := []
  ctr : Nat := 0
  clk : ClockSt := {}
  pal : Palette := {}
  blocks : Tab Block := []
  slots : Tab SlotSt := []
  late : Tab Nat := []
  tails : Tab (List Tail) := []
  regions : Tab RegionSt := []
  rmem : Tab RegionMem := []
  parts : Tab Part := []
  returned : List Entry := []
  ez : Easel := {}
  cnv : Canvas := {}
  ao : Tab AoChan := []
  cv : Tab CvChan := []
  cvg : Tab CvGroup := []
  cvNew : List CvExport := []
  cvNow : List CvExport := []
  pumpStop : Bool := false
  ai : Tab AiChan := []
  sa : Tab SaPort := []
  dma : Tab DmaChan := []
  dmaLast : Nat := 15
  tmr : Tab TimerSt := []
  tempo : Tempo := {}
  trg : List Nat := []
  trgNow : List Nat := []
  gpIn : BitVec 8 := 0
  host : HostPort := {}
  rep : RepairSt := {}
  boot : BootRec := {}
  saf : Saffron := {}
  tap : Tap := {}
  pwr : PowerSt := {}
  deriving DecidableEq, Repr

/-- The state: the commands waiting, first in first out, and the device. -/
structure State where
  pending : List Instr := []
  chip : Chip := {}
  mem : MemState := {}
  nv : NonVol := {}
  deriving DecidableEq, Repr

/-- Why a step could stop the machine. No meaning raises it. DESIGN CHOICE (assumption 90). -/
inductive Fault where
  /-- TEST is high: the factory test mode the manual does not cover (R621). No command drives TEST, so no step raises it
  (safe). -/
  | factoryTest
  deriving DecidableEq, Repr

/-- Why a step could be refused. -/
inductive Refusal where
  /-- A command with no meaning yet, by its mnemonic; raised by the arms of Dispatch alone (safe). -/
  | notModelled (mnemonic : String)
  deriving DecidableEq, Repr

/-- A CV group at reset: its Pepper register seeded with 0x8000_0001 XOR g, from which a and then b are drawn (R243, R380;
assumption 12). -/
def cvGroupReset (g : Nat) : CvGroup :=
  let l1 := pepper32 (0x80000001 ^^^ BitVec.ofNat 32 g)
  let l2 := pepper32 l1
  { lfsr := l2, a := (l1 >>> 8).setWidth 24, b := (l2 >>> 8).setWidth 24 }

/-- The CV groups at reset. -/
def cvGroupsReset : Tab CvGroup := (List.range 4).map fun g => (g, cvGroupReset g)

/-- The state after reset: every register at its reset value, which the spec gives as the state that a first boot with an
empty record presents when the host port opens (R546, R645): the engine stopped, no primer, no part, no voice, every queue
and memory empty (R527), the regions at the point that their blocks ask for (R598), and flash erased (assumption 3). DESIGN
CHOICE (assumption 4). DEDUCED (assumption 9). DEDUCED (assumption 46). -/
def State.reset : State := { chip := { cvg := cvGroupsReset, pwr := { point := [(0, 2), (1, 2), (2, 2), (3, 2)] } } }

end Sys2Proof.Machine
end

