-- ==== Sys2Proof/Machine/Ops.lean ====
section
/-! DEFINITION. The named operations every chapter uses: registers and their fields (R4, R8), saturating counters, event
sources (R519), host errors (R512, R524), the rate in force (R27), and access to blocks, slots, parts and regions. -/

namespace Sys2Proof.Machine

/-! ### Registers -/

/-- The stored value of the register at an address. -/
def Chip.reg (c : Chip) (a : Nat) : Word := tabGet c.regs (regReset a) a

/-- Store a register. -/
def Chip.setReg (c : Chip) (a : Nat) (v : Word) : Chip := { c with regs := tabSet c.regs (regReset a) a v }

/-- The mask of a field in its register. -/
def fieldMask (f : Field) : Word := BitVec.ofNat 32 ((2 ^ f.width - 1) * 2 ^ f.lo)

/-- The value of a field. -/
def Chip.fld (c : Chip) (f : Field) : Nat := ((c.reg f.addr).toNat / 2 ^ f.lo) % 2 ^ f.width

/-- A field read as a signed value. -/
def Chip.sfld (c : Chip) (f : Field) : Int :=
  let v := c.fld f
  if v < 2 ^ (f.width - 1) then v else (v : Int) - (2 ^ f.width : Nat)

/-- Is a field nonzero? -/
def Chip.is (c : Chip) (f : Field) : Bool := decide (c.fld f ≠ 0)

/-- Store a field. -/
def Chip.setFld (c : Chip) (f : Field) (v : Nat) : Chip :=
  let w := c.reg f.addr
  c.setReg f.addr ((w &&& ~~~fieldMask f) ||| (BitVec.ofNat 32 (v % 2 ^ f.width * 2 ^ f.lo)))

/-- Set a field to 1. -/
def Chip.set1 (c : Chip) (f : Field) : Chip := c.setFld f 1

/-- Clear a field. -/
def Chip.clr (c : Chip) (f : Field) : Chip := c.setFld f 0

/-- Put a condition into a one-bit field. -/
def Chip.putB (c : Chip) (f : Field) (b : Bool) : Chip := c.setFld f (if b then 1 else 0)

/-- Add to a counter field, which stops at its maximum. -/
def Chip.addCnt (c : Chip) (f : Field) (n : Nat) : Chip := c.setFld f (min (c.fld f + n) (2 ^ f.width - 1))

/-- Advance a counter field by 1 (R126 and the like: counters stop at their maximum). -/
def Chip.bump (c : Chip) (f : Field) : Chip := c.addCnt f 1

/-! ### Event sources and host errors -/

/-- Raise an event source: its pending bit sets (R519). -/
def Chip.raise (c : Chip) (src : Nat) : Chip :=
  c.setReg (EVC_PEND (src / 32)) (c.reg (EVC_PEND (src / 32)) ||| (1#32 <<< (src % 32)))

/-- Raise a source when a condition holds. -/
def Chip.raiseIf (c : Chip) (b : Bool) (src : Nat) : Chip := if b then c.raise src else c

/-- The bits a host error sets: ERR with its reason, the status flag and source 8 (R508, R512, R519). -/
def Chip.hostErrFlag (c : Chip) (why : Nat) : Chip :=
  let c := (c.set1 HST_STAT_ERR).setFld HST_STAT_WHY why
  { c with host := { c.host with err := true } }.raise 8

/-- A host transaction ends in its first error: the bits, and the count of transactions that set ERR (R524). -/
def Chip.hostErr (c : Chip) (why : Nat) : Chip := (c.hostErrFlag why).bump HST_CNT_ERRS

/-- A refused access by a master: the host takes an error (R512), the DMA engine ends its transfer elsewhere (R481). -/
def Chip.refuse (c : Chip) (dma : Bool) : Chip := if dma then c else c.hostErr 4

/-- EVC_ACT of pin k, word i (R520). -/
def Chip.evcAct (c : Chip) (k i : Nat) : Word := c.reg (EVC_PEND i) &&& c.reg (if k = 0 then EVC_EN0 i else EVC_EN1 i)

/-- The lowest source active on pin k (R521). -/
def Chip.evcLowest (c : Chip) (k : Nat) : Option Nat := (List.range 128).find? fun s => (c.evcAct k (s / 32)).getLsbD (s % 32)

/-! ### The device's condition -/

/-- VIN is present, no reset is held and the device has not stood aside (R526, R536). -/
def Chip.alive (c : Chip) : Bool := c.pwr.vin && !c.pwr.held && decide (c.boot.step ≠ 0x0F)

/-- PWR_STAT.STATE (R611). -/
def Chip.pwrState (c : Chip) : Nat := c.fld PWR_STAT_STATE

/-- The boot sequencer has opened the host port (R529 step 0x06). -/
def Chip.portOpen (c : Chip) : Bool := c.alive && decide (6 ≤ c.boot.step)

/-- The chip logic runs: the port is open, and the device is neither in Hold nor in the first step out of it (R604 to
R606). -/
def Chip.clocked (c : Chip) : Bool := c.portOpen && decide (c.pwrState < 2)

/-- m of R27 as a power of two's exponent: 0, 1 or 2. -/
def Chip.mode (c : Chip) : Nat := c.fld CLK_STAT_EMODE_ACT

/-- Slots of a block in the mode in force (R27). -/
def Chip.slotCount (c : Chip) : Nat := 16 / 2 ^ c.mode

/-- Fs_base (R23). -/
def Chip.fsBase (c : Chip) : Nat := if c.fld CLK_STAT_FAMILY = 0 then 48000 else 44100

/-- Fs (R27). -/
def Chip.fs (c : Chip) : Nat := c.fsBase * 2 ^ c.mode

/-- TB[31:0] (R30). -/
def Chip.tbLow (c : Chip) : Word := c.clk.tb.setWidth 32

/-- Is the engine stopped (R29)? -/
def Chip.stopped (c : Chip) : Bool := c.is CLK_STAT_STOPPED

/-- Is dispatch stopped: the engine is stopping or stopped (R29)? -/
def Chip.engineHeld (c : Chip) : Bool := c.is CLK_CFG_ESTOP || c.stopped || c.clk.stopAt.isSome

/-- Does the easel hold its ingress: halted for debug, or the engine stopping or stopped (R29, R587)? DEDUCED (assumption 35). -/
def Chip.easelHeld (c : Chip) : Bool := c.ez.halted || c.engineHeld

/-! ### Blocks, slots, regions, parts -/

/-- The key of a block. -/
def blkKey (r b : Nat) : Nat := 24 * r + b

/-- The key of a slot of a block: 0–15 slots, 16 and 17 glaze contexts, 18 + s a replaced occupant of slot s. -/
def slotKey (r b s : Nat) : Nat := 40 * blkKey r b + s

/-- A block by its key. -/
def Chip.blk (c : Chip) (k : Nat) : Block := tabGet c.blocks {} k

/-- Update a block. -/
def Chip.updBlk (c : Chip) (k : Nat) (f : Block → Block) : Chip :=
  { c with blocks := tabSet c.blocks {} k (f (c.blk k)) }

/-- A slot by its key. -/
def Chip.slot (c : Chip) (k : Nat) : SlotSt := tabGet c.slots {} k

/-- Store a slot. -/
def Chip.setSlot (c : Chip) (k : Nat) (x : SlotSt) : Chip := { c with slots := tabSet c.slots {} k x }

/-- Update a slot. -/
def Chip.updSlot (c : Chip) (k : Nat) (f : SlotSt → SlotSt) : Chip := c.setSlot k (f (c.slot k))

/-- A region's supervisor. -/
def Chip.rgn (c : Chip) (r : Nat) : RegionSt := tabGet c.regions {} r

/-- Update a region's supervisor. -/
def Chip.updRgn (c : Chip) (r : Nat) (f : RegionSt → RegionSt) : Chip :=
  { c with regions := tabSet c.regions {} r (f (c.rgn r)) }

/-- A region's memory side. -/
def Chip.rm (c : Chip) (r : Nat) : RegionMem := tabGet c.rmem {} r

/-- Update a region's memory side. -/
def Chip.updRm (c : Chip) (r : Nat) (f : RegionMem → RegionMem) : Chip :=
  { c with rmem := tabSet c.rmem {} r (f (c.rm r)) }

/-- A part. -/
def Chip.part (c : Chip) (p : Nat) : Part := tabGet c.parts {} p

/-- Update a part. -/
def Chip.updPart (c : Chip) (p : Nat) (f : Part → Part) : Chip :=
  { c with parts := tabSet c.parts {} p (f (c.part p)) }

/-- Update the easel. -/
def Chip.updEz (c : Chip) (f : Easel → Easel) : Chip := { c with ez := f c.ez }

/-- Update the clocks. -/
def Chip.updClk (c : Chip) (f : ClockSt → ClockSt) : Chip := { c with clk := f c.clk }

/-- Apply an operation for every index below n, in ascending order. -/
def Chip.forN (c : Chip) (n : Nat) (f : Nat → Chip → Chip) : Chip := (List.range n).foldl (fun c i => f i c) c

/-- Apply an operation for every member of a list, in order. -/
def Chip.forL {α : Type} (c : Chip) (l : List α) (f : α → Chip → Chip) : Chip := l.foldl (fun c x => f x c) c

/-! ### Meanings -/

/-- A command that acts on the device when a condition holds, and otherwise changes nothing. DESIGN CHOICE (assumption 13). -/
def actIf (ok : Chip → Bool) (f : Chip → Chip) (s : State) : Host.Outcome State Fault Refusal :=
  if ok s.chip then .next { s with chip := f s.chip } else .next s

/-- A command of a clocked device. -/
def act (f : Chip → Chip) (s : State) : Host.Outcome State Fault Refusal := actIf Chip.clocked f s

/-- A command of a clocked device that may use free values: the counter advances after it. DESIGN CHOICE (assumption 2). -/
def actFree (f : Chip → Chip) (s : State) : Host.Outcome State Fault Refusal :=
  act (fun c => { f c with ctr := c.ctr + 1 }) s

/-- A command of a clocked device that may also change the banks or what outlasts resets. -/
def actAll (f : State → State) (s : State) : Host.Outcome State Fault Refusal :=
  if s.chip.clocked then
    let t := f s
    .next { t with chip := { t.chip with ctr := s.chip.ctr + 1 }, pending := s.pending }
  else .next s

end Sys2Proof.Machine
end

