-- ==== Sys2Proof/Machine/Outputs.lean ====
section
/-! DEFINITION. Audio and CV outputs (chapter "Audio and CV outputs", R359 to R386) and the check of CV cores (R564). -/

namespace Sys2Proof.Machine

/-! ### Faults of the chip level -/

/-- Queue a repair record (R566, R567): it takes effect in the map, and is pending when the queue has room. -/
def Chip.addRepair (c : Chip) (kind unit loc spare code : Nat) : Chip :=
  let r : Repair := { kind := kind, unit := unit, loc := loc, spare := spare, code := code, boots := c.boot.boots % 65536 }
  let rp := { c.rep with map := c.rep.map ++ [r] }
  { c with rep := if rp.pend.length < 255 then { rp with pend := rp.pend ++ [r] } else rp }

/-- Record a chip fault code (R548, R570, R574): source 12; `unit` is the channel of a converter code. -/
def Chip.chipFault (c : Chip) (code : Nat) (unit : Option Nat) : Chip :=
  let c := (c.setFld CHIP_FAULT_CODE code).set1 CHIP_FAULT_FAULT
  let c := match unit with
    | some u => (c.setFld CHIP_FAULT_UNIT u).set1 CHIP_FAULT_CONV
    | none => c
  let c := if code = 0x45 then c.set1 CHIP_FAULT_JFAIL else c
  let c : Chip := if code = 0x40 ∨ code = 0x41 then { c with boot := { c.boot with chip := code } } else c
  c.raise 12

/-! ### Audio outputs -/

/-- An audio channel. -/
def Chip.aoOf (c : Chip) (k : Nat) : AoChan := tabGet c.ao {} k

/-- Store an audio channel; AO_STAT.LIVE follows its state and source 33 its change (R361, R383). -/
def Chip.setAo (c : Chip) (k : Nat) (x : AoChan) : Chip :=
  let was := decide ((c.aoOf k).st = .live)
  let now := decide (x.st = .live)
  let c := { c with ao := tabSet c.ao {} k x }
  if was = now then c
  else
    let bit := 1#32 <<< k
    let w := c.reg AO_STAT
    (c.setReg AO_STAT (if now then w ||| bit else w &&& ~~~bit)).raise 33

/-- Is channel k enabled (R361): EN, the engine started since reset, and no state that holds the converters at rest
(R529 step 0x01, R597, R604)? -/
def Chip.aoOn (c : Chip) (k : Nat) : Bool :=
  c.is (AO_CTL_EN k) && c.clk.started && !c.pwr.convOff && !c.pwr.waitStart && decide (c.pwrState = 0)

/-- The legs' level at VCM, in quarter base samples of the 20 ms ramp (R361). -/
def Chip.aoFull (c : Chip) : Nat := 80 * c.fsBase / 1000

/-- The mute gain in units of 2⁻²³ (R361, R362). -/
def aoMuteGain (x : AoChan) : Nat :=
  match x.st with
  | .live => 2 ^ 23
  | .fadeIn => x.mg0 + (2 ^ 23 - x.mg0) * x.j / 64
  | .fadeOut => x.mg0 * (64 - x.j) / 64
  | _ => 0

/-- Apply EN and MUTE to a channel's state (R361, R362). DEDUCED (assumption 53). -/
def Chip.aoApply (c : Chip) (k : Nat) : Chip :=
  let x := c.aoOf k
  let en := c.aoOn k
  let mute := c.is (AO_CTL_MUTE k)
  let fade (st : AoSt) : AoChan := { x with st := st, mg0 := aoMuteGain x, j := 0 }
  match x.st with
  | .clamped => if en then c.setAo k { x with st := .rising, legs := 0 } else c
  | .rising => if en then c else c.setAo k { x with st := .falling }
  | .fadeIn => if en && !mute then c else c.setAo k (fade .fadeOut)
  | .live => if en && !mute then c else c.setAo k (fade .fadeOut)
  | .fadeOut => if en && !mute then c.setAo k (fade .fadeIn) else c
  | .muted => if !en then c.setAo k { x with st := .falling }
    else if mute then c else c.setAo k (fade .fadeIn)
  | .falling => if en then c.setAo k { x with st := .rising } else c

/-- A ramp that has reached its end changes the state (R361, R362): Rising to Fade-in or Muted, Fade-in to Live, Fade-out
to Muted or Falling, Falling to Clamped. DEDUCED (assumption 53). -/
def Chip.aoRampEnd (c : Chip) (k : Nat) : Chip :=
  let x := c.aoOf k
  match x.st with
  | .rising =>
    if x.legs < c.aoFull then c
    else if c.is (AO_CTL_MUTE k) then c.setAo k { x with st := .muted }
    else c.setAo k { x with st := .fadeIn, mg0 := 0, j := 0 }
  | .fadeIn => if x.j < 64 then c else c.setAo k { x with st := .live }
  | .fadeOut => if x.j < 64 then c else c.setAo k { x with st := if c.aoOn k then .muted else .falling }
  | .falling => if 0 < x.legs then c else c.setAo k { x with st := .clamped }
  | _ => c

/-- The level gain of an attenuation step, Q1.23 (R360): ⌊2²³ × 10^(−a ÷ 40)⌋, 1.0 saturating. -/
def aoGain (a : Nat) : Q :=
  if a = 0 then oneQ else if 255 ≤ a then 0
  else BitVec.ofNat 24 (rootStep (2 ^ 920 / 10 ^ a) 40 23 0)

/-- One engine sample of channel k with sink value v (R359 to R361): the attenuation step, the ramps, the output. -/
def Chip.aoSample (c : Chip) (k : Nat) (v : Q) : Chip :=
  let x := c.aoOf k
  let t := c.fld (AO_CTL_ATTEN k)
  let att := if x.att < t then x.att + 1 else if t < x.att then x.att - 1 else x.att
  let q := 4 / 2 ^ c.mode
  let legs := match x.st with
    | .rising => min (x.legs + q) c.aoFull
    | .falling => x.legs - q
    | _ => x.legs
  let j := if x.st = .fadeIn ∨ x.st = .fadeOut then min (x.j + 1) 64 else x.j
  let x := { x with att := att, legs := legs, j := j }
  let y := mulQ v (aoGain att)
  let out := satQ (y.toInt * (aoMuteGain x : Nat) / 2 ^ 23)
  c.setAo k { x with out := out, line := (out :: x.line).take 19 }

/-- Samples between the boundary at which the canvas gives a channel its value and the group-delay point at the pin: the
latency of R20 less the two samples of the canvas. -/
def aoDelay (mode : Nat) : Nat := match mode with | 0 => 9 | 1 => 12 | _ => 18

/-- The value at pin AOk in the sample that runs, in Q1.23 (R20, R359); a clamped channel gives 0 V. -/
def Chip.aoPin (c : Chip) (k : Nat) : Q :=
  let x := c.aoOf k
  if x.st = .clamped then 0 else x.line.getD (aoDelay c.mode) 0

/-! ### CV outputs -/

/-- A CV channel. -/
def Chip.cvOf (c : Chip) (k : Nat) : CvChan := tabGet c.cv {} k

/-- CV_OUT.STATE of a state (R385). -/
def cvStCode : CvSt → Nat
  | .clamped => 0 | .spanClamp => 1 | .driving => 2 | .ramp => 3 | .bandClamp => 4

/-- Store a CV channel; CV_OUT reports it (R385). -/
def Chip.setCv (c : Chip) (k : Nat) (x : CvChan) : Chip :=
  let c := { c with cv := tabSet c.cv {} k x }
  ((c.setFld (CV_OUT_STATE k) (cvStCode x.st)).putB (CV_OUT_WRITTEN k) x.written).setFld (CV_OUT_CODE k) x.code

/-- A CV group. -/
def Chip.cvGrp (c : Chip) (g : Nat) : CvGroup := tabGet c.cvg (cvGroupReset g) g

/-- Store a CV group. -/
def Chip.setCvGrp (c : Chip) (g : Nat) (x : CvGroup) : Chip := { c with cvg := tabPut c.cvg g x }

/-- Does a span need VNEG (R364)? -/
def spanBipolar (s : Nat) : Bool := decide (3 ≤ s)

/-- The VINBAND a span needs (R364). -/
def spanBand (s : Nat) : Nat := s % 3

/-- The code of 0 V (R364). -/
def spanZero (s : Nat) : Nat := if spanBipolar s then 0x8000 else 0

/-- A Q1.23 value as a code (R366). -/
def cvCodeOf (s : Nat) (x : Q) : Nat :=
  if spanBipolar s then (x.toInt / 256 + 32768).toNat else if x.toInt < 0 then 0 else (x.toInt / 128).toNat

/-- The applied code D′ (R367). -/
def cvTrim (s : Nat) (gain offset : Int) (d : Nat) : Nat :=
  let ds : Int := if spanBipolar s then (d : Int) - 32768 else d
  (clampInt 0 65535 ((d : Int) + ds * gain / 65536 + offset)).toNat

/-- Does the pump have work (R378)? -/
def Chip.pumpNeed (c : Chip) : Bool :=
  c.is CV_STAT_PUMPFORCE ||
    (List.range 32).any fun k => c.is (CV_CFG_EN k) && spanBipolar (c.fld (CV_CFG_SPAN k))

/-- Start the pump, or arm its stop 10 ms later (R378). -/
def Chip.pumpEval (c : Chip) : Chip :=
  if c.pumpNeed && decide (c.pwrState = 0) && !c.pwr.convOff then { c.set1 CV_STAT_PUMP with pumpStop := false }
  else if c.is CV_STAT_PUMP then { c with pumpStop := true } else c

/-- The generators of a group take their update (R380): outputs from the accumulators, then the advance. Only the first
update of a sample moves them. -/
def Chip.cvGroupStep (c : Chip) (g : Nat) : Chip :=
  let x := c.cvGrp g
  if x.at_ = some c.clk.smp then c
  else
    let x := if x.prst then { x with tri := 0, saw := 0, pep := 0, prst := false } else x
    let shape := if c.is (CV_GCTL_SMOOTH g) then 6 else 5
    let site := 700000 + 8 * g
    let n := x.pep.toNat + c.fld (CV_GPEP_INC g)
    let y := { x with
      at_ := some c.clk.smp
      wTri := lfoWave c.ctr site 1 x.tri x.a x.b
      wSaw := lfoWave c.ctr (site + 1) 2 x.saw x.a x.b
      wPep := lfoWave c.ctr (site + 2) shape x.pep x.a x.b
      tri := x.tri + c.reg (CV_GTRI g), saw := x.saw + c.reg (CV_GSAW g), pep := BitVec.ofNat 32 n }
    c.setCvGrp g (if n < 2 ^ 32 then y
      else let l := pepper32 x.lfsr; { y with lfsr := l, a := x.b, b := (l >>> 8).setWidth 24 })

/-- The sine generator's output, within 2⁻¹⁶ of full scale (R379). -/
def cvSine (ctr site : Nat) (phi : Word) : Q :=
  satQ (sinFix phi * 0x800000 / 2 ^ 60 + clampInt (-127) 127 (Config.freeInt ctr site))

/-- The value of a channel with SRC = 3 (R381). -/
def Chip.cvGenValue (c : Chip) (k : Nat) (sine : Q) : Q :=
  let g := c.cvGrp (k / 8)
  let w := match c.fld (CV_CFG_GSEL k) with
    | 0 => sine | 1 => g.wTri | 2 => g.wSaw | _ => g.wPep
  satQ (c.sfld (CV_GAMP_OFFSET k) * 256 + c.sfld (CV_GAMP_AMP k) * w.toInt / 32768)

/-- The chip bus a sink's byte of a map register names (R348): 0 when EN = 0. -/
def Chip.sinkValue (c : Chip) (map byte : Nat) : Q :=
  let w := tabGet c.cnv.shadow (regReset map) map
  let e := fieldOf w (8 * byte) 8
  if 128 ≤ e then tabGet c.cnv.chip 0 (e % 32) else 0

/-- The export a channel takes: the lowest handle, one of them where one voice sends several (R257).
DESIGN CHOICE (assumption 94). -/
def pickExport (ctr site : Nat) (xs : List CvExport) : Option CvExport :=
  match xs with
  | [] => none
  | x :: r =>
    let low := r.foldl (fun m y => min m y.low) x.low
    let same := xs.filter fun y => decide (y.low = low)
    same[(Config.freeInt ctr site).toNat % same.length]?

/-- What the source gives at an update (R368 to R370): the code, if there is one, and the counters. `host` is a host write
that was pending. -/
def Chip.cvSource (c : Chip) (k : Nat) (host : Bool) (sine : Q) : Option Nat × Chip :=
  let span := c.fld (CV_CFG_SPAN k)
  let x := c.cvOf k
  let hostCode := if x.hostPend.isSome then x.hostOld else c.fld (CV_CODE_CODE k)
  match c.fld (CV_CFG_SRC k) with
  | 0 => (if x.written then some hostCode else none, c)
  | 1 => (some (cvCodeOf span (c.sinkValue (CNV_CVMAP (k / 4)) (k % 4))), c)
  | 2 =>
    let xs := c.cvNow.filter fun e => decide (e.chan = k) && c.is (CV_CFG_EN k)
    match pickExport c.ctr (710000 + k) xs with
    | some e =>
      let d := c.addCnt CV_CNT_XDISC (xs.length - 1)
      let d := if host then d.bump CV_CNT_HOSTLOST else d
      (some (cvCodeOf span e.value),
        d.raiseIf (decide (d.fld CV_CNT_XDISC ≠ c.fld CV_CNT_XDISC) || decide (d.fld CV_CNT_HOSTLOST ≠ c.fld CV_CNT_HOSTLOST)) 39)
    | none => (if host then some (c.fld (CV_CODE_CODE k)) else none, c)
  | _ => (some (cvCodeOf span (c.cvGenValue k sine)), c)

/-- A fall of VINBAND or VNEG_OK clamps the driving channels whose span needs more, at their next updates (R376). -/
def Chip.cvFall (c : Chip) (bad : Nat → Bool) : Chip :=
  c.forN 32 fun k c =>
    let x := c.cvOf k
    if (x.st = .driving ∨ x.st = .ramp) ∧ bad (c.fld (CV_CFG_SPAN k)) = true then c.setCv k { x with bandReq := true } else c

/-- May the channel drive (R374, R376): its span's VIN band, VNEG for a bipolar span, and no state that holds the
converters at rest? -/
def Chip.cvCanDrive (c : Chip) (k : Nat) : Bool :=
  let span := c.fld (CV_CFG_SPAN k)
  decide (spanBand span ≤ c.fld CV_STAT_VINBAND) && (!spanBipolar span || c.is CV_STAT_VNEG_OK)
    && !c.pwr.convOff && !(c.cvOf k).lost

/-- Is a channel enabled: EN and the device in Run (R604, R606)? -/
def Chip.cvOn (c : Chip) (k : Nat) : Bool := c.is (CV_CFG_EN k) && !c.pwr.waitStart && decide (c.pwrState = 0)

/-- Apply a code at an update (R371): the upper byte's change, or a release, holds the output. -/
def cvApply (x : CvChan) (code : Nat) (release : Bool) : CvChan :=
  if release || decide (x.code / 256 ≠ code / 256) then { x with code := code, hold := true }
  else { x with code := code, drive := some code, hold := false }

/-- Engage the rest clamp (R374 to R376). -/
def cvClamp (x : CvChan) (st : CvSt) (timed : Bool) : CvChan :=
  { x with st := st, timed := timed, drive := none, hold := false, clampReq := false, bandReq := false }

/-- The rest clamp drives its own code, untrimmed: the span's code for 0 V (R367, R374). -/
def cvRest (x : CvChan) (span : Nat) : CvChan := { x with code := spanZero span }

/-- The update of channel k (R368 to R377). -/
def Chip.cvUpdate (c : Chip) (k : Nat) : Chip :=
  let c := c.cvGroupStep (k / 8)
  let x := c.cvOf k
  let phi := if x.phrst then 0 else x.phi
  let sine := cvSine c.ctr (720000 + k) phi
  let host := match x.hostPend with
    | some t => decide (t < c.clk.smp)
    | none => false
  let x := { x with phi := phi + c.reg (CV_SINC k), phrst := false, hostPend := if host then none else x.hostPend }
  let c := c.setCv k x
  let (new, c) := c.cvSource k host sine
  let span := c.fld (CV_CFG_SPAN k)
  let on := c.cvOn k
  let ok := c.cvCanDrive k
  let x := match new with
    | some d => { x with d := d }
    | none => x
  let code := cvTrim span (c.sfld (CV_TRIM_GAIN k)) (c.sfld (CV_TRIM_OFFSET k)) x.d
  let active := decide (x.st = .driving) || decide (x.st = .ramp)
  if active && x.bandReq then (c.setCv k (cvRest (cvClamp x .bandClamp false) span)).raise 42
  else if x.clampReq then c.setCv k (cvRest (cvClamp x .spanClamp true) span)
  else match x.st with
    | .driving => c.setCv k (cvApply x code false)
    | .ramp =>
      let j := min (x.rampJ + 1) 64
      let dz : Int := (spanZero span : Nat)
      let v := ((x.rampD0 : Int) + (dz - x.rampD0) * j / 64).toNat
      c.setCv k { cvApply x v false with rampJ := j }
    | .bandClamp =>
      c.setCv k (cvRest { x with timed := x.timed || ok } span)
    | .spanClamp => c.setCv k (cvRest x span)
    | .clamped =>
      if on && ok && new.isSome && !x.timed then c.setCv k { cvApply x code true with st := .driving }
      else c.setCv k (cvRest x span)

/-- A host write of CV_CODE (R370). -/
def Chip.cvCodeWrite (c : Chip) (k : Nat) (v : Nat) : Chip :=
  let x := c.cvOf k
  let old := if x.hostPend.isSome then x.hostOld else c.fld (CV_CODE_CODE k)
  (c.setFld (CV_CODE_CODE k) v).setCv k { x with hostPend := some c.clk.smp, hostOld := old, written := true }

/-- A write of SPAN (R365, R375). -/
def Chip.cvSpanWrite (c : Chip) (k span : Nat) : Chip :=
  if 6 ≤ span ∨ c.fld CV_STAT_VINBAND < spanBand span then (c.set1 CV_STAT_SPANREJ).raise 38
  else
    let c := (c.setFld (CV_CFG_SPAN k) span).pumpEval
    let x := c.cvOf k
    match x.st with
    | .driving | .spanClamp => c.setCv k { x with clampReq := true }
    | _ => c

/-- A timed clamp of 200 µs ends (R375, R376): the channel releases under R374. DESIGN CHOICE (assumption 13). -/
def Chip.cvSpanClampEnd (c : Chip) (k : Nat) : Chip :=
  let x := c.cvOf k
  if x.timed then c.setCv k { x with timed := false, st := .clamped } else c

/-- A write of CV_CFG.EN (R377, R378). -/
def Chip.cvSetEn (c : Chip) (k : Nat) (en : Bool) : Chip :=
  let c := (c.putB (CV_CFG_EN k) en).pumpEval
  let x := c.cvOf k
  match x.st with
  | .driving => if en then c else c.setCv k { x with st := .ramp, rampD0 := x.code, rampJ := 0 }
  | .ramp => if en then c.setCv k { x with st := .driving } else c
  | _ => c

/-- The disable ramp has reached j = 64: the clamp engages (R377). -/
def Chip.cvRampEnd (c : Chip) (k : Nat) : Chip :=
  let x := c.cvOf k
  if x.st = .ramp ∧ 64 ≤ x.rampJ then c.setCv k (cvClamp x .clamped false) else c

/-- The deglitcher's hold ends: the channel drives the new code (R371). -/
def Chip.cvHoldEnd (c : Chip) (k : Nat) : Chip :=
  let x := c.cvOf k
  if x.hold then c.setCv k { x with hold := false, drive := some x.code } else c

/-- The channel a check of group g takes next: the first driving channel with no hold from `from_` on, in ascending order
(R564). -/
def Chip.cvNextDriving (c : Chip) (g from_ : Nat) : Option Nat :=
  (List.range 8).findSome? fun i =>
    let k := 8 * g + (from_ + i) % 8
    let x := c.cvOf k
    if x.st = .driving ∧ x.hold = false then some ((from_ + i) % 8) else none

/-- The spare of a group takes over channel i of the group (R382, R564). -/
def Chip.cvTakeOver (c : Chip) (g i : Nat) : Chip :=
  let c := (c.set1 (CV_GCTL_SPUSE g)).setFld (CV_GCTL_SPCH g) i
  let c := c.setCv (8 * g + i) { c.cvOf (8 * g + i) with hold := true }
  ((c.chipFault 0x42 (some (8 * g + i))).addRepair 5 g i 0 0x42).raise (34 + g)

/-- A core fails in a group with no working spare: its channel stays clamped until the next boot (R564). -/
def Chip.cvLose (c : Chip) (g i : Nat) : Chip :=
  let k := 8 * g + i
  let c := c.setCv k { cvRest (cvClamp (c.cvOf k) .clamped false) (c.fld (CV_CFG_SPAN k)) with lost := true }
  (c.chipFault 0x43 (some k)).addRepair 6 g i 0 0x43

/-- One check of a CV group (R564): a difference seen in 3 consecutive checks is confirmed against the next driving
channel, whose agreement condemns the channel's core and whose difference condemns the spare. In a group whose spare is in use or
has failed, the same findings tell that a core fails. DESIGN CHOICE (assumption 20). -/
def Chip.cvCheck (c : Chip) (g : Nat) (differs agrees : Bool) : Chip :=
  let x := c.cvGrp g
  let spare := !c.is (CV_GCTL_SPUSE g) && !x.spareBad
  if c.is RST_CCFG_CVEN = false then c
  else match c.cvNextDriving g x.next with
    | none => c
    | some i =>
      let n := if differs then tabGet x.fails 0 i + 1 else 0
      let x := { x with fails := tabSet x.fails 0 i n, next := (i + 1) % 8 }
      if n < 3 then c.setCvGrp g x
      else match c.cvNextDriving g ((i + 1) % 8) with
        | none => c.setCvGrp g x
        | some i2 =>
          if i2 = i then c.setCvGrp g x
          else if agrees then
            let c := c.setCvGrp g { x with fails := [] }
            if spare then c.cvTakeOver g i else c.cvLose g i
          else if spare = false then c.setCvGrp g { x with fails := [] }
          else (c.setCvGrp g { x with spareBad := true, fails := [] }).chipFault 0x43 (some (8 * g + i))

/-! ### Meanings -/

/-- AO_ENABLE (R361): a write of EN = 1. -/
def execAoEnable (k : Fin 16) : State → Host.Outcome State Fault Refusal :=
  act fun c => (c.set1 (AO_CTL_EN k)).aoApply k

/-- AO_DISABLE (R361): a write of EN = 0. -/
def execAoDisable (k : Fin 16) : State → Host.Outcome State Fault Refusal :=
  act fun c => (c.clr (AO_CTL_EN k)).aoApply k

/-- AO_MUTE (R362): a write of MUTE = 1. -/
def execAoMute (k : Fin 16) : State → Host.Outcome State Fault Refusal :=
  act fun c => (c.set1 (AO_CTL_MUTE k)).aoApply k

/-- AO_UNMUTE (R362): a write of MUTE = 0. -/
def execAoUnmute (k : Fin 16) : State → Host.Outcome State Fault Refusal :=
  act fun c => (c.clr (AO_CTL_MUTE k)).aoApply k

/-- AO_RAMP_END (R361): a ramp that has run its length ends. -/
def execAoRampEnd (k : Fin 16) : State → Host.Outcome State Fault Refusal :=
  act fun c => c.aoRampEnd k

/-- AO_CURRENT_LIMIT (R363). -/
def execAoCurrentLimit (k : Fin 16) : State → Host.Outcome State Fault Refusal :=
  act fun c => (c.setReg AO_STAT (c.reg AO_STAT ||| (1#32 <<< (16 + k.val)))).raise 32

/-- CV_UPDATE (R368). -/
def execCvUpdate (k : Fin 32) : State → Host.Outcome State Fault Refusal :=
  actFree fun c => c.cvUpdate k

/-- CV_CODE_WRITE (R370). -/
def execCvCodeWrite (k : Fin 32) (v : BitVec 16) : State → Host.Outcome State Fault Refusal :=
  act fun c => c.cvCodeWrite k v.toNat

/-- CV_SPAN_WRITE (R365). -/
def execCvSpanWrite (k : Fin 32) (span : BitVec 3) : State → Host.Outcome State Fault Refusal :=
  act fun c => c.cvSpanWrite k span.toNat

/-- CV_SPAN_CLAMP_END (R375). -/
def execCvSpanClampEnd (k : Fin 32) : State → Host.Outcome State Fault Refusal :=
  act fun c => c.cvSpanClampEnd k

/-- CV_DISABLE (R377). -/
def execCvDisable (k : Fin 32) : State → Host.Outcome State Fault Refusal :=
  act fun c => c.cvSetEn k false

/-- CV_RAMP_END (R377). -/
def execCvRampEnd (k : Fin 32) : State → Host.Outcome State Fault Refusal :=
  act fun c => c.cvRampEnd k

/-- DEGLITCH_HOLD_END (R371). -/
def execDeglitchHoldEnd (k : Fin 32) : State → Host.Outcome State Fault Refusal :=
  act fun c => c.cvHoldEnd k

/-- CV_CURRENT_LIMIT (R373). -/
def execCvCurrentLimit (k : Fin 32) : State → Host.Outcome State Fault Refusal :=
  act fun c => (c.setReg CV_ILIM (c.reg CV_ILIM ||| (1#32 <<< k.val))).raise 41

/-- VNEG_OK_RISE (R378). -/
def execVnegOkRise : State → Host.Outcome State Fault Refusal :=
  act fun c => c.set1 CV_STAT_VNEG_OK

/-- VNEG_OK_FALL (R378): bipolar channels clamp at their next update (R376). -/
def execVnegOkFall : State → Host.Outcome State Fault Refusal :=
  act fun c =>
    let c := if c.is CV_STAT_VNEG_OK then c.cvFall spanBipolar else c
    (c.clr CV_STAT_VNEG_OK).raiseIf (c.is CV_STAT_VNEG_OK) 40

/-- CHARGE_PUMP_STOP (R378): 10 ms after the pump's last need. -/
def execChargePumpStop : State → Host.Outcome State Fault Refusal :=
  act fun c => if c.pumpStop then { c.clr CV_STAT_PUMP with pumpStop := false } else c

/-- Arm the phase resets a write of CV_PHRST names (R379). -/
def Chip.cvPhrst (c : Chip) (mask : Word) : Chip :=
  c.forN 32 fun k c => if mask.getLsbD k then c.setCv k { c.cvOf k with phrst := true } else c

/-- CV_PHRST (R379). -/
def execCvPhrst (mask : Word) : State → Host.Outcome State Fault Refusal :=
  act fun c => c.cvPhrst mask

/-- CV_GROUP_PRST (R380). -/
def execCvGroupPrst (g : Fin 4) : State → Host.Outcome State Fault Refusal :=
  act fun c => c.setCvGrp g { c.cvGrp g with prst := true }

/-- CV_CHECK (R564). -/
def execCvCheck (g : Fin 4) (differs agrees : Bool) : State → Host.Outcome State Fault Refusal :=
  act fun c => c.cvCheck g differs agrees

end Sys2Proof.Machine
end

