-- ==== Sys2Proof/Machine/Inputs.lean ====
section
/-! DEFINITION. The input chain (chapter "Inputs, decimation and resampling", R387 to R415) and the decimator's recovery
(R565). The filtered values come as operands: the analogue input, the modulator and the response ROM are outside the
model (assumption 20). -/

namespace Sys2Proof.Machine

/-- An input channel. -/
def Chip.aiOf (c : Chip) (k : Nat) : AiChan := tabGet c.ai {} k

/-- Settling length L (R392). -/
def aiSettle (resp dec : Nat) : Nat :=
  (([[66, 64, 63, 62], [30, 28, 27, 26], [66, 64, 63, 62], [26, 24, 23, 22],
     [22, 20, 19, 18], [14, 12, 11, 10], [46, 44, 43, 42], [12, 10, 9, 8]] : List (List Nat)).getD resp []).getD dec 0

/-- Group delay G (R392). -/
def aiDelayG (resp dec : Nat) : Nat :=
  (([[33, 32, 32, 31], [15, 14, 14, 13], [12, 11, 11, 10], [7, 6, 6, 5],
     [11, 10, 10, 9], [5, 4, 4, 3], [23, 22, 22, 21], [4, 3, 3, 2]] : List (List Nat)).getD resp []).getD dec 0

/-- Cycles of an Fd sample (R390). -/
def aiFdCycles (dec : Nat) : Nat := 256 * 2 ^ dec

/-- Cycles of an engine sample (R27). -/
def Chip.smpCycles (c : Chip) : Nat := 2048 / 2 ^ c.mode

/-- Is the resampler in use (R398): delivery at Fs with Fd ≠ Fs? -/
def Chip.aiResamples (c : Chip) (k : Nat) (dec : Nat) : Bool :=
  !c.is (AI_CFG_ORATE k) && decide (aiFdCycles dec ≠ c.smpCycles)

/-- AI_DLY (R400). -/
def Chip.aiDelay (c : Chip) (k : Nat) (x : AiChan) : Nat :=
  aiDelayG x.active x.dec * aiFdCycles x.dec
    + (if c.aiResamples k x.dec then 16 * max (aiFdCycles x.dec) c.smpCycles else 0)
    + 2 * c.smpCycles + x.theta

/-- Store a channel; the status, response and detector registers report it (R411 to R413). -/
def Chip.setAi (c : Chip) (k : Nat) (x : AiChan) : Chip :=
  let c := { c with ai := tabSet c.ai {} k x }
  let c := (c.setFld (AI_STAT_OCC k) x.queue.length).putB (AI_STAT_LASTQ k) (decide (0 < x.drain))
  let c := ((c.putB (AI_RESP_PEND k) x.latched.isSome).setFld (AI_RESP_LATCHED k) (x.latched.getD 0)).putB
    (AI_RESP_FADING k) (decide (0 < x.fadeJ))
  let c := c.setFld (AI_RESP_ACTIVE k) x.active
  ((c.setFld (AI_PEAK_P k) x.p).setFld (AI_RMS_R k) x.r).setFld (AI_ENV_E k) x.e

/-- Set a status flag of a channel; source 48 + k rises when its enable is 1 (R409). -/
def Chip.aiFlag (c : Chip) (k : Nat) (flag enable : Nat → Field) : Chip :=
  (c.set1 (flag k)).raiseIf (c.is (enable k)) (48 + k)

/-- UNSET and SKACT follow the channel; SETTLED sets when UNSET falls (R394, R395). -/
def Chip.aiUnset (c : Chip) (k : Nat) (unset sk : Bool) : Chip :=
  let was := c.is (AI_STAT_UNSET k)
  let c := (c.putB (AI_STAT_UNSET k) unset).putB (AI_STAT_SKACT k) sk
  if was && !unset then c.aiFlag k AI_STAT_SETTLED AI_CFG_IE_SET else c

/-- A synchronising reset (R393): history and detectors cleared, stored MODE and DEC and the newest response request in
force, any cross-fade ended; theta is free within its bound (R400), and `one` for the channels of one AI_SYNC write at one DEC
(R401). DESIGN CHOICE (assumption 93). -/
def Chip.aiReset (c : Chip) (k : Nat) (one : Bool) : Chip :=
  let x := c.aiOf k
  let site := if one then 730000 else 730100 + 4 * k
  let dec := c.fld (AI_CFG_DEC k)
  let resp := c.fld (AI_RESP_RESP k)
  let y : AiChan := { x with
    mode := c.fld (AI_CFG_MODE k), dec := dec, active := resp, standby := resp, fading := false, fadeJ := 0
    latched := none, settle := aiSettle resp dec, resLeft := 32, recover := 0
    p := 0, m := 0, r := 0, e := 0, trig := .off, since := 0xFFFF, lastOut := 0, flags := 0, mods := []
    theta := (clampInt 0 (aiFdCycles dec - 1 : Nat) (Config.freeInt c.ctr (site + dec))).toNat }
  let c := (c.setAi k y).setFld (AI_DLY_CYCLES k) (c.aiDelay k y)
  if y.running then c.putB (AI_STAT_UNSET k) true else c

/-- Reset the channels a mask names (R393, R415). -/
def Chip.aiSync (c : Chip) (mask : Word) : Chip :=
  c.forN 16 fun k c => if mask.getLsbD k then c.aiReset k true else c

/-- EN from 0 to 1 (R389, R408): a synchronising reset; words that remain keep LASTQ. -/
def Chip.aiEnable (c : Chip) (k : Nat) : Chip :=
  if c.is (AI_CFG_EN k) then c
  else
    let c := c.set1 (AI_CFG_EN k)
    if c.pwr.convOff ∨ c.pwrState ≠ 0 then c
    else (c.setAi k { c.aiOf k with running := true, stopPend := false }).aiReset k false

/-- EN = 0 (R408): the stop comes at the next output; the words queued will carry LASTQ. -/
def Chip.aiDisable (c : Chip) (k : Nat) : Chip :=
  let x := c.aiOf k
  let c := c.clr (AI_CFG_EN k)
  if x.running then c.setAi k { x with stopPend := true, drain := x.queue.length } else c

/-- A write of AI_RESP.RESP (R396, R397). -/
def Chip.aiRespWrite (c : Chip) (k resp : Nat) : Chip :=
  let x := c.aiOf k
  let c := c.setFld (AI_RESP_RESP k) resp
  if x.running = false then c
  else if 0 < x.fadeJ then c.setAi k { x with latched := some resp }
  else if resp = x.active then c
  else c.setAi k { x with standby := resp, fading := true }

/-- A cross-fade that has reached j = 64 ends (R396, R397). -/
def Chip.xfadeEnd (c : Chip) (k : Nat) : Chip :=
  let x := c.aiOf k
  if x.fading = false ∨ x.fadeJ < 64 then c
  else
    let y := { x with active := x.standby, fading := false, fadeJ := 0, latched := none }
    let y := match x.latched with
      | some r => if r = y.active then y else { y with standby := r, fading := true }
      | none => y
    let c := (c.setAi k y).setFld (AI_DLY_CYCLES k) (c.aiDelay k y)
    c.aiFlag k AI_STAT_FADEDONE AI_CFG_IE_FADE

/-- Discard an event with a reason (R264, R289, R294). -/
def Chip.discard (c : Chip) (src reason : Nat) : Chip :=
  let adv := decide (c.fld EZ_CNT2_DISC ≠ 0xFFFF)
  (((c.bump EZ_CNT2_DISC).setFld EZ_DISCWHY_SOURCE src).setFld EZ_DISCWHY_REASON reason).raiseIf adv 22

/-- A source of the easel's order of arrival. DESIGN CHOICE (assumption 14). -/
def Chip.nextStamp (c : Chip) : Nat × Chip := (c.ez.stamp, c.updEz fun z => { z with stamp := z.stamp + 1 })

/-- scale7to16 (R274), by its definition on 7 bits. DEDUCED (assumption 31). -/
def scale7to16 (v : Nat) : Nat :=
  let r := v * 512
  if v ≤ 64 then r
  else
    let rep := (v % 64) * 8
    r ||| rep ||| (rep / 64) ||| (rep / 4096)

/-- The events that a pulse or a release of channel k makes, as EZ_DET stands now (R286). DESIGN CHOICE (assumption 93). -/
def Chip.detEvents (c : Chip) (k : Nat) (release : Bool) (peak : BitVec 16) (at_ : Word) : List Ev :=
  let timed := c.is (EZ_DET_TIMED k)
  let base : Ev := { op := 1, part := c.fld (EZ_DET_PART k), key := c.fld (EZ_DET_KEY k), timed := timed
                     ts := at_ + BitVec.ofNat 32 (c.fld (EZ_DET_DLY k)), src := 0x20 + k, stamp := c.ez.stamp, tb := c.tbLow
                     vel16 := (Config.freeWord c.ctr (810000 + k)).setWidth 16 }
  let off := c.fld (EZ_DET_OFF k)
  if release then (if off = 1 then [base] else [])
  else
    let vel : BitVec 16 := if c.is (EZ_DET_VELSRC k) then peak else BitVec.ofNat 16 (scale7to16 (c.fld (EZ_DET_VEL k)))
    let on : Ev := { base with op := 2, vel16 := vel, pitch := BitVec.ofNat 32 (c.fld (EZ_DET_KEY k) * 65536) }
    if off = 0 ∨ off = 3 then [on, { base with follows := true }] else [on]

/-- A pulse or a release reaches the easel's detector queue with its events, of which a release may make none; there the oldest of 32
entries gives way and is discarded (R259, R286, R294, R405). -/
def Chip.detPush (c : Chip) (k : Nat) (release : Bool) (peak : BitVec 16) (at_ : Word) : Chip :=
  let evs := c.detEvents k release peak at_
  if c.is (EZ_DET_EN k) = false then c
  else
    let (st, c) := c.nextStamp
    let d : DetEv := { chan := k, cls := c.fld (EZ_DET_CLASS k), evs := evs, stamp := st }
    match c.ez.dets with
    | o :: rest =>
      if 32 ≤ c.ez.dets.length then (c.updEz fun z => { z with dets := rest ++ [d] }).discard (0x20 + o.chan) 9
      else c.updEz fun z => { z with dets := z.dets ++ [d] }
    | [] => c.updEz fun z => { z with dets := [d] }

/-- The sample s of R286 and R406 for a pulse now: with TSC = 1 the pin instant lies (G + PKWIN) × 16 × D cycles before the
pulse, which may have crossed one boundary more, by where in its sample the pulse falls. DESIGN CHOICE (assumption 93). -/
def Chip.detSample (c : Chip) (k : Nat) : Word :=
  let x := c.aiOf k
  if c.is (AI_DETCFG_TSC k) then
    let cy := (aiDelayG x.active x.dec + c.fld (AI_DETCFG_PKWIN k)) * aiFdCycles x.dec
    let n := cy / c.smpCycles + (if cy % c.smpCycles ≠ 0 && Config.freeBool c.ctr (740000 + k) then 1 else 0)
    c.tbLow - BitVec.ofNat 32 n
  else c.tbLow

/-- A pulse or release of channel k goes to the easel and to its trigger line (R405). -/
def Chip.detFire (c : Chip) (k : Nat) (release : Bool) (best : Nat) : Chip :=
  let c := c.detPush k release (BitVec.ofNat 16 (best / 256)) (c.detSample k)
  if c.is (AI_DETCFG_TRGEN k) then { c with trg := (c.fld (AI_DETCFG_TRG k)) :: c.trg.erase (c.fld (AI_DETCFG_TRG k)) }
  else c

/-- A shift field in which 0 acts as 1 (R404). -/
def shift1 (n : Nat) : Nat := if n = 0 then 1 else n

/-- One output of the detectors (R404): p, m, r and e. -/
def Chip.aiDetect (c : Chip) (k : Nat) (x : AiChan) (y : Q) : AiChan × Nat :=
  let a := min y.toInt.natAbs 0x7FFFFF
  let p := max a (x.p - x.p / 2 ^ shift1 (c.fld (AI_DETCFG_PKREL k)))
  let m := ((x.m : Int) + ((a * a / 2 ^ 23 : Nat) - (x.m : Int)) / 2 ^ shift1 (c.fld (AI_DETCFG_RMSK k))).toNat
  let r := ((sqrtNat (m * 2 ^ 23) : Int) + freeDev c.ctr (750000 + k) 1).toNat
  let sh := if x.e < a then c.fld (AI_DETCFG_ATK k) else shift1 (c.fld (AI_DETCFG_REL k))
  let e := ((x.e : Int) + ((a : Int) - x.e) / 2 ^ sh).toNat
  ({ x with p := p, m := m, r := min r 0x7FFFFF, e := e }, a)

/-- One output of the trigger (R405); the outputs since the last pulse count whatever EN holds. -/
def Chip.aiTrigger (c : Chip) (k : Nat) (x : AiChan) (a : Nat) : Chip :=
  if c.is (AI_DETCFG_EN k) = false then c.setAi k { x with since := min (x.since + 1) 0xFFFF }
  else
    let v := match c.fld (AI_DETCFG_SEL k) with
      | 1 => x.r | 2 => x.e | _ => x.p
    let pulse (best : Nat) (c : Chip) : Chip := (c.setAi k { x with trig := .on, since := 0 }).detFire k false best
    match x.trig with
    | .off =>
      if c.fld (AI_DETTHR_ON k) * 256 ≤ v ∧ c.fld (AI_DETHOLD_HOLD k) ≤ x.since then
        let w := c.fld (AI_DETCFG_PKWIN k)
        if w = 0 then pulse a c else c.setAi k { x with trig := .window w a }
      else c.setAi k { x with since := min (x.since + 1) 0xFFFF }
    | .window left best =>
      let best := max best a
      if left ≤ 1 then pulse best c else c.setAi k { x with trig := .window (left - 1) best, since := min (x.since + 1) 0xFFFF }
    | .on =>
      let x := { x with since := min (x.since + 1) 0xFFFF }
      if v < c.fld (AI_DETTHR_OFF k) * 256 then (c.setAi k { x with trig := .off }).detFire k true 0 else c.setAi k x

/-- The first-order high-pass of audio mode at 2 Hz (R387): the value and the level it takes out, in units of 2⁻¹⁶ LSB. The level
moves toward the input by 2π × 2 ÷ Fd of the distance; its arithmetic is left open within 1 % of that step, and the value within
one step and 1 LSB. DESIGN CHOICE (assumption 20). -/
def highPass (ctr site fd : Nat) (dc y : Int) : Int × Int :=
  let step := (y * 65536 - dc) * 12566 / (1000 * fd : Nat)
  let out := y - dc / 65536 + freeDev ctr site (step.natAbs / 65536 + 1)
  (out, dc + step + freeDev ctr (site + 1) (step.natAbs / 100 + 1))

/-- Fd in Hz (R390). -/
def Chip.aiFd (c : Chip) (dec : Nat) : Nat := 8 * c.fsBase / 2 ^ dec

/-- The sketch value (R395): the mean of the modulator outputs taken since the reset, up to 1,024 of them, truncated; `mods` holds
their sums by Fd sample in Q1.23, newest first. -/
def sketchValue (dec : Nat) (mods : List Int) : Q :=
  satQ (mods.foldl (· + ·) 0 / (max 1 (mods.length * (16 * 2 ^ dec)) : Nat))

/-- The input value of a differential voltage in units of 10 nV, in units of Q1.23's last bit (R387): Vd ÷ (2√2 V) in audio mode and
Vd ÷ 10.24 V in CV mode, truncated toward 0. DESIGN CHOICE (assumption 20). -/
def aiScale (mode : Nat) (v : Int) : Int :=
  let x := if mode = 0 then sqrtNat (2 * (v.natAbs * 2 ^ 21) ^ 2) / 100000000 else v.natAbs * 2 ^ 23 / 1024000000
  if v < 0 then -(x : Int) else x

/-- A decimated value (R387, R388): it saturates where it lies outside Q1.23, and on its own side where the modulator is overdriven.
DESIGN CHOICE (assumption 20). -/
def decimated (mode : Nat) (ovl : Bool) (y : Word) : Q :=
  if ovl then satQ (if y.toInt < 0 then -8388608 else 8388607) else satQ (aiScale mode y.toInt)

/-- An Fd output (R387, R388, R390, R394 to R396, R404, R405, R408, R565): `y` is the active response's output and `yNew` the
standby's, as signed 32-bit differential voltages in units of 10 nV; `mods` the sum of the modulator outputs since the last output,
in the same units; `ovl` whether the input drives the modulator beyond its stable range. DESIGN CHOICE (assumption 20). -/
def Chip.decimOutput (c : Chip) (k : Nat) (y yNew mods : Word) (ovl : Bool) : Chip :=
  let x := c.aiOf k
  if x.running = false then c
  else if x.stopPend then
    let c := if x.trig = .on then c.detFire k true 0 else c
    (c.setAi k { x with running := false, stopPend := false, trig := .off, fading := false, fadeJ := 0 }).aiUnset k false false
  else
    let j := if x.fading then min (x.fadeJ + 1) 64 else 0
    let raw := if x.fading then
        (decimated x.mode ovl y).toInt * (64 - j : Nat) / 64 + (decimated x.mode ovl yNew).toInt * j / 64
      else (decimated x.mode ovl y).toInt
    let (w, dc) := if x.mode = 0 then highPass c.ctr (731000 + 2 * k) (c.aiFd x.dec) x.dc raw else (raw, x.dc)
    let v := satQ w
    let past (y : Word) : Bool := decide ((satQ (aiScale x.mode y.toInt)).toInt ≠ aiScale x.mode y.toInt)
    let clip := ovl || past y || (x.fading && past yNew) || decide (v.toInt ≠ w)
    let ms := (aiScale x.mode mods.toInt :: x.mods).take (1024 / (16 * 2 ^ x.dec))
    let sketch := sketchValue x.dec ms
    let x := { x with mods := ms, dc := dc }
    let unset := decide (0 < x.settle) || decide (0 < x.recover)
    let more := decide (0 < x.resLeft) && c.aiResamples k x.dec
    let sk := (decide (0 < x.settle) && c.is (AI_CFG_SKETCH k)) || decide (0 < x.recover)
    let out := if sk then sketch else v
    let flags : BitVec 8 := (if 0 < j then 0x10#8 else 0) ||| (if clip then 0x04#8 else 0) ||| (if sk then 0x02#8 else 0)
      ||| (if unset || more then 0x01#8 else 0)
    let z := { x with
      fadeJ := j, settle := x.settle - 1, recover := x.recover - 1
      resLeft := if unset then x.resLeft else x.resLeft - 1
      lastOut := out, flags := flags }
    let (z, a) := c.aiDetect k z v
    let c := c.aiTrigger k z a
    let c := if clip then c.aiFlag k AI_STAT_CLIP AI_CFG_IE_CLIP else c
    c.aiUnset k (unset || more) sk

/-- A delivered sample (R398, R400, R407): `y` is the resampler's output; without the resampler the sample is the last
decimator output. The engine reads it two samples later (R400), and reads 0 while the channel is delivered at Fd (R398). A
word appended between the disable and the stop carries LASTQ (R408). DEDUCED (assumption 113). -/
def Chip.aiDeliver (c : Chip) (k : Nat) (y : Q) : Chip :=
  let x := c.aiOf k
  let off := c.pwr.convOff
  let v := if off || !x.running then 0 else if c.aiResamples k x.dec then y else x.lastOut
  let cross := x.crossing ++ [v]
  let x := if c.is (AI_CFG_ORATE k) then { x with engine := 0, crossing := [] }
    else { x with engine := if 2 < cross.length then cross.headD 0 else x.engine
                  crossing := if 2 < cross.length then cross.drop 1 else cross }
  if x.running = false then c.setAi k x
  else
    let fl := if off then x.flags ||| 0x04 else x.flags
    let c := if off then c.aiFlag k AI_STAT_CLIP AI_CFG_IE_CLIP else c
    if 64 ≤ x.queue.length then
      ((c.setAi k x).bump (AI_STAT_DROP k)).aiFlag k AI_STAT_OVR AI_CFG_IE_OVR
    else c.setAi k { x with queue := x.queue ++ [(fl.setWidth 32 <<< 24) ||| v.setWidth 32]
                            drain := if x.stopPend then x.drain + 1 else x.drain }

/-- A read of AI_DATA (R407, R408): the oldest word, LASTQ on the words a disable left. -/
def Chip.aiDataRead (c : Chip) (k : Nat) : Word × Chip :=
  let x := c.aiOf k
  match x.queue with
  | [] => (0x80000000, c)
  | w :: r => (if 0 < x.drain then w ||| 0x08000000 else w, c.setAi k { x with queue := r, drain := x.drain - 1 })

/-- A failed residue check (R565): the outputs of the recovery are UNSETTLED, and with the resampler those that depend on them
(R394). -/
def Chip.decimFault (c : Chip) (k : Nat) : Chip :=
  let x := c.aiOf k
  if x.running = false then c
  else (c.setAi k { x with recover := aiSettle x.active x.dec, resLeft := 32 }).chipFault 0x44 (some k)

/-! ### Meanings -/

/-- AI_SYNC (R393). -/
def execAiSync (mask : BitVec 16) : State → Host.Outcome State Fault Refusal :=
  actFree fun c => c.aiSync (mask.setWidth 32)

/-- AI_ENABLE (R389): EN from 0 to 1. -/
def execAiEnable (k : Fin 16) : State → Host.Outcome State Fault Refusal :=
  actFree fun c => c.aiEnable k

/-- AI_DISABLE (R408). -/
def execAiDisable (k : Fin 16) : State → Host.Outcome State Fault Refusal :=
  act fun c => c.aiDisable k

/-- AI_RESP_WRITE (R396). -/
def execAiRespWrite (k : Fin 16) (resp : BitVec 3) : State → Host.Outcome State Fault Refusal :=
  act fun c => c.aiRespWrite k resp.toNat

/-- XFADE_END (R396). -/
def execXfadeEnd (k : Fin 16) : State → Host.Outcome State Fault Refusal :=
  act fun c => c.xfadeEnd k

/-- DECIM_OUTPUT (R390). -/
def execDecimOutput (k : Fin 16) (y yNew mods : Word) (ovl : Bool) : State → Host.Outcome State Fault Refusal :=
  actFree fun c => c.decimOutput k y yNew mods ovl

/-- AI_DELIVER (R407). -/
def execAiDeliver (k : Fin 16) (y : Q) : State → Host.Outcome State Fault Refusal :=
  act fun c => c.aiDeliver k y

/-- AI_DATA_READ (R407): the word is returned to the reader. -/
def execAiDataRead (k : Fin 16) : State → Host.Outcome State Fault Refusal :=
  act fun c => let (w, c) := c.aiDataRead k; { c with host := { c.host with words := [w] } }

/-- DECIM_FAULT (R565). -/
def execDecimFault (k : Fin 16) : State → Host.Outcome State Fault Refusal :=
  act fun c => c.decimFault k

/-- DETECTOR_EVENT (R286): a pulse or a release of channel c reaches the easel's queue. -/
def execDetectorEvent (k : Fin 16) (release : Bool) (peak : BitVec 16) : State → Host.Outcome State Fault Refusal :=
  actFree fun c => c.detPush k release peak (c.detSample k)

end Sys2Proof.Machine
end

