-- ==== Sys2Proof/Machine/Serial.lean ====
section
/-! DEFINITION. Serial audio ports (chapter "Serial audio ports", R416 to R435) with the tracking loop of R402. -/

namespace Sys2Proof.Machine

/-- A port. -/
def Chip.saOf (c : Chip) (p : Nat) : SaPort := tabGet c.sa {} p

/-- Store a port; SA_STAT.OCC reports its queue (R434). -/
def Chip.setSa (c : Chip) (p : Nat) (x : SaPort) : Chip :=
  { c with sa := tabSet c.sa {} p x }.setFld (SA_STAT_OCC p) x.queue.length

/-- Set a status flag of a port; source 68 + p rises when it sets (R432). -/
def Chip.saFlag (c : Chip) (p : Nat) (f : Nat → Field) : Chip :=
  if c.is (f p) then c else (c.set1 (f p)).raise (68 + p)

/-- LOCK, and source 64 + p on its change (R432). -/
def Chip.saLock (c : Chip) (p : Nat) (b : Bool) : Chip :=
  if c.is (SA_STAT_LOCK p) = b then c else (c.putB (SA_STAT_LOCK p) b).raise (64 + p)

/-- Does an input port share its output's clocks (R421)? -/
def Chip.saShared (c : Chip) (p : Nat) : Bool := decide (2 ≤ p) && c.is (SA_CFG_SHARE p)

/-- The port whose FMT, SLOTS, SW, RATE, role and loop port p uses (R421). -/
def Chip.saBase (c : Chip) (p : Nat) : Nat := if c.saShared p then p - 2 else p

/-- S of a port (R416). -/
def Chip.saSlots (c : Chip) (p : Nat) : Nat := 2 * 2 ^ c.fld (SA_CFG_SLOTS (c.saBase p))

/-- W of a port in bits (R416). -/
def Chip.saWidth (c : Chip) (p : Nat) : Nat := if c.is (SA_CFG_SW (c.saBase p)) then 32 else 16

/-- WL of a port in bits; 0 for the refused code (R418). -/
def Chip.saWl (c : Chip) (p : Nat) : Nat :=
  match c.fld (SA_CFG_WL p) with
  | 0 => 16 | 1 => 24 | 2 => 32 | _ => 0

/-- The frame rate in Hz; none for a refused code (R419). -/
def Chip.saRate (c : Chip) (p : Nat) : Option Nat :=
  [44100, 48000, 88200, 96000, 176400, 192000][c.fld (SA_CFG_RATE (c.saBase p))]?

/-- Is a port a slave (R419)? -/
def Chip.saSlave (c : Chip) (p : Nat) : Bool := c.is (SA_CFG_ROLE (c.saBase p))

/-- The checks of R420 on a configuration about to be enabled. -/
def Chip.saConfigOk (c : Chip) (p : Nat) : Bool :=
  let b := c.saBase p
  match c.saRate p with
  | none => false
  | some rate =>
    let s := c.saSlots p
    let w := c.saWidth p
    decide (c.fld (SA_CFG_FMT b) ≠ 3) && decide (c.saWl p ≠ 0)
      && (decide (c.fld (SA_CFG_FMT b) = 2) || decide (c.fld (SA_CFG_SLOTS b) = 0))
      && decide (c.saWl p ≤ w)
      && (if c.saSlave p then decide (rate * s * w ≤ 25000000)
          else decide (rate % c.fsBase = 0) && decide (rate / c.fsBase * s * w ≤ 512))

/-- The nominal ratio, frame rate ÷ Fs in Q4.28 (R419, R435). -/
def Chip.saNominal (c : Chip) (p : Nat) : Nat := ((c.saRate p).getD 0) * 2 ^ 28 / c.fs

/-- The engine has started in another mode, with another Fs: the ratios of running ports start from their new nominal ones
(R419, R435). DESIGN CHOICE (assumption 21). -/
def Chip.saRerate (c : Chip) : Chip :=
  c.forN 4 fun p c => if (c.saOf p).running then c.setReg (SA_RATIO p) (BitVec.ofNat 32 (c.saNominal p)) else c

/-- Does the resampler serve the port (R425, R426)? -/
def Chip.saResamples (c : Chip) (p : Nat) : Bool := c.saSlave p || decide (c.saRate p ≠ some c.fs)

/-- Does the port behave as a slave now? A shared input whose output is disabled is one whose clock has stopped (R421). -/
def Chip.saActsSlave (c : Chip) (p : Nat) : Bool := c.saSlave p || (c.saShared p && !(c.saOf (p - 2)).running)

/-- Does a running input share the clocks and the loop of output p (R421)? -/
def Chip.saSharer (c : Chip) (p : Nat) : Bool := decide (p < 2) && c.saShared (p + 2) && (c.saOf (p + 2)).running

/-- Enable a port (R420 to R422): refused with CFGREJ, or running. A slave output's queue starts with the 8 frames that its loop keeps
in it (R426). DESIGN CHOICE (assumption 21). -/
def Chip.saEnable (c : Chip) (p : Nat) : Chip :=
  if c.is (SA_CFG_EN p) then c
  else if c.saConfigOk p = false then
    (c.set1 (SA_STAT_CFGREJ p)).raise (68 + p)
  else
    let x := c.saOf p
    let c := (c.set1 (SA_CFG_EN p)).setSa p { host := x.host, drain := x.drain, running := true, refill := decide (2 ≤ p) && c.saSlave p,
                                              queue := if p < 2 ∧ c.saSlave p = true then List.replicate 8 (List.replicate (c.saSlots p) 0) else [],
                                              rise := if 2 ≤ p ∧ c.saSlave p = true then 0 else 64 }
    let c := c.setReg (SA_RATIO p) (BitVec.ofNat 32 (c.saNominal p))
    let c := c.saLock p (!c.saActsSlave p)
    if p < 2 ∧ c.saSlave p = false ∧ c.saSharer p = true then c.saLock (p + 2) true else c

/-- Port p as its fade of 64 samples starts (R430): an output owes 2 frames of zeros, and the words of an input's host queue carry
LASTQ from now on. DEDUCED (assumption 113). -/
def SaPort.fadeOut (x : SaPort) (p : Nat) : SaPort :=
  { x with fade := some 0, zeros := if p < 2 then 2 else 0, drain := x.host.length }

/-- Disable a port (R430). -/
def Chip.saDisable (c : Chip) (p : Nat) : Chip :=
  let x := c.saOf p
  let c := c.clr (SA_CFG_EN p)
  if x.running ∧ x.fade = none then c.setSa p (x.fadeOut p) else c

/-- The fade has ended and an output has sent its zeros: the pins are released (R430). -/
def Chip.saFadeEnd (c : Chip) (p : Nat) : Chip :=
  let x := c.saOf p
  match x.fade with
  | some j => if j < 64 ∨ 0 < x.zeros then c
    else (c.setSa p { x with running := false, fade := none, queue := [], due := [], vals := [], next := [], framed := false, sent := [], before := [],
                                  taps := [], lost := false, hold := false }).saLock p false
  | none => c

/-- An output word from a sink value (R418). -/
def saWord (wl : Nat) (x : Q) : Word :=
  if wl = 16 then ((x >>> 8).setWidth 16).setWidth 32 else if wl = 24 then x.setWidth 32 else x.setWidth 32 <<< 8

/-- A Q1.23 value from an input word (R418). -/
def saValue (wl : Nat) (w : Word) : Q :=
  if wl = 16 then (w.setWidth 24) <<< 8 else if wl = 24 then w.setWidth 24 else (w >>> 8).setWidth 24

/-- A linear gain j of 64 on a value, truncated (R429, R430). -/
def gain64 (x : Q) (j : Nat) : Q := satQ (x.toInt * j / 64)

/-- An output word in its slot: MSB first and left-aligned in the slot's W bits, the rest 0 (R416). -/
def Chip.saSlotWord (c : Chip) (p : Nat) (x : Q) : Word := saWord (c.saWl p) x <<< (c.saWidth p - c.saWl p)

/-- Does the port drive its bit clock and frame sync (R422)? A master does, from the first frame after its enable; the input that
shares its output's pins has none in use (R421). -/
def Chip.saDrives (c : Chip) (p : Nat) : Bool :=
  let x := c.saOf p
  x.running && x.framed && !c.saSlave p && !c.saShared p

/-- Does SAOk drive its data pin (R422)? -/
def Chip.saDataDriven (c : Chip) (p : Nat) : Bool := decide (p < 2) && (c.saOf p).running

/-- Does the port change frame sync and data on the rising edge of the bit clock, and sample them on the falling one (R417)? -/
def Chip.saEdgeRises (c : Chip) (p : Nat) : Bool := c.is (SA_CFG_EDGE (c.saBase p))

/-- Bit clocks from the frame-sync edge to the first bit of slot 0 (R416). -/
def Chip.saOffset (c : Chip) (p : Nat) : Nat :=
  match c.fld (SA_CFG_FMT (c.saBase p)) with
  | 0 => 1
  | 1 => 0
  | _ => c.fld (SA_CFG_DLY (c.saBase p))

/-- The frame-sync level t bit clocks after the edge that begins a frame (R416); how long TDM's pulse stays high is left open.
DESIGN CHOICE (assumption 21). -/
def Chip.saFsLevel (c : Chip) (p t : Nat) : Bool :=
  let b := c.saBase p
  let len := c.saSlots p * c.saWidth p
  let pulse := 1 + (Config.freeWord 0 (733000 + p)).toNat % (len - 1)
  let level := match c.fld (SA_CFG_FMT b) with
    | 0 => decide (c.saWidth p ≤ t % len)
    | 1 => decide (t % len < c.saWidth p)
    | _ => decide (t % len < pulse)
  level != c.is (SA_CFG_FSINV b)

/-- The bit that SAOk_D drives t bit clocks after the frame-sync edge of the last frame sent; before slot 0's first bit it is
the last of the frame before (R416). -/
def Chip.saDataBit (c : Chip) (p t : Nat) : Bool :=
  let w := c.saWidth p
  let bit (l : List Word) (i : Nat) : Bool := (l.getD (i / w) 0).getLsbD (w - 1 - i % w)
  if t < c.saOffset p then bit (c.saOf p).before (c.saSlots p * w - c.saOffset p + t)
  else bit (c.saOf p).sent (t - c.saOffset p)

/-- The value that an input takes from a slot of W bits: its word is left-aligned there, and the bits beyond it are ignored (R416,
R418). -/
def Chip.saSlotValue (c : Chip) (p : Nat) (slot : Word) : Q :=
  saValue (c.saWl p) ((slot &&& BitVec.ofNat 32 (2 ^ c.saWidth p - 1)) >>> (c.saWidth p - c.saWl p))

/-- Is slot j of output port p given a sink (R423)? -/
def Chip.saSinkOn (c : Chip) (p j : Nat) : Bool := (c.reg (CNV_SAMAP (4 * p + j / 4))).getLsbD (8 * (j % 4) + 7)

/-- The sink of slot j of output port p (R358, R423). -/
def Chip.saSink (c : Chip) (p j : Nat) : Q := c.sinkValue (CNV_SAMAP (4 * p + j / 4)) (j % 4)

/-- The resampler's taps after a source value for each of its slots: 32 of the lower rate, which are more of a faster source, `per`
source values to one of them (R399). DESIGN CHOICE (assumption 21). -/
def tapsAfter (taps : List (List Q)) (per : Nat) (vals : List Q) : List (List Q) := (vals :: taps).take (32 * max 1 per)

/-- The values of the resampler for the slots of a frame (R399, R425, R426): each of its own slot's taps. DESIGN CHOICE
(assumption 21). -/
def resampled (taps : List (List Q)) (phase n : Nat) : List Q :=
  (List.range n).map fun s => Config.resample (taps.map fun v => v.getD s 0) phase

/-- How many frames fall due in one engine sample at a ratio, and what is left over (R426). DESIGN CHOICE (assumption 21). -/
def framesDue (acc ratio : Nat) : Nat × Nat := ((acc + ratio) / 2 ^ 28, (acc + ratio) % 2 ^ 28)

/-- One engine sample of an output port (R20, R423, R425 to R427, R430): the values formed at this boundary go out from the next one
on, and a slot with no sink sends 0. -/
def Chip.saOutSample (c : Chip) (p : Nat) : Chip :=
  let x := c.saOf p
  if x.running = false then c
  else
    let n := c.saSlots p
    let j := match x.fade with
      | some j => min (j + 1) 65
      | none => 0
    let vals := ((List.range n).map (c.saSink p)).map fun v =>
      if x.fade.isSome && !c.saResamples p then gain64 v (64 - j) else v
    let x := { x with fade := x.fade.map fun _ => j, vals := x.next, next := vals }
    if c.saResamples p = false then c.setSa p x
    else
      let ratio := (c.reg (SA_RATIO (c.saBase p))).toNat
      let (k, acc) := framesDue x.acc ratio
      let taps := tapsAfter x.taps (ceilDiv c.fs (max 1 ((c.saRate p).getD 0))) x.vals
      let frame (i : Nat) : List Q := (resampled taps (((i + 1) * 2 ^ 28 - x.acc) * 2 ^ 28 / max 1 ratio) n).mapIdx fun s v =>
        if c.saSinkOn p s = false then 0 else if x.fade.isSome then gain64 v (64 - j) else v
      let q := x.queue ++ (List.range k).map frame
      let c := if 32 < q.length then c.saFlag p SA_STAT_OVW else c
      c.setSa p { x with acc := acc, taps := taps, queue := q.drop (q.length - 32) }

/-- The resumption of an input queue (R429): it refills to 8 frames, and the gain then rises. -/
def saRefill (x : SaPort) : SaPort := if x.refill && decide (8 ≤ x.queue.length) then { x with refill := false } else x

/-- One engine sample of an input port (R421, R425, R426, R428 to R431): the value it delivers for the next sample and its host-queue
words. A sample whose taps need a frame that is not present takes none. DEDUCED (assumption 113). -/
def Chip.saInSample (c : Chip) (p : Nat) : Chip :=
  let x := c.saOf p
  if x.running = false then c
  else
    let n := c.saSlots p
    let per := ceilDiv ((c.saRate p).getD 0) (max 1 c.fs)
    let (k, acc) := framesDue x.acc (c.reg (SA_RATIO (c.saBase p))).toNat
    let (x, vals, under) :=
      if c.saActsSlave p = false then
        let now := x.due.filter fun d => decide (d.1 ≤ c.clk.smp + 1)
        let x := { x with due := x.due.filter fun d => decide (c.clk.smp + 1 < d.1), acc := acc
                          taps := now.foldl (fun l d => tapsAfter l per d.2) x.taps }
        (x, if c.saResamples p then resampled x.taps acc n else match now.getLast? with
          | some d => d.2
          | none => x.vals, false)
      else
        let x := saRefill x
        if x.refill ∨ x.queue.length < k then (x, List.replicate n 0, true)
        else
          let taps := (x.queue.take k).foldl (fun l v => tapsAfter l per v) x.taps
          let v := resampled taps acc n
          ({ x with queue := x.queue.drop k, acc := acc, taps := taps, rise := min (x.rise + 1) 64 },
           if x.rise < 64 then v.map fun q => gain64 q (x.rise + 1) else v, false)
    let (x, vals) := match x.fade with
      | some j => ({ x with fade := some (min (j + 1) 64) }, x.vals.map fun q => gain64 q (63 - min j 63))
      | none => (x, vals)
    let x := if x.fade.isSome then x else { x with vals := vals }
    let c := if under then c.saFlag p SA_STAT_UNDER else c
    let lock := c.is (SA_STAT_LOCK (c.saBase p))
    let mask := c.fld (SA_HCFG_MASK (p - 2))
    let words := ((List.range 16).filter fun j => (mask / 2 ^ j) % 2 = 1).map fun j =>
      (if lock then 0#32 else 0x20000000#32) ||| (if under then 0x10000000#32 else 0)
        ||| (BitVec.ofNat 32 j <<< 24) ||| (vals.getD j 0).setWidth 32
    let room := 64 - x.host.length
    let c := if room < words.length then c.saFlag p SA_STAT_HQOVR else c
    let words := words.take room
    c.setSa p { x with host := x.host ++ words, under := under
                       drain := if x.fade.isSome then x.drain + words.length else x.drain }

/-- The port samples of one engine sample (R424, R431). -/
def Chip.saSample (c : Chip) : Chip := (((c.saOutSample 0).saOutSample 1).saInSample 2).saInSample 3

/-- The value that slot j of an input port delivers: in its disable fade its last one, fading to 0 (R430). -/
def SaPort.delivers (x : SaPort) (j : Nat) : Q :=
  let v := x.vals.getD j 0
  match x.fade with
  | some n => gain64 v (64 - n)
  | none => v

/-- What slot j of input q reads as in a bus block (R424, R344): 0 beyond S or while the port is disabled. -/
def Chip.saEngine (c : Chip) (q j : Nat) : Q :=
  let x := c.saOf (2 + q)
  if x.running then x.delivers j else 0

/-- The frames after which a loop that is locked to a constant master is settled: 4 ÷ BW seconds (R402, R403, R433).
DESIGN CHOICE (assumption 21). -/
def Chip.saSettle (c : Chip) (p : Nat) : Nat :=
  let rate := (c.saRate p).getD 0
  match c.fld (SA_CFG_BW p) with
  | 0 => 8 * rate
  | 1 => 2 * rate
  | _ => rate / 2

/-- The tracking loop at a frame edge with a phase error in cycles and the master's own rate ÷ Fs (R402, R403): the ratio is steered
within the pull range by a loop of the second order whose gains the spec does not give; once a locked loop has settled on a master
within the pull range that is constant, or drifts by no more than its last bit in a frame, it errs by at most 10⁻⁹. A frame that
loses lock leaves the ratio, and after a timeout it holds until lock (R429). DESIGN CHOICE (assumption 21).
DESIGN CHOICE (assumption 20). -/
def Chip.saTrack (c : Chip) (p : Nat) (err : BitVec 16) (master : Word) : Chip :=
  let x := c.saOf p
  let e := err.toInt.natAbs
  let good := if e ≤ 8 then min (x.good + 1) 16 else 0
  let nom := c.saNominal p
  let pull := nom * 2000 / 1000000
  let locked := c.is (SA_STAT_LOCK p)
  let bw := c.fld (SA_CFG_BW p)
  let near := decide (((master.toNat : Int) - x.master.toNat).natAbs ≤ 1)
  let steady := if locked ∧ near ∧ e ≤ 256 then x.steady + 1 else 0
  let integ := Config.loopInteg bw err.toInt x.integ
  let settled := decide (c.saSettle p ≤ steady) && decide (nom - pull ≤ master.toNat ∧ master.toNat ≤ nom + pull)
  let ratio := if settled then ((master.toNat : Int) + freeDev c.ctr (780000 + p) (master.toNat / 1000000000)).toNat
    else (clampInt ((nom : Int) - pull) (nom + pull : Nat) (Config.loopRatio bw err.toInt integ)).toNat
  let held := (256 < e ∧ locked = true) ∨ (x.hold = true ∧ good < 16)
  let c := if held then c else c.setReg (SA_RATIO p) (BitVec.ofNat 32 ratio)
  let c := (c.setFld (SA_PHERR_ERR p) err.toNat).setSa p
    { x with good := good, master := master, steady := steady, integ := integ, hold := x.hold && decide (good < 16) }
  if 256 < e then c.saLock p false else if good = 16 then c.saLock p true else c

/-- An input that shares its output's loop reports its ratio, error and lock (R421). -/
def Chip.saMirror (c : Chip) (p : Nat) : Chip :=
  ((c.setReg (SA_RATIO p) (c.reg (SA_RATIO (p - 2)))).setReg (SA_PHERR p) (c.reg (SA_PHERR (p - 2)))).saLock p
    (c.is (SA_STAT_LOCK (p - 2)))

/-- Frames resume after a loss of lock by timeout (R429). -/
def saResume (p : Nat) (x : SaPort) : SaPort :=
  if x.lost = false then x
  else if p < 2 then { x with lost := false, queue := x.queue.drop (x.queue.length - 8) }
  else { x with lost := false, refill := true, rise := 0 }

/-- One frame at a port (R416 to R418, R421, R422, R425, R426, R429, R430): an output sends, an input takes `words`. An input
that shares the clocks of a disabled output has no frame. -/
def Chip.saFrame (c : Chip) (p : Nat) (words : List Word) (err : BitVec 16) (master : Word) : Chip :=
  let x := { saResume p (c.saOf p) with framed := true }
  if x.running = false ∨ (c.saShared p = true ∧ (c.saOf (p - 2)).running = false) then c
  else
    let n := c.saSlots p
    let c := c.setSa p x
    let c := if c.saSlave p && !c.saShared p then c.saTrack p err master else c
    let c := if c.saSlave p && c.saSharer p then c.saMirror (p + 2) else c
    let c := if c.saShared p && c.saSlave p then c.saMirror p else c
    let x := c.saOf p
    if p < 2 then
      let done := decide (x.fade = some 65)
      let (frame, q) := if c.saResamples p then (x.queue.headD (List.replicate n 0), x.queue.drop 1) else (x.vals, x.queue)
      let frame := if done then List.replicate n 0 else frame
      c.setSa p { x with sent := frame.map (c.saSlotWord p), before := x.sent, queue := q, zeros := if done then x.zeros - 1 else x.zeros }
    else
      let vals := (List.range n).map fun j => c.saSlotValue p (words.getD j 0)
      if c.saSlave p then c.setSa p { x with queue := (x.queue ++ [vals]).drop (x.queue.length + 1 - 32) }
      else c.setSa p { x with due := x.due ++ [(c.clk.smp + 2, vals)] }

/-- A port loses its frames (R402, R429): lock is lost and the ratio held. DESIGN CHOICE (assumption 21). -/
def Chip.saLost (c : Chip) (p : Nat) : Chip :=
  let x := c.saOf p
  if x.running && c.saActsSlave p then (c.setSa p { x with lost := true, hold := true, good := 0, steady := 0 }).saLock p false
  else c

/-- No frame within two periods (R402, R429): the ports that share one loop lose their frames together (R421).
DESIGN CHOICE (assumption 21). -/
def Chip.saTimeout (c : Chip) (p : Nat) : Chip :=
  let c := c.saLost p
  if c.saSharer p then c.saLost (p + 2)
  else if c.saShared p && (c.saOf (p - 2)).running then c.saLost (p - 2) else c

/-- A read of SA_DATA (R430, R431): the oldest word; EMPTY when there is none; LASTQ on the words of a disable. -/
def Chip.saDataRead (c : Chip) (q : Nat) : Word × Chip :=
  let x := c.saOf (2 + q)
  match x.host with
  | [] => (0x80000000, c)
  | w :: r => (if 0 < x.drain then w ||| 0x40000000 else w, c.setSa (2 + q) { x with host := r, drain := x.drain - 1 })

/-- A write of SA_CFG (R420): while EN = 1 a change of another field is refused. -/
def Chip.saCfgWrite (c : Chip) (p : Nat) (v : Word) : Chip :=
  let old := c.reg (SA_CFG p)
  let rw : Word := 0x000FFFF2
  if c.is (SA_CFG_EN p) then
    if (old ^^^ v) &&& rw ≠ 0 then (c.set1 (SA_STAT_CFGREJ p)).raise (68 + p)
    else if v.getLsbD 0 then c else c.saDisable p
  else
    let c := c.setReg (SA_CFG p) (v &&& rw)
    if v.getLsbD 0 then c.saEnable p else c

/-! ### Meanings -/

/-- SA_ENABLE (R420). -/
def execSaEnable (p : Fin 4) : State → Host.Outcome State Fault Refusal :=
  act fun c => c.saEnable p

/-- SA_DISABLE (R430). -/
def execSaDisable (p : Fin 4) : State → Host.Outcome State Fault Refusal :=
  act fun c => c.saDisable p

/-- SA_FADE_END (R430). -/
def execSaFadeEnd (p : Fin 4) : State → Host.Outcome State Fault Refusal :=
  act fun c => c.saFadeEnd p

/-- SA_FRAME (R426). -/
def execSaFrame (p : Fin 4) (words : List Word) (k : FrameClock) : State → Host.Outcome State Fault Refusal :=
  actFree fun c => c.saFrame p words k.err k.master

/-- SA_LOOP_TIMEOUT (R402). -/
def execSaLoopTimeout (p : Fin 4) : State → Host.Outcome State Fault Refusal :=
  act fun c => c.saTimeout p

/-- SA_DATA_READ (R431): the word is returned to the reader. -/
def execSaDataRead (q : Fin 2) : State → Host.Outcome State Fault Refusal :=
  act fun c => let (w, c) := c.saDataRead q; { c with host := { c.host with words := [w] } }

end Sys2Proof.Machine
end

