-- ==== Sys2Proof/Machine/Timers.lean ====
section
/-! DEFINITION. Timers, trigger lines and the tempo clock (chapter "Timers and trigger lines", R485 to R502). -/

namespace Sys2Proof.Machine

/-- A timer. -/
def Chip.tmrOf (c : Chip) (n : Nat) : TimerSt := tabGet c.tmr {} n

/-- Store a timer. -/
def Chip.setTmr (c : Chip) (n : Nat) (x : TimerSt) : Chip := { c with tmr := tabSet c.tmr {} n x }

/-- A driver raises a pulse on a line: it reaches the line's consumers in the next cycle, with every other driver's (R485). -/
def Chip.trigRaise (c : Chip) (l : Nat) : Chip := { c with trg := if l ∈ c.trg then c.trg else c.trg ++ [l] }

/-- Raise the lines a mask names (R485). -/
def Chip.trigMask (c : Chip) (mask : Word) : Chip :=
  c.forN 32 fun l c => if mask.getLsbD l then c.trigRaise l else c

/-- Set a status flag of timer n; source 80 + n rises when bit `ie` of IE is 1 (R500, R501). -/
def Chip.tmrFlag (c : Chip) (n : Nat) (f : Nat → Field) (ie : Nat) : Chip :=
  (c.set1 (f n)).raiseIf (decide ((c.fld (TMRn_CTL_IE n) / 2 ^ ie) % 2 = 1)) (80 + n)

/-- Pulse the output line when OSEL names the event (R492). -/
def Chip.tmrOut (c : Chip) (n osel : Nat) : Chip :=
  if c.is (TMRn_IO_OEN n) && decide (c.fld (TMRn_IO_OSEL n) = osel) then c.trigRaise (c.fld (TMRn_IO_OTRG n)) else c

/-- A match of CMP0 (R489, R492). -/
def Chip.tmrMatch0 (c : Chip) (n : Nat) : Chip :=
  let c := (c.tmrFlag n TMRn_STAT_M0 1).tmrOut n 1
  if c.fld (TMRn_IO_GPMODE n) = 2 then c.setTmr n { c.tmrOf n with gp := true } else c

/-- The outputs of a match of CMP1 (R490 to R492). -/
def Chip.tmrMatch1 (c : Chip) (n : Nat) : Chip :=
  let c := (c.tmrFlag n TMRn_STAT_M1 2).tmrOut n 2
  let x := c.tmrOf n
  match c.fld (TMRn_IO_GPMODE n) with
  | 1 => c.setTmr n { x with gp := !x.gp }
  | 2 => c.setTmr n { x with gp := false }
  | _ => c

/-- The compares after the counter has come to a value it did not hold (R489, R490). DEDUCED (assumption 57). -/
def Chip.tmrCompare (c : Chip) (n : Nat) : Chip :=
  let v := c.reg (TMRn_CNT n)
  let c := if v = c.reg (TMRn_CMP0 n) then c.tmrMatch0 n else c
  let m := c.reg (TMRn_CMP1 n)
  if v = m then
    let c := c.tmrMatch1 n
    if c.is (TMRn_CFG_PEREN n) then
      (c.setTmr n { c.tmrOf n with base := m }).setReg (TMRn_CMP1 n) (m + c.reg (TMRn_PER n))
    else c
  else c

/-- One tick (R486), chained into the following timers by their clock 5; `fuel` bounds the chain. -/
def Chip.tmrTick (c : Chip) : Nat → Nat → Chip
  | 0, _ => c
  | fuel + 1, n =>
    if c.is (TMRn_CTL_RUN n) = false then c
    else
      let v := c.reg (TMRn_CNT n)
      let c := (c.setReg (TMRn_CNT n) (v + 1))
      let c := if v = 0xFFFFFFFF then
          let c := (c.tmrFlag n TMRn_STAT_OVF 0).tmrOut n 0
          if n < 15 ∧ c.fld (TMRn_CFG_CLK (n + 1)) = 5 then Chip.tmrTick c fuel (n + 1) else c
        else c
      c.tmrCompare n

/-- A reset of the counter, and of the repeating base (R487). -/
def Chip.tmrReset (c : Chip) (n : Nat) : Chip :=
  let v := c.reg (TMRn_CNT n)
  let c := c.setReg (TMRn_CNT n) 0
  let c := if c.is (TMRn_CFG_PEREN n) then
      (c.setTmr n { c.tmrOf n with base := 0 }).setReg (TMRn_CMP1 n) (c.reg (TMRn_PER n))
    else c
  if v = 0 then c else c.tmrCompare n

/-- A write of CNT (R488, R489). -/
def Chip.tmrCntWrite (c : Chip) (n : Nat) (v : Word) : Chip :=
  let old := c.reg (TMRn_CNT n)
  let c := c.setReg (TMRn_CNT n) v
  if v = old then c else c.tmrCompare n

/-- The smallest k ≥ 1 with base + k × PER ahead of a counter that lies −d at or past base + PER (R491).
DESIGN CHOICE (assumption 80). -/
def lateK (behind per : Nat) : Nat :=
  if per < 2 ^ 31 then 2 + behind / per
  else
    let x := if behind = 0 then 2 ^ 32 else 2 ^ 32 - behind
    1 + ceilDiv (x - (2 ^ 31 - 1)) (2 ^ 32 - per)

/-- The late match after a write of CMP1 or PER with PEREN = 1 (R491). Where no k gives a compare ahead of the counter, the spec
states none, and k is free. DESIGN CHOICE (assumption 80). -/
def Chip.tmrLate (c : Chip) (n : Nat) : Chip :=
  let per := c.reg (TMRn_PER n)
  let d := timeDiff (c.reg (TMRn_CMP1 n)) (c.reg (TMRn_CNT n))
  if 0 < d ∨ per = 0 then c
  else
    let c := (c.tmrMatch1 n).tmrFlag n TMRn_STAT_LATE 5
    let k := if per = 0x80000000 ∧ (d = 0 ∨ d = -2 ^ 31) then 1 + (Config.freeInt c.ctr (792000 + n)).toNat
      else lateK (-d).toNat per.toNat
    let base := (c.tmrOf n).base
    (c.setTmr n { c.tmrOf n with base := base + BitVec.ofNat 32 (k - 1) * per }).setReg (TMRn_CMP1 n)
      (base + BitVec.ofNat 32 k * per)

/-- A write of CMP1 (R490, R491). -/
def Chip.tmrCmp1Write (c : Chip) (n : Nat) (v : Word) : Chip :=
  let c := c.setReg (TMRn_CMP1 n) v
  if c.is (TMRn_CFG_PEREN n) then (c.setTmr n { c.tmrOf n with base := v - c.reg (TMRn_PER n) }).tmrLate n else c

/-- A write of PER (R490, R491). -/
def Chip.tmrPerWrite (c : Chip) (n : Nat) (v : Word) : Chip :=
  let c := c.setReg (TMRn_PER n) v
  if c.is (TMRn_CFG_PEREN n) then (c.setReg (TMRn_CMP1 n) ((c.tmrOf n).base + v)).tmrLate n else c

/-- A capture (R493). -/
def Chip.tmrCapture (c : Chip) (n : Nat) : Chip :=
  let c := if c.is (TMRn_STAT_CAP_NEW n) then c.tmrFlag n TMRn_STAT_CAP_OVR 4 else c
  let c := c.setReg (TMRn_CAP n) (c.reg (TMRn_CNT n))
  (c.tmrFlag n TMRn_STAT_CAP_NEW 3).tmrOut n 3

/-- Latch a value into a master's TMRn_HI shadow (R495). -/
def Chip.tmrLatch (c : Chip) (n : Nat) (dma : Bool) (v : Word) : Chip :=
  if 15 ≤ n then c
  else
    let x := c.tmrOf n
    c.setTmr n (if dma then { x with hiDma := v } else { x with hiHost := v })

/-- A read of TMRn_CAP (R493, R495). -/
def Chip.tmrCapRead (c : Chip) (n : Nat) (dma : Bool) : Word × Chip :=
  let v := c.reg (TMRn_CAP n)
  let c := c.clr (TMRn_STAT_CAP_NEW n)
  if n < 15 then (v, (c.tmrLatch n dma (c.reg (TMRn_CAP (n + 1)))).clr (TMRn_STAT_CAP_NEW (n + 1))) else (v, c)

/-- A read of TMRn_CNT (R495). DEDUCED (assumption 82). -/
def Chip.tmrCntRead (c : Chip) (n : Nat) (dma : Bool) : Word × Chip :=
  (c.reg (TMRn_CNT n), if n < 15 then c.tmrLatch n dma (c.reg (TMRn_CNT (n + 1))) else c)

/-- The slave mode of a pulse on STRG (R487). DESIGN CHOICE (assumption 81). -/
def Chip.tmrSlave (c : Chip) (n : Nat) : Chip :=
  match c.fld (TMRn_CFG_SMODE n) with
  | 1 => c.tmrReset n
  | 2 => c.set1 (TMRn_CTL_RUN n)
  | 3 => (c.tmrReset n).set1 (TMRn_CTL_RUN n)
  | 4 => c.clr (TMRn_CTL_RUN n)
  | 5 => c.putB (TMRn_CTL_RUN n) (!c.is (TMRn_CTL_RUN n))
  | _ => c

/-- Does a pulse on line l capture timer n (R493)? -/
def Chip.tmrCapsOn (c : Chip) (l n : Nat) : Bool :=
  decide (c.fld (TMRn_IO_CAPSRC n) = 1) && decide (c.fld (TMRn_IO_CAPTRG n) = l)

/-- A pulse as the clock and the slave control of one timer (R486, R487); where the line is both, the order is free.
DESIGN CHOICE (assumption 81). -/
def Chip.tmrPulse (c : Chip) (l n : Nat) : Chip :=
  let tick := decide (c.fld (TMRn_CFG_CLK n) = 3) && decide (c.fld (TMRn_CFG_CTRG n) = l)
  let slave := decide (c.fld (TMRn_CFG_STRG n) = l)
  let doTick (c : Chip) : Chip := if tick then c.tmrTick 16 n else c
  let doSlave (c : Chip) : Chip := if slave then c.tmrSlave n else c
  if Config.freeBool c.ctr (790001 + 2 * n) then doTick (doSlave c) else doSlave (doTick c)

/-- The captures of one event in one cycle beside what else the event does to the counters: before all of it or after all of
it, which is free, so that chained timers are captured together (R486, R495). DESIGN CHOICE (assumption 81). -/
def Chip.tmrAround (c : Chip) (cap : Nat → Bool) (site : Nat) (f : Chip → Chip) : Chip :=
  let caps (c : Chip) : Chip := c.forN 16 fun n c => if cap n then c.tmrCapture n else c
  if Config.freeBool c.ctr site then f (caps c) else caps (f c)

/-- A pulse at one DMA channel (R470): it is held until a burst takes it; a second is lost. -/
def Chip.dmaPulse (c : Chip) (l n : Nat) : Chip :=
  if c.fld (DMAn_CFG_REQ n) = 32 + l ∧ c.fld (DMAn_STAT_STATE n) = 1 then
    let x : DmaChan := tabGet c.dma {} n
    if x.pulse then c.set1 (DMAn_STAT_TMISS n) else { c with dma := tabSet c.dma {} n { x with pulse := true } }
  else c

/-- The pulse on line l leaves the lines that wait: those of one cycle, once the first of them has gone, wait apart from the
ones raised after them (R485). -/
def Chip.trigTake (c : Chip) (l : Nat) : Chip :=
  let c : Chip := if c.trgNow = [] then { c with trgNow := c.trg, trg := [] } else c
  { c with trgNow := c.trgNow.filter fun x => decide (x ≠ l) }

/-- A pulse on line l reaches its consumers and sets TRGSEEN (R485). -/
def Chip.trigPulse (c : Chip) (l : Nat) : Chip :=
  let c := c.trigTake l
  let c := c.setReg TMR_TRGSEEN (c.reg TMR_TRGSEEN ||| (1#32 <<< l))
  let c := c.tmrAround (fun n => c.tmrCapsOn l n) 790000 fun c => c.forN 16 fun n c => c.tmrPulse l n
  c.forN 16 fun n c => c.dmaPulse l n

/-- Does timer n watch an edge of a GP pin (R486, R493)? -/
def Chip.tmrSees (c : Chip) (pin : Nat) (rising : Bool) (n : Nat) : Bool :=
  decide (c.fld (TMRn_IO_IPIN n) = pin) && (c.is (TMRn_IO_IEDGE n) == !rising)

/-- An edge of a GP pin at the timers (R486, R493). -/
def Chip.gpTimers (c : Chip) (pin : Nat) (rising : Bool) : Chip :=
  c.tmrAround (fun n => c.tmrSees pin rising n && decide (c.fld (TMRn_IO_CAPSRC n) = 2)) 791000 fun c =>
    c.forN 16 fun n c => if c.tmrSees pin rising n ∧ c.fld (TMRn_CFG_CLK n) = 4 then c.tmrTick 16 n else c

/-- A new engine sample ticks the timers that count samples, in its cycle 0 (R486). -/
def Chip.smpTimers (c : Chip) : Chip := c.forN 16 fun n c => if c.fld (TMRn_CFG_CLK n) = 2 then c.tmrTick 16 n else c

/-- A frame edge of the frame sync (R36): the selected edge of the selected pin while EN = 1. FRAMES of them make a group edge; those
counted in a group stay counted over a timeout and a rewrite of PIN, EDGE or FRAMES. DESIGN CHOICE (assumption 110). -/
def Chip.fsFrameEdge (c : Chip) (pin : Nat) (rising : Bool) : Chip :=
  if c.is CLK_FSYNC_EN && decide (c.fld CLK_FSYNC_PIN = pin) && (rising != c.is CLK_FSYNC_EDGE) then
    if max 1 (c.fld CLK_FSRATIO_FRAMES) ≤ c.clk.fsFrames + 1 then c.updClk fun k => { k with fsFrames := 0, fsDue := true }
    else c.updClk fun k => { k with fsFrames := k.fsFrames + 1 }
  else c

/-! ### The tempo clock -/

/-- The external source of the tempo clock: 0 internal, 1–4 MI0–MI3 (R502). -/
def Chip.tempoSrc (c : Chip) : Nat := if 5 ≤ c.fld TMR_TCFG_SRC then 0 else c.fld TMR_TCFG_SRC

/-- Send a realtime byte to the outputs with CLOCK = 1 (R287, R499). -/
def Chip.clockOut (c : Chip) (b : Byte) : Chip :=
  c.forN 2 fun o c =>
    if c.is (EZ_MO_CLOCK o) && c.is (EZ_MO_EN o) then
      let x : MidiOut := tabGet c.ez.outs {} o
      c.updEz fun z => { z with outs := tabSet z.outs {} o { x with clock := x.clock ++ [b] } }
    else c

/-- A beat at the part LFOs locked to it (R246). DEDUCED (assumption 96). -/
def Chip.partBeat (c : Chip) (beats : Nat) : Chip :=
  c.forN 63 fun i c =>
    let p := i + 1
    let x := c.part p
    if x.exists_ = false then c
    else
      let step (t : Tab PartLfo) (q : Nat) : Tab PartLfo :=
        let mode := tabGet x.front 0 (56 + q)
        tabSet t {} q (partLfoBeat mode (tabGet x.front 0 (fieldOf mode 16 6)) beats (tabGet t {} q))
      c.updPart p fun x => { x with lfos := (List.range 4).foldl step x.lfos }

/-- A tempo tick (R496 to R499): TPOS advances, KTRG pulses, a beat pulses BTRG and takes a new length. -/
def Chip.tempoTick (c : Chip) : Chip :=
  let t := (c.reg TMR_TPOS).toNat
  let c := if c.is TMR_TCFG_KEN then c.trigRaise (c.fld TMR_TCFG_KTRG) else c
  let c := if t % 24 = 0 then
      let c := if c.is TMR_TCFG_BEN then c.trigRaise (c.fld TMR_TCFG_BTRG) else c
      let c := if c.tempoSrc = 0 then { c with tempo := { c.tempo with len := max (c.fld TMR_TBEAT_LEN) 24 } }
        else match c.tempo.lastBeat with
          | some s =>
            let n := max 24 (min (c.clk.smp - s) 16777215)
            { c with tempo := { c.tempo with len := n } }.setFld TMR_TBEAT_LEN n
          | none => c
      { c with tempo := { c.tempo with lastBeat := some c.clk.smp } }.partBeat (t / 24)
    else c
  let c := if t % 24 = 23 then { c with tempo := { c.tempo with beatAt := c.tempo.beatAt + c.tempo.len } } else c
  (c.setReg TMR_TPOS (BitVec.ofNat 32 (t + 1))).clockOut 0xF8

/-- The sample in which the internal clock's next tick falls (R497). -/
def Chip.tempoDue (c : Chip) : Int :=
  c.tempo.beatAt + (((c.reg TMR_TPOS).toNat % 24) * c.tempo.len / 24 : Nat)

/-- START, STOP and CONT of the internal clock (R497, R499). -/
def Chip.tempoStart (c : Chip) : Chip :=
  if c.tempoSrc ≠ 0 then c
  else
    let c := (c.setReg TMR_TPOS 0).set1 TMR_TBEAT_RUN
    { c with tempo := { c.tempo with beatAt := c.clk.smp + 1 } }.clockOut 0xFA

/-- STOP halts the ticks and keeps TPOS (R497, R499). -/
def Chip.tempoStop (c : Chip) : Chip := if c.tempoSrc ≠ 0 then c else (c.clr TMR_TBEAT_RUN).clockOut 0xFC

/-- CONT runs the clock from TPOS (R497, R499). -/
def Chip.tempoCont (c : Chip) : Chip :=
  if c.tempoSrc ≠ 0 then c
  else
    let c := c.set1 TMR_TBEAT_RUN
    let k := (c.reg TMR_TPOS).toNat % 24
    { c with tempo := { c.tempo with beatAt := (c.clk.smp : Int) + 1 - (k * c.tempo.len / 24 : Nat) } }.clockOut 0xFB

/-- A realtime or song-position message of the external source (R498, R499). -/
def Chip.tempoExternal (c : Chip) (port status spp : Nat) : Chip :=
  if c.tempoSrc ≠ port + 1 then c
  else match status with
    | 0xFA =>
      let c := (c.setReg TMR_TPOS 0).set1 TMR_TBEAT_RUN
      { c with tempo := { c.tempo with lastBeat := none } }.clockOut 0xFA
    | 0xFB => (c.set1 TMR_TBEAT_RUN).clockOut 0xFB
    | 0xFC => (c.clr TMR_TBEAT_RUN).clockOut 0xFC
    | 0xF2 => c.setReg TMR_TPOS (BitVec.ofNat 32 (spp * 6))
    | 0xF8 => if c.is TMR_TBEAT_RUN then c.tempoTick else c
    | _ => c

/-! ### Meanings -/

/-- TRIGGER_PULSE (R485). -/
def execTriggerPulse (l : Fin 32) : State → Host.Outcome State Fault Refusal :=
  actFree fun c => c.trigPulse l

/-- TRGSW_WRITE (R485). -/
def execTrgswWrite (mask : Word) : State → Host.Outcome State Fault Refusal :=
  act fun c => c.trigMask mask

/-- GP_EDGE (R34): a pin's level as its synchroniser delivers it. -/
def execGpEdge (pin : Fin 8) (level : Bool) : State → Host.Outcome State Fault Refusal :=
  actFree fun c =>
    if c.gpIn.getLsbD pin = level then c
    else
      let bit : BitVec 8 := 1#8 <<< pin.val
      ({ c with gpIn := if level then c.gpIn ||| bit else c.gpIn &&& ~~~bit }.gpTimers pin level).fsFrameEdge pin level

/-- TIMER_TICK (R486): PRE + 1 block-clock cycles have passed for a timer that counts them. Every other clock ticks with its
own event: the sample's boundary, the trigger pulse, the pin's edge, the overflow below. -/
def execTimerTick (n : Fin 16) : State → Host.Outcome State Fault Refusal :=
  act fun c => if c.fld (TMRn_CFG_CLK n) = 1 then c.tmrTick 16 n else c

/-- TIMER_RESET (R487). -/
def execTimerReset (n : Fin 16) : State → Host.Outcome State Fault Refusal :=
  act fun c => c.tmrReset n

/-- TIMER_CNT_WRITE (R488). -/
def execTimerCntWrite (n : Fin 16) (v : Word) : State → Host.Outcome State Fault Refusal :=
  act fun c => c.tmrCntWrite n v

/-- TIMER_CMP1_WRITE (R490). -/
def execTimerCmp1Write (n : Fin 16) (v : Word) : State → Host.Outcome State Fault Refusal :=
  actFree fun c => c.tmrCmp1Write n v

/-- TIMER_PER_WRITE (R491). -/
def execTimerPerWrite (n : Fin 16) (v : Word) : State → Host.Outcome State Fault Refusal :=
  actFree fun c => c.tmrPerWrite n v

/-- TIMER_CAPTURE (R493): an event of the source that CAPSRC names; with none there is no capture. -/
def execTimerCapture (n : Fin 16) : State → Host.Outcome State Fault Refusal :=
  act fun c => if c.fld (TMRn_IO_CAPSRC n) = 1 ∨ c.fld (TMRn_IO_CAPSRC n) = 2 then c.tmrCapture n else c

/-- A word read goes to its reader: the host's stands in the host port. DEDUCED (assumption 82). -/
def Chip.giveWord (c : Chip) (dma : Bool) (w : Word) : Chip :=
  if dma then c else { c with host := { c.host with words := [w] } }

/-- TIMER_CAP_READ (R494): the value is returned to the reader. -/
def execTimerCapRead (n : Fin 16) (dma : Bool) : State → Host.Outcome State Fault Refusal :=
  act fun c => let (w, c) := c.tmrCapRead n dma; c.giveWord dma w

/-- TIMER_CNT_READ (R495): the value is returned to the reader. -/
def execTimerCntRead (n : Fin 16) (dma : Bool) : State → Host.Outcome State Fault Refusal :=
  act fun c => let (w, c) := c.tmrCntRead n dma; c.giveWord dma w

/-- TEMPO_START (R497). -/
def execTempoStart : State → Host.Outcome State Fault Refusal := act fun c => c.tempoStart

/-- TEMPO_STOP (R497). -/
def execTempoStop : State → Host.Outcome State Fault Refusal := act fun c => c.tempoStop

/-- TEMPO_CONT (R497). -/
def execTempoCont : State → Host.Outcome State Fault Refusal := act fun c => c.tempoCont

/-- TEMPO_TICK (R496): a tick of the running internal clock, once its sample has come; the ticks of an external clock come with its
0xF8 bytes (R498). -/
def execTempoTick : State → Host.Outcome State Fault Refusal :=
  actFree fun c =>
    if c.is TMR_TBEAT_RUN ∧ c.tempoSrc = 0 ∧ c.tempoDue ≤ c.clk.smp then c.tempoTick else c

end Sys2Proof.Machine
end

