-- ==== Sys2Proof/Machine/Memory.lean ====
section
/-! DEFINITION. Banks, write buffers, the fence, retention, error words, the Restorer's walk and the xSPI command
interface (chapter "Bank memory, xSPI and sample streaming", R436 to R458, R463 to R466). -/

namespace Sys2Proof.Machine

/-! ### Words of the banks -/

/-- The host address of word w of bank k (R436). -/
def bankAddr (k w : Nat) : Nat := 0x1000000 + k * 0x200000 + 4 * w

/-- Bank index and word of a bank address (R436). -/
def bankOf (a : Nat) : Nat := (a - 0x1000000) / 0x200000

/-- The word index within its bank of a bank address. -/
def bankWord (a : Nat) : Nat := (a - 0x1000000) % 0x200000 / 4

/-- The region of a bank address (R436). -/
def bankRegion (a : Nat) : Nat := (a - 0x1000000) / 0x400000

/-- The host address of word w of region r's content space (R437: bank B follows bank A). -/
def contentAddr (r w : Nat) : Nat := 0x1000000 + r * 0x400000 + 4 * w

/-- A word of the banks; one in error reads 0 (R447). -/
def MemState.rd (m : MemState) (a : Nat) : Word :=
  if tabGet m.ecc 0 (bankOf a * 2 ^ 19 + bankWord a) = 2 then 0
  else bytesWord [tabGet m.banks 0 a, tabGet m.banks 0 (a + 1), tabGet m.banks 0 (a + 2), tabGet m.banks 0 (a + 3)]

/-- Write one byte of the banks. -/
def MemState.setByte (m : MemState) (a : Nat) (v : Byte) : MemState := { m with banks := tabSet m.banks 0 a v }

/-- Write a word of the banks: it is no longer in error (R447). -/
def MemState.wr (m : MemState) (a : Nat) (v : Word) : MemState :=
  let m := { m with ecc := tabErase m.ecc (bankOf a * 2 ^ 19 + bankWord a) }
  (((m.setByte a (v.extractLsb' 0 8)).setByte (a + 1) (v.extractLsb' 8 8)).setByte (a + 2)
    (v.extractLsb' 16 8)).setByte (a + 3) (v.extractLsb' 24 8)

/-- Write words at ascending addresses. -/
def MemState.wrs (m : MemState) (a : Nat) : List Word → MemState
  | [] => m
  | v :: r => (m.wr a v).wrs (a + 4) r

/-- Write words, each at its address. -/
def MemState.wrAll (m : MemState) (l : List (Nat × Word)) : MemState := l.foldl (fun m p => m.wr p.1 p.2) m

/-! ### The two ports of a bank (R439 to R442) -/

/-- The word of a region's content space at a bank address (R437). -/
def contentWord (a : Nat) : Nat := (a - 0x1000000) % 0x400000 / 4

/-- The ring whose area holds a word of a region's content space (R459), where one is open. -/
def Chip.ringAt (c : Chip) (r w : Nat) : Option Ring :=
  if 0xC0000 ≤ w then tabGet (c.rm r).rings none ((w - 0xC0000) / 1024) else none

/-- Does an open ring wait for the quarter that holds a word? The stream engine may then be writing the word. -/
def Chip.ringFills (c : Chip) (r w : Nat) : Bool :=
  match c.ringAt r w with
  | some g =>
    let n := (w - 0xC0000) / 1024
    (g.want ++ ((c.rm r).heads.filter fun h => decide (h.1 = n)).map fun h => h.2).any fun k => decide (k % 4 = w % 1024 / 256)
  | none => false

/-- Does port A read a word now (R439): for a stream operator, a cache refill that waits, or a load or wake under way? -/
def Chip.portAReads (c : Chip) (r w : Nat) : Bool :=
  match c.ringAt r w with
  | some g => g.bound
  | none => ((List.range 24).any fun b => decide (w / 16 ∈ (c.blk (blkKey r b)).refills)) || ((c.rgn r).loads.any fun q => q.running)

/-- Does a port-B access meet a port-A access of the same word in the same cycle (R440, R441)? The answer tells whether port A
writes; two reads do not conflict. When two accesses meet is open. DESIGN CHOICE (assumption 102). -/
def Chip.clash (c : Chip) (a : Nat) (write : Bool) (site : Nat) : Option Bool :=
  let r := bankRegion a
  let w := contentWord a
  if c.ringFills r w then if Config.freeBool c.ctr site then some true else none
  else if write && c.portAReads r w then if Config.freeBool c.ctr site then some false else none
  else none

/-- Each busy advances RGNn_MSTAT.BUSY (R442). -/
def Chip.busy (c : Chip) (r n : Nat) : Chip := c.addCnt (RGNn_MSTAT_BUSY r) n

/-- A port-B write lands: where it meets a ring write of port A, port A's lands first and this one after it (R441).
DESIGN CHOICE (assumption 102). -/
def Chip.portBWrite (c : Chip) (a : Nat) (v : Word) (site : Nat) : Chip :=
  let r := bankRegion a
  let w := contentWord a
  let meets := c.clash a true site
  let c := match c.ringAt r w with
    | some g =>
      let late := g.late.filter fun p => decide (p.1 ≠ a)
      c.updRm r fun m => { m with rings := tabSet m.rings none ((w - 0xC0000) / 1024) (some
        { g with late := if meets = some true then late ++ [(a, v)] else late }) }
    | none => c
  if meets.isSome then c.busy r 1 else c

/-! ### Region faults -/

/-- Record a region fault code and raise the region-fault source (R121, R548, R571). -/
def Chip.rgnFault (c : Chip) (r code : Nat) : Chip :=
  ((c.setFld (RGNn_FAULT_CODE r) code).set1 (RGNn_FAULT_FAULT r)).raise (112 + 4 * r + 3)

/-! ### Words in error -/

/-- A read corrects a single-bit error (R446). DESIGN CHOICE (assumption 19). -/
def Chip.eccCorrect (c : Chip) (k w : Nat) : Chip :=
  (((((c.bump MEM_ECC_CE).setFld MEM_EADDR_KIND 0).setFld MEM_EADDR_BANK k).setFld MEM_EADDR_WORD w)).raise 96

/-- A read finds an uncorrectable word (R447). DESIGN CHOICE (assumption 19). -/
def Chip.eccUncorrectable (c : Chip) (k w : Nat) : Chip :=
  ((((((c.bump MEM_ECC_UE).setFld MEM_EADDR_KIND 1).setFld MEM_EADDR_BANK k).setFld MEM_EADDR_WORD w)).raise 97).rgnFault
    (k / 2) 0x30

/-- What reading a word of the banks does when the word is in error (R446, R447). -/
def Chip.eccSeen (c : Chip) (m : MemState) (a : Nat) : Chip :=
  match tabGet m.ecc 0 (bankOf a * 2 ^ 19 + bankWord a) with
  | 0 => c
  | 1 => c.eccCorrect (bankOf a) (bankWord a)
  | _ => c.eccUncorrectable (bankOf a) (bankWord a)

/-- The reads of words at a list of addresses (R446, R447). -/
def Chip.eccReads (c : Chip) (m : MemState) (l : List Nat) : Chip :=
  if m.ecc = [] then c else l.foldl (fun c a => c.eccSeen m a) c

/-- The reads of `n` words from an address on (R446, R447). -/
def Chip.eccRead (c : Chip) (m : MemState) (a n : Nat) : Chip := c.eccReads m ((List.range n).map fun i => a + 4 * i)

/-! ### Write buffers, the fence and retention -/

/-- Store a region's write buffer; RGNn_MSTAT.WBOCC reports it (R464). -/
def Chip.setWbuf (c : Chip) (r : Nat) (x : RegionMem) : Chip :=
  { c with rmem := tabSet c.rmem {} r x }.setFld (RGNn_MSTAT_WBOCC r) x.wbuf.length

/-- A block in service that is not power-gated counts toward the awake count (R598): one that is disabled or failed is in no
service. -/
def Block.isAwake (b : Block) : Bool := decide (b.st ≠ .gated ∧ b.st ≠ .disabled ∧ b.st ≠ .failed)

/-- A region's awake count (R598). DEDUCED (assumption 46). -/
def Chip.awake (c : Chip) (r : Nat) : Nat := ((List.range 24).filter fun b => (c.blk (blkKey r b)).isAwake).length

/-- The point a region is to run at (R598): the highest of its load point, FLOOR and its slack floor; a region on BKC stays at
0.80 V (R597). DEDUCED (assumption 46). -/
def Chip.wantPoint (c : Chip) (r : Nat) : Nat :=
  let a := c.awake r
  let th1 := min 24 (c.fld PWR_OPCFG_TH1)
  let load := if a ≤ min (c.fld PWR_OPCFG_TH0) th1 then 0 else if a ≤ th1 then 1 else 2
  if c.pwr.standIn = some r then 2 else max (max load (min 2 (c.fld (PWR_RGCFG_FLOOR r)))) (tabGet c.pwr.slack 0 r)

/-- A rise of the point takes effect as soon as its cause does (R599); a region that dozes is at no point until it stops
dozing (R601). DEDUCED (assumption 46). -/
def Chip.pointUp (c : Chip) (r : Nat) : Chip :=
  if r ∈ c.pwr.dozing then c
  else { c with pwr := { c.pwr with point := tabSet c.pwr.point 0 r (max (tabGet c.pwr.point 0 r) (c.wantPoint r)) } }

/-- A port-B access to a region in retention wakes its banks and is held; the region stops dozing, and its buck goes to the point of
R598 (R445, R601). -/
def Chip.bankWake (c : Chip) (r : Nat) : Chip :=
  let x := c.rm r
  if x.retained then
    let c := c.updRm r fun x => { x with waking := true, held := true }
    ({ c with pwr := { c.pwr with dozing := c.pwr.dozing.filter fun n => decide (n ≠ r) } }.clr (PWR_RGSTAT_DOZING r)).pointUp r
  else c

/-- The banks have woken (R445). -/
def Chip.bankWakeEnd (c : Chip) (r : Nat) : Chip :=
  if (c.rm r).waking then c.updRm r fun x => { x with waking := false, held := false, retained := false } else c

/-- A word enters a region's write buffer (R443); false where the buffer is full. -/
def Chip.wbufPush (c : Chip) (a : Nat) (v : Word) : Bool × Chip :=
  let r := bankRegion a
  let x := c.rm r
  if 32 ≤ x.wbuf.length then (false, c) else (true, c.setWbuf r { x with wbuf := x.wbuf ++ [(a, v)] })

/-- The save buffer of a Restorer step takes a write to its row group (R450). -/
def Chip.stepMirror (c : Chip) (a : Nat) (v : Word) : Chip :=
  let t := c.rep.step
  if t.on ∧ bankOf a = t.bank ∧ bankWord a / 256 = t.group then
    { c with rep := { c.rep with step := { t with save := t.save.set (bankWord a % 256) v } } }
  else c

/-- The words of a row group. -/
def MemState.group (m : MemState) (k g : Nat) : List Word := (List.range 256).map fun i => m.rd (bankAddr k (256 * g + i))

/-- The save buffer takes what a load or an erasure has written to its row group (R450, R453). -/
def State.stepTakes (s : State) : State :=
  let t := s.chip.rep.step
  if t.on then
    { s with chip := { s.chip with rep := { s.chip.rep with step := { t with save := s.mem.group t.bank t.group } } } }
  else s

/-- The oldest write of region r's buffer lands (R443, R444); banks in retention wake first (R445). -/
def State.wbufLand (s : State) (r : Nat) : State :=
  let x := s.chip.rm r
  match x.wbuf with
  | [] => s
  | (a, v) :: rest =>
    if x.retained then { s with chip := s.chip.bankWake r }
    else
      let c := s.chip.setWbuf r { x with wbuf := rest, fences := x.fences.map fun f => { f with left := f.left - 1 } }
      let c := c.portBWrite a v (64 * a + rest.length)
      { s with chip := c.stepMirror a v, mem := s.mem.wr a v }

/-- Every buffered write of a region lands, its banks awake; `fuel` bounds the buffer's 32 words. -/
def State.wbufDrain (s : State) (r : Nat) : Nat → State
  | 0 => s
  | n + 1 => (State.wbufLand { s with chip := (s.chip.bankWake r).bankWakeEnd r } r).wbufDrain r n

/-- Every write that waits in a region's buffer lands. -/
def State.wbufsLand (s : State) : State := (List.range 4).foldl (fun s r => s.wbufDrain r 32) s

/-- A fence read arrives (R444): it counts the writes waiting. -/
def Chip.fenceRead (c : Chip) (r : Nat) (dma : Bool) : Chip :=
  c.updRm r fun x => { x with fences := x.fences ++ [{ dma := dma, left := x.wbuf.length, count := x.wbuf.length }] }

/-- The oldest fence read of a region completes once its writes have landed (R444, R464). -/
def Chip.fenceComplete (c : Chip) (r : Nat) : Chip :=
  match (c.rm r).fences with
  | f :: rest =>
    if f.left = 0 then
      let c := (c.updRm r fun x => { x with fences := rest }).setFld (RGNn_FENCE_DRAINED r) f.count
      if f.dma then c else { c with host := { c.host with words := [BitVec.ofNat 32 f.count] } }
    else c
  | [] => c

/-- A port-B read (R440, R443, R445): the banks wake, and a buffered value is returned where one waits; a read that meets a ring
write of port A takes an unpredictable value. DESIGN CHOICE (assumption 102). -/
def State.portBRead (s : State) (a : Nat) : Word × State :=
  let r := bankRegion a
  let s := { s with chip := (s.chip.bankWake r).bankWakeEnd r }
  match ((s.chip.rm r).wbuf.filter fun p => decide (p.1 = a)).getLast? with
  | some p => (p.2, s)
  | none =>
    if (s.chip.clash a false a).isSome then (Config.freeWord s.chip.ctr a, { s with chip := s.chip.busy r 1 })
    else (s.mem.rd a, { s with chip := s.chip.eccSeen s.mem a })

/-! ### The Restorer's walk over the banks -/

/-- How many words of a row group a port-B access meets port A at (R440, R441). -/
def Chip.groupClashes (c : Chip) (k g : Nat) (write : Bool) : Nat :=
  ((List.range 256).filter fun i =>
    (c.clash (bankAddr k (256 * g + i)) write (bankAddr k (256 * g + i))).isSome).length

/-- RST_POS names the row group after this one (R449). -/
def Chip.restorerNext (c : Chip) (k g : Nat) : Chip :=
  if g < 2047 then c.setFld RST_POS_GROUP (g + 1)
  else (c.setFld RST_POS_GROUP 0).setFld RST_POS_BANK ((k + 1) % 8)

/-- A step starts (R449, R450): the row group is saved, corrected, and RST_POS names the next. PHASE follows the step by boundaries.
DESIGN CHOICE (assumption 19). -/
def State.restorerStep (s : State) : State :=
  let c := s.chip
  let k := c.fld RST_POS_BANK
  let g := c.fld RST_POS_GROUP
  if c.is RST_CFG_EN = false ∨ c.rep.step.on ∨ (c.rm (k / 2)).retained ∨ c.boot.loading.isSome ∨ c.pwrState ≠ 0 then s
  else
    let c := (c.busy (k / 2) (c.groupClashes k g false)).eccRead s.mem (bankAddr k (256 * g)) 256
    let c : Chip := { c with rep := { c.rep with step := { on := true, bank := k, group := g, save := s.mem.group k g } } }
    { s with chip := (c.setFld RST_STAT_PHASE 1).restorerNext k g }

/-- At a boundary a step that saves has come to its test, and one that has ended is released (R450). DESIGN CHOICE
(assumption 19). -/
def Chip.stepPhase (c : Chip) : Chip :=
  let p := c.fld RST_STAT_PHASE
  if c.rep.step.on then (if p = 1 then c.setFld RST_STAT_PHASE 2 else c)
  else if p = 0 then c else c.setFld RST_STAT_PHASE 0

/-- b of a March run for a row (R451): all 0, then a checkerboard. That 0b0101… is written from the highest of the 39 bits is
DESIGN CHOICE (assumption 19). -/
def marchBit (run : Bool) (row : Nat) : BitVec 39 :=
  if !run then 0 else if row % 2 = 0 then 0x2AAAAAAAAA else ~~~0x2AAAAAAAAA

/-- What a read of the March test must return (R451): b in M1, M3 and M5, ~b in M2 and M4. -/
def marchExpected (m : MarchRead) : BitVec 39 :=
  if m.elem.val % 2 = 0 then marchBit m.run (m.word.toNat / 64) else ~~~marchBit m.run (m.word.toNat / 64)

/-- The rows of the group that the reads fail (R452). DESIGN CHOICE (assumption 19). -/
def failedRows (reads : List MarchRead) : List Nat :=
  (List.range 4).filter fun row => reads.any fun m => decide (m.word.toNat / 64 = row ∧ m.value ≠ marchExpected m)

/-- Do two records describe the same unit and location (R566)? -/
def Repair.same (a b : Repair) : Bool :=
  let cls (n : Nat) : Nat := if n = 6 then 5 else n
  decide (cls a.kind = cls b.kind ∧ a.unit = b.unit ∧ a.loc = b.loc)

/-- Does a later record replace an earlier one (R566)? DEDUCED (assumption 49). -/
def Repair.replaces (late early : Repair) : Bool :=
  late.same early || (decide (late.kind = 2 ∧ early.unit = late.unit) &&
    (decide (early.kind = 3 ∧ early.loc / 16 = late.loc) || decide (early.kind = 4 ∧ early.loc = late.loc)))

/-- The merged map: records that a later one replaces are left out (R566, R567). DEDUCED (assumption 49). -/
def mergeMap : List Repair → List Repair
  | [] => []
  | x :: rest => if rest.any fun y => y.replaces x then mergeMap rest else x :: mergeMap rest

/-- The spare rows that records of a map name for a bank. -/
def sparesOf (map : List Repair) (k : Nat) : List Nat :=
  (List.range 32).filter fun i => map.any fun x => decide (x.kind = 1 ∧ x.unit = k ∧ x.spare = i)

/-- MEM_SPARE[k].USED reports the spare rows that the map in force binds (R448). DEDUCED (assumption 62). -/
def Chip.showSpares (c : Chip) (k : Nat) : Chip := c.setFld (MEM_SPARE_USED k) (sparesOf (mergeMap c.rep.map) k).length

/-- The spare row that a bank has free: the lowest that no record has named, for a spare row that failed is not taken again (R448).
DESIGN CHOICE (assumption 93). -/
def Chip.freeRow (c : Chip) (k : Nat) : Option Nat := (List.range 32).find? fun i => decide (i ∉ sparesOf c.rep.map k)

/-- One row the March test failed (R452): bound to a spare row, or kept in service with none. DESIGN CHOICE (assumption 93). -/
def Chip.rowRepair (c : Chip) (k g row : Nat) : Chip :=
  match c.freeRow k with
  | some i =>
    (((c.set1 RST_STAT_REPAIR).addRepair 1 k (4 * g + row) i ((Config.freeWord c.ctr (800000 + row)).toNat % 256)).showSpares
      k).raise 101
  | none => ((c.set1 RST_STAT_NOSPARE).raise 102).rgnFault (k / 2) 0x31

/-- The March test has ended: failed rows are repaired, the group is restored, and the last group of bank 7 ends a walk (R449 to
R452). DESIGN CHOICE (assumption 19). -/
def State.restorerDone (s : State) (reads : List MarchRead) : State :=
  let t := s.chip.rep.step
  if t.on = false then s
  else
    let c := s.chip.forL (failedRows reads) fun row c => c.rowRepair t.bank t.group row
    let c := c.busy (t.bank / 2) (c.groupClashes t.bank t.group true)
    let c : Chip := { c with rep := { c.rep with step := {} } }
    let c := c.setFld RST_STAT_PHASE 3
    { s with chip := if t.bank = 7 ∧ t.group = 2047 then (c.set1 RST_STAT_WRAP).raise 100 else c
             mem := s.mem.wrs (bankAddr t.bank (256 * t.group)) t.save }

/-! ### Flash -/

/-- A byte of port x's flash; an erased byte reads 0xFF (assumption 3). -/
def NonVol.flash (n : NonVol) (x a : Nat) : Byte := tabGet (if x = 0 then n.xa else n.xb) 0xFF a

/-- Write a byte of flash. -/
def NonVol.setFlash (n : NonVol) (x a : Nat) (v : Byte) : NonVol :=
  if x = 0 then { n with xa := tabSet n.xa 0xFF a v } else { n with xb := tabSet n.xb 0xFF a v }

/-- Write bytes of flash at ascending addresses. -/
def NonVol.setFlashes (n : NonVol) (x a : Nat) : List Byte → NonVol
  | [] => n
  | v :: r => (n.setFlash x a v).setFlashes x (a + 1) r

/-- `n` bytes of flash from an address. -/
def NonVol.flashBytes (n : NonVol) (x a len : Nat) : List Byte := (List.range len).map fun i => n.flash x (a + i)

/-- A little-endian word of flash (R5). -/
def NonVol.flashWord (n : NonVol) (x a : Nat) : Word := bytesWord (n.flashBytes x a 4)

/-- Erase: every byte of an aligned unit becomes 0xFF. DEDUCED (assumption 22). -/
def NonVol.erase (n : NonVol) (x a len : Nat) : NonVol :=
  let base := a / len * len
  if x = 0 then { n with xa := tabClear n.xa base len } else { n with xb := tabClear n.xb base len }

/-- Program: bits can only fall, and the address wraps within its 256-byte page (assumption 22). -/
def NonVol.program (n : NonVol) (x a : Nat) (data : List Byte) : NonVol :=
  ((List.range data.length).foldl (fun n i =>
    let b := a / 256 * 256 + (a + i) % 256
    n.setFlash x b (n.flash x b &&& data.getD i 0xFF)) n)

/-- A port's command state. -/
def Chip.xs (c : Chip) (x : Nat) : XsPort := if x = 0 then c.rep.xs0 else c.rep.xs1

/-- Store a port's command state. -/
def Chip.setXs (c : Chip) (x : Nat) (p : XsPort) : Chip :=
  { c with rep := if x = 0 then { c.rep with xs0 := p } else { c.rep with xs1 := p } }

/-- A write of XS_CMD with OP 1 to 3 starts a program or an erase (R458); while one runs it has no effect.
DESIGN CHOICE (assumption 93). -/
def Chip.xsStart (c : Chip) (x op count : Nat) : Chip :=
  let p := c.xs x
  if c.is (XS_STAT_CBUSY x) then c
  else
    let data := (List.range (count + 1)).map fun i =>
      p.buf.getD i ((Config.freeWord c.ctr (801000 + i)).setWidth 8)
    let o : XsOp := { op := op, addr := c.fld (XS_ADDR_ADDR x), data := if op = 1 then data else [] }
    ((c.setXs x { p with op := some o, buf := if op = 1 then [] else p.buf }).set1 (XS_STAT_CBUSY x)).set1 (XS_STAT_FBUSY x)

/-- The effect of a command on the flash (R458). DEDUCED (assumption 22). -/
def NonVol.xsApply (n : NonVol) (x : Nat) (o : XsOp) : NonVol :=
  match o.op with
  | 1 => n.program x o.addr o.data
  | 2 => n.erase x o.addr 4096
  | _ => n.erase x o.addr 65536

/-- A program or erase ends (R458): ready, or after 4 s with TOUT, when what reached the flash is open. -/
def State.xsDone (s : State) (x : Nat) (ready : Bool) : State :=
  let p := s.chip.xs x
  match p.op with
  | none => s
  | some o =>
    let c := ((s.chip.setXs x { p with op := none }).clr (XS_STAT_CBUSY x)).clr (XS_STAT_FBUSY x)
    let c := if ready then c else c.bump (XS_STAT_TOUT x)
    let done := ready || Config.freeBool s.chip.ctr 802000
    { s with chip := c, nv := if done then s.nv.xsApply x o else s.nv }

/-- A write of XS_DATA (R466): four bytes, lowest first, into the 256-byte buffer. -/
def Chip.xsData (c : Chip) (x : Nat) (v : Word) : Chip :=
  let p := c.xs x
  c.setXs x { p with buf := (p.buf ++ wordBytes v).take 256 }

/-- A write of PROTO = 1 (R455). -/
def Chip.xsProto (c : Chip) (x : Nat) : Chip :=
  ((c.set1 (XS_CFG_PROTO x)).clr (XS_STAT_FB x)).setXs x { c.xs x with fails := 0, retry := false }

/-- A failed read (R455): counted; after four in a row a port with AUTOFB falls back, and the read is retried once.
DEDUCED (assumption 112). -/
def Chip.xsReadFail (c : Chip) (x : Nat) : Chip :=
  let p := c.xs x
  let c := c.bump (XS_STAT_TOUT x)
  if 3 ≤ p.fails ∧ c.is (XS_CFG_AUTOFB x) = true then
    ((((c.setXs x { p with fails := 0, retry := true }).clr (XS_CFG_PROTO x)).setFld (XS_CFG_CLKDIV x) 3).set1 (XS_STAT_FB x)).raise 99
  else c.setXs x { p with fails := p.fails + 1, retry := false }

/-- A device answers a read: the run of failed reads ends, and so does a retry (R455). DEDUCED (assumption 112). -/
def Chip.xsServed (c : Chip) (x : Nat) : Chip := c.setXs x { c.xs x with fails := 0, retry := false }

/-- A word of an xSPI window (R457); a port with no device gives no value the spec names. DESIGN CHOICE (assumption 93). -/
def State.windowRead (s : State) (x a : Nat) : Word :=
  if s.chip.is (XS_STAT_NODEV x) then Config.freeWord s.chip.ctr (803000 + a % 4096) else s.nv.flashWord x a

/-- A read of an xSPI window: the word and the state after it (R455, R457, R458). A program or erase under way holds the read until it
ends, ready or timed out, which is free; a read that a device answers ends a run of failed ones. DEDUCED (assumption 112). -/
def State.windowServe (s : State) (x a : Nat) : Word × State :=
  let s := if s.chip.is (XS_STAT_FBUSY x) then s.xsDone x (Config.freeBool s.chip.ctr 802001) else s
  let w := s.windowRead x a
  if s.chip.is (XS_STAT_NODEV x) then (w, s) else (w, { s with chip := s.chip.xsServed x })

/-! ### Meanings -/

/-- WRITE_BUFFER_LAND (R443). -/
def execWriteBufferLand (r : Fin 4) : State → Host.Outcome State Fault Refusal := actAll fun s => s.wbufLand r

/-- FENCE_READ (R444). -/
def execFenceRead (r : Fin 4) (dma : Bool) : State → Host.Outcome State Fault Refusal := act fun c => c.fenceRead r dma

/-- FENCE_READ_COMPLETE (R444). -/
def execFenceReadComplete (r : Fin 4) : State → Host.Outcome State Fault Refusal := act fun c => c.fenceComplete r

/-- ECC_CORRECT (R446): a read corrects a single-bit error, which stays until the word is written; an uncorrectable word is beyond
correction. -/
def execEccCorrect (k : Fin 8) (w : BitVec 19) : State → Host.Outcome State Fault Refusal :=
  actAll fun s =>
    if tabGet s.mem.ecc 0 (k * 2 ^ 19 + w.toNat) = 2 then s
    else { s with chip := s.chip.eccCorrect k w.toNat
                  mem := { s.mem with ecc := tabSet s.mem.ecc 0 (k * 2 ^ 19 + w.toNat) 1 } }

/-- ECC_UNCORRECTABLE (R447): the word reads 0 until it is written. -/
def execEccUncorrectable (k : Fin 8) (w : BitVec 19) : State → Host.Outcome State Fault Refusal :=
  actAll fun s => { s with chip := s.chip.eccUncorrectable k w.toNat
                           mem := { s.mem with ecc := tabSet s.mem.ecc 0 (k * 2 ^ 19 + w.toNat) 2 } }

/-- BANK_WAKE (R445). -/
def execBankWake (r : Fin 4) : State → Host.Outcome State Fault Refusal := act fun c => c.bankWake r

/-- BANK_WAKE_END (R445). -/
def execBankWakeEnd (r : Fin 4) : State → Host.Outcome State Fault Refusal := act fun c => c.bankWakeEnd r

/-- RESTORER_STEP (R450). -/
def execRestorerStep : State → Host.Outcome State Fault Refusal := actAll fun s => s.restorerStep

/-- RESTORER_STEP_DONE (R450). -/
def execRestorerStepDone (reads : List MarchRead) : State → Host.Outcome State Fault Refusal :=
  actAll fun s => s.restorerDone reads

/-- XS_PAGE_PROGRAM (R458). -/
def execXsPageProgram (x : Fin 2) (count : Byte) : State → Host.Outcome State Fault Refusal :=
  actFree fun c => c.xsStart x 1 count.toNat

/-- XS_ERASE_4K (R458). -/
def execXsErase4k (x : Fin 2) : State → Host.Outcome State Fault Refusal := act fun c => c.xsStart x 2 0

/-- XS_ERASE_64K (R458). -/
def execXsErase64k (x : Fin 2) : State → Host.Outcome State Fault Refusal := act fun c => c.xsStart x 3 0

/-- XS_READ_STATUS (R458, R466): `status` is the byte the flash answers. -/
def execXsReadStatus (x : Fin 2) (status : Byte) : State → Host.Outcome State Fault Refusal :=
  act fun c => c.setXs x { c.xs x with status := status }

/-- XS_CMD_DONE (R458). -/
def execXsCmdDone (x : Fin 2) (ready : Bool) : State → Host.Outcome State Fault Refusal := actAll fun s => s.xsDone x ready

/-- XS_DATA_WRITE (R466). -/
def execXsDataWrite (x : Fin 2) (v : Word) : State → Host.Outcome State Fault Refusal := act fun c => c.xsData x v

/-- XS_PROTO_WRITE (R455). -/
def execXsProtoWrite (x : Fin 2) : State → Host.Outcome State Fault Refusal := act fun c => c.xsProto x

/-- XSPI_READ_FAIL (R455). -/
def execXspiReadFail (x : Fin 2) : State → Host.Outcome State Fault Refusal := act fun c => c.xsReadFail x

/-- XSPI_COMMAND_REVOKE (R549): the command ends and counts; a refill it served stays requested (R461). -/
def execXspiCommandRevoke (x : Fin 2) : State → Host.Outcome State Fault Refusal :=
  act fun c => c.bump (XS_STAT_TOUT x)

end Sys2Proof.Machine
end

