-- ==== Sys2Proof/Machine/Content.lean ====
section
/-! DEFINITION. What a loaded primer puts into the content space of a region (R437, R654): template images, table
directories and tables, and the pinned lines of a template (R114). -/

namespace Sys2Proof.Machine

/-- Insert into a list sorted by a key. -/
def insertBy {α : Type} (key : α → Nat) (x : α) : List α → List α
  | [] => [x]
  | y :: r => if key x ≤ key y then x :: y :: r else y :: insertBy key x r

/-- Sort by a key, ascending; equals keep their order. -/
def sortBy {α : Type} (key : α → Nat) (l : List α) : List α := l.foldr (insertBy key) []

/-- The templates in image order: voice templates and then bus templates (R437). -/
def Palette.ordered (p : Palette) : List Template :=
  (List.range 24).filterMap fun i => p.templates.find? fun t => decide (t.id = i)

/-- A template by its code (R124). -/
def Palette.tmpl (p : Palette) (id : Nat) : Option Template := p.templates.find? fun t => decide (t.id = id)

/-- A MAC program by its ID; 255 names none. -/
def Palette.program (p : Palette) (id : Nat) : Option MacProgram :=
  if id = 255 then none else p.programs.find? fun x => decide (x.id = id)

/-- A set of words by its ID; 255 names none. -/
def setOf (t : List (Nat × List Word)) (id : Nat) : List Word :=
  if id = 255 then [] else match t.find? fun x => decide (x.1 = id) with
    | some x => x.2
    | none => []

/-- A wiring by its ID. -/
def Palette.wiring (p : Palette) (id : Nat) : List (BitVec 16) :=
  match p.wirings.find? fun x => decide (x.1 = id) with
  | some x => x.2
  | none => []

/-- A table by its ID. -/
def Palette.table (p : Palette) (id : Nat) : Option TableRec := p.tables.find? fun t => decide (t.id = id)

/-- Is a table in a region (R62)? -/
def TableRec.inRegion (t : TableRec) (r : Nat) : Bool := decide (t.regions / 2 ^ r % 2 = 1)

/-- The tables of a region in ascending ID (R437). -/
def Palette.tablesIn (p : Palette) (r : Nat) : List TableRec :=
  sortBy (fun t => t.id) (p.tables.filter fun t => t.inRegion r)

/-- Words a table takes: its levels, each starting on a 16-word boundary (R437). -/
def TableRec.words (t : TableRec) : Nat := levelOffset t t.mips

/-- Lines of a table's smallest level (R114). -/
def TableRec.pinLines (t : TableRec) : Nat := ceilDiv (levelOffset t t.mips - levelOffset t (t.mips - 1)) 16

/-- The distinct tables of a template that stand in a region. -/
def Palette.tablesOf (p : Palette) (t : Template) (r : Nat) : List TableRec :=
  (t.tables.eraseDups.filterMap p.table).filter fun x => x.inRegion r

/-- Pinned lines of a template in a region (R114). -/
def Palette.pinCount (p : Palette) (t : Template) (r : Nat) : Nat :=
  (p.tablesOf t r).foldl (fun a x => a + x.pinLines) 0

/-- The words of a program's part of an image (R654). -/
def programWords (x : Option MacProgram) : List Word :=
  match x with
  | some m => m.code ++ (m.xdata ++ m.ydata).map fun q => q.setWidth 32
  | none => []

/-- Two wire entries to a word (R654). -/
def wireWords : List (BitVec 16) → List Word
  | a :: b :: r => (b ++ a) :: wireWords r
  | [a] => [a.setWidth 32]
  | [] => []

/-- The words of a template image before its pinned lines (R654). -/
def Palette.imageHead (p : Palette) (t : Template) : List Word :=
  programWords (p.program t.mac0) ++ programWords (p.program t.mac1)
    ++ t.phase.flatMap (fun i => setOf p.phaseSets i) ++ setOf p.contourSets t.contour ++ setOf p.routeSets t.routes
    ++ wireWords (p.wiring t.wire)

/-- The size of an image with its CRC word. -/
def Palette.imageSize (p : Palette) (t : Template) (r : Nat) : Nat := (p.imageHead t).length + p.pinCount t r + 1

/-- The word offset of a template's image in a region's content space (R437). -/
def Palette.imageBase (p : Palette) (id r : Nat) : Nat :=
  (p.ordered.filter fun t => decide (t.id < id)).foldl (fun a t => a + p.imageSize t r) 0

/-- The word offset of the table directories (R437). -/
def Palette.dirBase (p : Palette) (r : Nat) : Nat := p.ordered.foldl (fun a t => a + p.imageSize t r) 0

/-- The word offset of the first table (R437). -/
def Palette.tabBase (p : Palette) (r : Nat) : Nat := ceilDiv (p.dirBase r + 64 * p.ordered.length) 16 * 16

/-- The word offset of a table in a region's content space. -/
def Palette.tableBase (p : Palette) (id r : Nat) : Nat :=
  ((p.tablesIn r).filter fun t => decide (t.id < id)).foldl (fun a t => a + t.words) (p.tabBase r)

/-- Words of the content space that the image takes in a region. -/
def Palette.contentWords (p : Palette) (r : Nat) : Nat := (p.tablesIn r).foldl (fun a t => a + t.words) (p.tabBase r)

/-- The pinned lines of a template in a region, ascending (R114). -/
def Palette.pinned (p : Palette) (t : Template) (r : Nat) : List Nat :=
  sortBy id ((p.tablesOf t r).flatMap fun x =>
    let first := (p.tableBase x.id r + levelOffset x (x.mips - 1)) / 16
    (List.range x.pinLines).map fun i => first + i)

/-- A template image (R654). -/
def Palette.image (p : Palette) (t : Template) (r : Nat) : List Word :=
  let ws := p.imageHead t ++ (p.pinned t r).map fun n => BitVec.ofNat 32 n
  ws ++ [crcWords ws]

/-- The table directory of a template (R437). -/
def Palette.directory (p : Palette) (t : Template) (r : Nat) : List Word :=
  (List.range 64).map fun i =>
    match (t.tables[i]?).bind p.table with
    | some x => if x.inRegion r then BitVec.ofNat 32 (p.tableBase x.id r) else 0xFFFFFFFF
    | none => 0xFFFFFFFF

/-- Split a list into its first n and the rest. -/
def cut {α : Type} (n : Nat) (l : List α) : List α × List α := (l.take n, l.drop n)

/-- A program read back from image words (R654): its record and its code. -/
def cellProgOf (x : Option MacProgram) (ws : List Word) : Option CellProg × List Word × List Word :=
  match x with
  | none => (none, [], ws)
  | some m =>
    let (code, ws) := cut m.code.length ws
    let (xd, ws) := cut m.xdata.length ws
    let (yd, ws) := cut m.ydata.length ws
    (some { closed := m.closed, length := m.code.length, xdata := xd.map wordQ, ydata := yd.map wordQ }, code, ws)

/-- A program memory holding a program's words, the rest 0 (R55). -/
def progMem (code : List Word) : Tab Word :=
  (List.range code.length).foldl (fun t i => tabSet t 0 i (code.getD i 0)) []

/-- Sets of 8 words for the cells that name one, the others empty. -/
def phaseSetsOf : List Nat → List Word → List (List Word) × List Word
  | [], ws => ([], ws)
  | i :: is, ws =>
    if i = 255 then let (r, ws) := phaseSetsOf is ws; ([] :: r, ws)
    else
      let (s, ws) := cut 8 ws
      let (r, ws) := phaseSetsOf is ws
      (s :: r, ws)

/-- The wires of image words; `n` are left. -/
def wiresOf : Nat → List Word → List (BitVec 16)
  | n, w :: ws => if n = 0 then [] else if n = 1 then [w.setWidth 16] else
      w.setWidth 16 :: (w >>> 16).setWidth 16 :: wiresOf (n - 2) ws
  | _, [] => []

/-- The content a block holds after copying an image from the bank (R111 phase 3), with the code of MC0 and MC1. -/
def Palette.contentOf (p : Palette) (t : Template) (ws : List Word) : Content × List Word × List Word :=
  let (m0, c0, ws) := cellProgOf (p.program t.mac0) ws
  let (m1, c1, ws) := cellProgOf (p.program t.mac1) ws
  let (ph, ws) := phaseSetsOf t.phase ws
  let (cs, ws) := if t.contour = 255 then ([], ws) else cut 8 ws
  let (rs, ws) := if t.routes = 255 then ([], ws) else cut 32 ws
  let n := (p.wiring t.wire).length
  let (wr, ws) := cut ((n + 1) / 2) ws
  ({ tmpl := t, mac0 := m0, mac1 := m1, phase := ph, contour := cs, routes := rs, wires := wiresOf n wr
     pinned := ws.dropLast.map fun w => w.toNat % 65536 }, c0, c1)

/-- The words of region r's content space as a loaded primer lays them out (R437), but for the tables' samples. -/
def Palette.spaceHead (p : Palette) (r : Nat) : List Word :=
  p.ordered.flatMap (fun t => p.image t r) ++ p.ordered.flatMap fun t => p.directory t r

end Sys2Proof.Machine
end

