-- ==== Sys2Proof/Machine/MacWord.lean ====
section
/-! DEFINITION. The MAC cell's instruction words: encoding and decoding (R203 to R219), parallel moves (R210, R215,
R658) and reserved encodings (R228). -/

namespace Sys2Proof.Machine

/-- The code of an arithmetic operation (R208). -/
def macOpCode : MacOp → Nat
  | .pmov => 0x00 | .mpy => 0x01 | .mpyn => 0x02 | .mac => 0x03 | .macn => 0x04 | .ld => 0x05 | .add => 0x06
  | .sub => 0x07 | .neg => 0x08 | .abs => 0x09 | .clr => 0x0A | .shl => 0x0B | .shr => 0x0C | .and => 0x0D
  | .or => 0x0E | .eor => 0x0F | .cmp => 0x10 | .max => 0x11 | .min => 0x12 | .clip => 0x13 | .tap => 0x14
  | .tapn => 0x15

/-- The arithmetic operation of a code; none for the reserved codes 0x16 to 0x1F (R208). -/
def macOpOf (n : Nat) : Option MacOp :=
  match n with
  | 0x00 => some .pmov | 0x01 => some .mpy | 0x02 => some .mpyn | 0x03 => some .mac | 0x04 => some .macn
  | 0x05 => some .ld | 0x06 => some .add | 0x07 => some .sub | 0x08 => some .neg | 0x09 => some .abs
  | 0x0A => some .clr | 0x0B => some .shl | 0x0C => some .shr | 0x0D => some .and | 0x0E => some .or
  | 0x0F => some .eor | 0x10 => some .cmp | 0x11 => some .max | 0x12 => some .min | 0x13 => some .clip
  | 0x14 => some .tap | 0x15 => some .tapn
  | _ => none

/-- How an operation reads S (R207): 0 it must be 0, 1 a product pair, 2 a source, 3 a count. -/
def macOpS : MacOp → Nat
  | .pmov | .neg | .abs | .clr | .clip | .tap | .tapn => 0
  | .mpy | .mpyn | .mac | .macn => 1
  | .ld | .add | .sub | .and | .or | .eor | .cmp | .max | .min => 2
  | .shl | .shr => 3

/-- One memory access of a parallel move: the space, load or store, register code (R204), pointer 0–7 and update. -/
structure MemMove where
  isY : Bool
  store : Bool
  reg : Nat
  ptr : Nat
  upd : Nat
  deriving DecidableEq, Repr

/-- The moves an instruction makes (R210, R214, R215): up to two memory accesses, an input load (register, index), an
output write (source, register) and a parameter load (register, HIGH view, index). -/
structure Moves where
  x : Option MemMove := none
  y : Option MemMove := none
  inp : Option (Nat × Nat) := none
  outw : Option (Nat × Nat) := none
  par : Option (Nat × Bool × Nat) := none
  deriving DecidableEq, Repr

/-- Bits [lo + w − 1 : lo] of a value, as a natural. -/
def bitsOf {n : Nat} (x : BitVec n) (lo w : Nat) : Nat := (x.extractLsb' lo w).toNat

/-- Put a memory access into the side of its space (R176: X through pointers 0–3, Y through 4–7). -/
def memMove (isY store : Bool) (reg ptr upd : Nat) (m : Moves) : Moves :=
  let a : MemMove := ⟨isY, store, reg, if isY then ptr + 4 else ptr, upd⟩
  if isY then { m with y := some a } else { m with x := some a }

/-- The moves of MV (R210, R658). -/
def movesOfMV (mv : BitVec 22) : Moves :=
  match bitsOf mv 20 2 with
  | 1 =>
    let m : Moves := {}
    let m := if mv.getLsbD 19 then memMove false (mv.getLsbD 18) (bitsOf mv 15 3) (bitsOf mv 13 2) (bitsOf mv 11 2) m else m
    if mv.getLsbD 9 then memMove true (mv.getLsbD 8) (bitsOf mv 5 3) (bitsOf mv 3 2) (bitsOf mv 1 2) m else m
  | 2 =>
    let m : Moves := if mv.getLsbD 9 then { outw := some (bitsOf mv 6 3, bitsOf mv 2 4) }
      else { inp := some (bitsOf mv 7 2, bitsOf mv 2 5) }
    if mv.getLsbD 19 then memMove (mv.getLsbD 18) (mv.getLsbD 17) (bitsOf mv 14 3) (bitsOf mv 12 2) (bitsOf mv 10 2) m else m
  | 3 =>
    let m : Moves := { par := some (bitsOf mv 18 2, mv.getLsbD 17, bitsOf mv 8 9) }
    if mv.getLsbD 7 then memMove (mv.getLsbD 6) false (bitsOf mv 4 2) (bitsOf mv 2 2) (bitsOf mv 0 2) m else m
  | _ => {}

/-- The moves of an MVX (R215, R658). -/
def movesOfMVX (f : BitVec 29) : Moves :=
  let m : Moves := {}
  let m := if f.getLsbD 28 then { m with par := some (bitsOf f 26 2, f.getLsbD 25, bitsOf f 16 9) } else m
  let m := if f.getLsbD 15 then { m with inp := some (bitsOf f 13 2, bitsOf f 8 5) } else m
  if f.getLsbD 7 then memMove (f.getLsbD 6) false (bitsOf f 4 2) (bitsOf f 2 2) (bitsOf f 0 2) m else m

/-- The moves of TAP and TAPN (R213): both cursors with their updates; the loads and the write-back are R214's. -/
def movesOfTap (mv : BitVec 22) : Moves :=
  { x := some ⟨false, false, 0, bitsOf mv 18 2, bitsOf mv 16 2⟩
    y := some ⟨true, false, 2, bitsOf mv 14 2 + 4, bitsOf mv 12 2⟩ }

/-- Every field the layout of MV marks 0 is 0 (R210, R228). -/
def mvZeros (mv : BitVec 22) : Bool :=
  match bitsOf mv 20 2 with
  | 0 => decide (bitsOf mv 0 20 = 0)
  | 1 => !mv.getLsbD 10 && !mv.getLsbD 0
  | 2 => decide (bitsOf mv 0 2 = 0)
  | _ => true

/-- A memory access names a register its direction allows (R204): a load 0–3, a store 0–5. -/
def memMoveOk (a : Option MemMove) : Bool :=
  match a with
  | none => true
  | some m => if m.store then decide (m.reg ≤ 5) else decide (m.reg ≤ 3)

/-- The acting fields of MV hold no reserved register code (R204, R228, R658). -/
def mvRegs (mv : BitVec 22) : Bool :=
  let m := movesOfMV mv
  memMoveOk m.x && memMoveOk m.y && (match m.outw with | some (o, _) => decide (o ≤ 5) | none => true)

/-- Is the instruction a reserved encoding (R228)? -/
def macReserved : MacIns → Bool
  | .nop | .endPass | .bra _ | .doLoop _ _ | .rep _ | .mvx _ => false
  | .bcc c _ => decide (8 ≤ c.toNat)
  | .repReg r => !(decide (r.toNat ≤ 3) || (decide (8 ≤ r.toNat) && decide (r.toNat ≤ 23))
      || (decide (32 ≤ r.toNat) && decide (r.toNat ≤ 39)))
  | .inj s _ _ _ => decide (6 ≤ s.toNat)
  | .ldi d imm =>
    match d.toNat with
    | 6 => !decide (imm &&& 0xFFFFC7 = 0)
    | 7 => !decide (bitsOf imm 16 8 = 0)
    | 8 | 9 | 11 => !decide (bitsOf imm 10 11 = 0)
    | 10 => !decide (bitsOf imm 11 10 = 0)
    | n => decide (12 ≤ n)
  | .move d s => decide (40 ≤ d.toNat) || decide (40 ≤ s.toNat)
  | .arith op d s mv =>
    match op with
    | .tap | .tapn => !(decide (s = 0) && decide (bitsOf mv 20 2 = 0) && decide (bitsOf mv 0 12 = 0))
    | .pmov => !(decide (d = 0) && decide (s = 0) && mvZeros mv && mvRegs mv)
    | o =>
      !((match macOpS o with
          | 0 => decide (s = 0)
          | 2 => decide (s.toNat ≤ 4)
          | _ => true) && mvZeros mv && mvRegs mv)
  | .illegal _ => true

/-- The word of an instruction (R203, R206, R215, R217 to R219). -/
def encodeMac : MacIns → Word
  | .nop => 0
  | .endPass => 0x01000000
  | .bra t => 0b00000010#8 ++ 0#15 ++ t
  | .bcc c t => 0b00000011#8 ++ c ++ 0#11 ++ t
  | .doLoop n e => 0b00000100#8 ++ 0#5 ++ n ++ e
  | .rep n => 0b00000101#8 ++ 0#14 ++ n
  | .repReg r => 0b00000110#8 ++ r ++ 0#18
  | .inj s p v w => 0b00000111#8 ++ s ++ p ++ v ++ w ++ 0#11
  | .ldi d imm => 0b001#3 ++ d ++ 0#1 ++ imm
  | .mvx f => 0b010#3 ++ f
  | .move d s => 0b011#3 ++ d ++ s ++ 0#17
  | .arith op d s mv => 1#1 ++ BitVec.ofNat 5 (macOpCode op) ++ d ++ s ++ mv
  | .illegal w => w

/-- The format and fields of a word, before the reserved encodings are told apart. -/
def macFields (w : Word) : MacIns :=
  if w.getLsbD 31 then
    match macOpOf (bitsOf w 26 5) with
    | some op => .arith op (w.extractLsb' 25 1) (w.extractLsb' 22 3) (w.extractLsb' 0 22)
    | none => .illegal w
  else
    match bitsOf w 29 2 with
    | 1 => if w.getLsbD 24 then .illegal w else .ldi (w.extractLsb' 25 4) (w.extractLsb' 0 24)
    | 2 => .mvx (w.extractLsb' 0 29)
    | 3 => if bitsOf w 0 17 = 0 then .move (w.extractLsb' 23 6) (w.extractLsb' 17 6) else .illegal w
    | _ =>
      match bitsOf w 24 5 with
      | 0 => if bitsOf w 0 24 = 0 then .nop else .illegal w
      | 1 => if bitsOf w 0 24 = 0 then .endPass else .illegal w
      | 2 => if bitsOf w 9 15 = 0 then .bra (w.extractLsb' 0 9) else .illegal w
      | 3 => if bitsOf w 9 11 = 0 then .bcc (w.extractLsb' 20 4) (w.extractLsb' 0 9) else .illegal w
      | 4 => if bitsOf w 19 5 = 0 then .doLoop (w.extractLsb' 9 10) (w.extractLsb' 0 9) else .illegal w
      | 5 => if bitsOf w 10 14 = 0 then .rep (w.extractLsb' 0 10) else .illegal w
      | 6 => if bitsOf w 0 18 = 0 then .repReg (w.extractLsb' 18 6) else .illegal w
      | 7 => if bitsOf w 0 11 = 0 then .inj (w.extractLsb' 21 3) (w.extractLsb' 18 3) (w.extractLsb' 17 1)
              (w.extractLsb' 11 6) else .illegal w
      | _ => .illegal w

/-- The instruction a word encodes; a reserved encoding is `illegal` (R228). -/
def decodeMac (w : Word) : MacIns :=
  let i := macFields w
  if macReserved i then .illegal w else i

/-- Two loads of one instruction name one register (R212): the loader rejects the word. -/
def macDoubleLoad (i : MacIns) : Bool :=
  let m : Moves := match i with
    | .arith op _ _ mv => match op with
      | .tap | .tapn => {}
      | _ => movesOfMV mv
    | .mvx f => movesOfMVX f
    | _ => {}
  let rs := (match m.x with | some a => if a.store then [] else [a.reg] | none => [])
    ++ (match m.y with | some a => if a.store then [] else [a.reg] | none => [])
    ++ (match m.inp with | some (r, _) => [r] | none => [])
    ++ (match m.par with | some (r, _, _) => [r] | none => [])
  decide (rs ≠ rs.dedup)

/-- Is it a branch (R221)? -/
def isBranch : MacIns → Bool
  | .bra _ | .bcc _ _ => true
  | _ => false

end Sys2Proof.Machine
end

