-- ==== Sys2Proof/Machine/Mac.lean ====
section
/-! DEFINITION. One issue cycle of a MAC cell: register access (R204, R205), address generation (R176, R177), the four
stages D, M, E and A (R185, R226, R227), the accumulator operations (R169 to R174, R208, R209) and the sequencing of
DO, REP and branches (R187 to R189, R221 to R223). -/

namespace Sys2Proof.Machine

/-! ### Registers -/

/-- Data register V0–V3. -/
def ctxV (c : MacCtx) (i : Nat) : Q :=
  match i with
  | 0 => c.v0 | 1 => c.v1 | 2 => c.v2 | _ => c.v3

/-- Write data register V0–V3. -/
def ctxSetV (c : MacCtx) (i : Nat) (x : Q) : MacCtx :=
  match i with
  | 0 => { c with v0 := x } | 1 => { c with v1 := x } | 2 => { c with v2 := x } | _ => { c with v3 := x }

/-- Accumulator E0 or E1. -/
def ctxE (c : MacCtx) (i : Nat) : BitVec 56 := if i = 0 then c.e0 else c.e1

/-- Write accumulator E0 or E1. -/
def ctxSetE (c : MacCtx) (i : Nat) (x : BitVec 56) : MacCtx := if i = 0 then { c with e0 := x } else { c with e1 := x }

/-- Set or clear a bit of SR. -/
def srPut (sr : BitVec 16) (i : Nat) (b : Bool) : BitVec 16 :=
  if b then sr ||| (1#16 <<< i) else sr &&& ~~~(1#16 <<< i)

/-- A 24-bit value loaded into an accumulator (R172). -/
def alignQ (x : Q) : BitVec 56 := x.signExtend 56 <<< 24

/-- An accumulator result reduced to 24 bits (R173): the value, and whether SR.LIM sets. -/
def reduceE (sat : Bool) (e : BitVec 56) : Q × Bool :=
  if sat then
    if e.toInt < -(2 ^ 47) then (0x800000, true)
    else if 2 ^ 47 ≤ e.toInt then (0x7FFFFF, true)
    else (e.extractLsb' 24 24, false)
  else (e.extractLsb' 24 24, false)

/-- SR as a program reads it: LD is the loop depth (R168, R189). -/
def srRead (c : MacCtx) (depth : Nat) : BitVec 16 := (c.sr &&& 0x3F) ||| (BitVec.ofNat 16 depth <<< 6)

/-- The 24-bit value of a MOVE source code (R205, R218), and whether reading it sets LIM. -/
def moveSource (c : MacCtx) (depth code : Nat) : Q × Bool :=
  if code ≤ 3 then (ctxV c code, false)
  else if code ≤ 5 then reduceE (c.sr.getLsbD 5) (ctxE c (code - 4))
  else if code = 6 then ((srRead c depth).setWidth 24, false)
  else if code = 7 then (c.am.setWidth 24, false)
  else if code ≤ 15 then ((tabGet c.c 0 (code - 8)).setWidth 24, false)
  else if code ≤ 23 then ((tabGet c.h 0 (code - 16)).setWidth 24, false)
  else if code ≤ 31 then ((tabGet c.t 0 (code - 24)).signExtend 24, false)
  else if code ≤ 39 then ((tabGet c.w 0 (code - 32)).setWidth 24, false)
  else (0, false)

/-- Write an address register or AM by its code 7–39 (R205, R218). -/
def setAddrReg (c : MacCtx) (code : Nat) (x : Q) : MacCtx :=
  if code = 7 then { c with am := x.setWidth 16 }
  else if code ≤ 15 then { c with c := tabSet c.c 0 (code - 8) (x.setWidth 10) }
  else if code ≤ 23 then { c with h := tabSet c.h 0 (code - 16) (x.setWidth 10) }
  else if code ≤ 31 then { c with t := tabSet c.t 0 (code - 24) (x.setWidth 11) }
  else { c with w := tabSet c.w 0 (code - 32) (x.setWidth 10) }

/-- Write SR as a program may (R168): SAT, AOV and LIM. -/
def setSR (c : MacCtx) (x : Q) : MacCtx :=
  { c with sr := (c.sr &&& 0xFFC7) ||| (x.setWidth 16 &&& 0x0038) }

/-! ### Address generation -/

/-- Reverse the low k bits (R177). -/
def revBits (k x : Nat) : Nat := (List.range k).foldl (fun a i => a * 2 + (x / 2 ^ i) % 2) 0

/-- The exponent of the largest power of two not above len, for len up to 1,024 (R177). -/
def log2Floor (len : Nat) : Nat :=
  ((List.range 11).filter fun k => decide (2 ^ k ≤ len)).length - 1

/-- The access through pointer n with an update (R177): Cn′, and the value written back. -/
def pointerStep (c : MacCtx) (n upd : Nat) : Nat × BitVec 10 :=
  let cn := (tabGet c.c 0 n).toNat
  let w := (tabGet c.w 0 n).toNat
  let len := if w = 0 then 1024 else w
  let d : Int := match upd with
    | 0 => 0 | 1 => 1 | 2 => -1 | _ => (tabGet c.t 0 n).toInt
  match bitsOf c.am (2 * n) 2 with
  | 1 =>
    let c' := if cn < len then cn else cn % len
    (c', BitVec.ofNat 10 ((((c' : Int) + d) % (len : Int)).toNat))
  | 2 =>
    let k := log2Floor len
    let kk := 2 ^ k
    let c' := cn % kk
    if upd = 0 then (c', BitVec.ofNat 10 cn)
    else (c', BitVec.ofNat 10 (revBits k ((revBits k c' + revBits k ((d % (kk : Int)).toNat)) % kk)))
  | _ => (cn, BitVec.ofNat 10 (((cn : Int) + d) % 1024).toNat)

/-- The word of the voice's space an access reaches (R176), with the context after the pointer's update. -/
def pointerAccess (c : MacCtx) (space n upd : Nat) : Nat × MacCtx :=
  let (c', back) := pointerStep c n upd
  (((tabGet c.h 0 n).toNat + c') % space, { c with c := tabSet c.c 0 n back })

/-! ### The accumulator operations -/

/-- The product pair of S (R207). -/
def pairOf (c : MacCtx) (s : Nat) : Q × Q :=
  match s with
  | 0 => (c.v0, c.v2) | 1 => (c.v0, c.v3) | 2 => (c.v1, c.v2) | 3 => (c.v1, c.v3)
  | 4 => (c.v0, c.v1) | 5 => (c.v2, c.v3) | 6 => (c.v0, c.v0) | _ => (c.v2, c.v2)

/-- Replace bits [47:24] of an accumulator (AND, OR, EOR of R208). -/
def putUpper (d : BitVec 56) (u : Q) : BitVec 56 :=
  (d &&& 0xFF000000FFFFFF) ||| (u.setWidth 56 <<< 24)

/-- The exact result of an operation (R208) from D in A, D in E, the aligned source, the product and the count. -/
def aluExact (op : MacOp) (d dE src : BitVec 56) (prod : Int) (count : Nat) : Int :=
  match op with
  | .pmov => d.toInt
  | .mpy => prod
  | .mpyn => -prod
  | .mac | .tap => d.toInt + prod
  | .macn | .tapn => d.toInt - prod
  | .ld => src.toInt
  | .add => d.toInt + src.toInt
  | .sub => d.toInt - src.toInt
  | .neg => -dE.toInt
  | .abs => if dE.toInt < 0 then -dE.toInt else dE.toInt
  | .clr => 0
  | .shl => dE.toInt * 2 ^ count
  | .shr => dE.toInt / 2 ^ count
  | .and => (putUpper d (d.extractLsb' 24 24 &&& src.extractLsb' 24 24)).toInt
  | .or => (putUpper d (d.extractLsb' 24 24 ||| src.extractLsb' 24 24)).toInt
  | .eor => (putUpper d (d.extractLsb' 24 24 ^^^ src.extractLsb' 24 24)).toInt
  | .cmp => d.toInt - src.toInt
  | .max => if src.toInt ≤ d.toInt then d.toInt else src.toInt
  | .min => if d.toInt ≤ src.toInt then d.toInt else src.toInt
  | .clip => clampInt (-(2 ^ 47)) (2 ^ 47 - 1) dE.toInt

/-- N, Z and V of an exact result (R171, R209). -/
def setFlags (sr : BitVec 16) (r : Int) : BitVec 16 :=
  srPut (srPut (srPut sr 0 (decide (r < 0))) 1 (decide (r = 0))) 2 (decide (r < -(2 ^ 47) ∨ 2 ^ 47 ≤ r))

/-- Write an accumulator result (R170, R171): the reduced value, the flags of the stored result, and AOV when the
reduction changes the value. -/
def writeAcc (c : MacCtx) (i : Nat) (r : Int) : MacCtx :=
  let x := BitVec.ofInt 56 r
  let sr := setFlags c.sr x.toInt
  let sr := if x.toInt = r then sr else srPut sr 4 true
  { ctxSetE c i x with sr := sr }

/-! ### One cycle -/

/-- What a cell's surroundings deliver: the words of the voice's space, the size of the space V (R176), inputs by index
(`early` the value of the previous sample, R179) and parameters by index and view (R181). -/
structure MacEnv where
  space : Nat
  rdX : Nat → Q
  rdY : Nat → Q
  inp : Nat → Bool → Q
  par : Nat → Bool → Q

/-- What a cycle does outside the cell: memory writes (Y?, word, value), whether an accumulator result wrapped (R170), and the
faults of R196. -/
structure MacFx where
  writes : List (Bool × Nat × Q) := []
  wraps : Bool := false
  loopFault : Bool := false
  portFault : Bool := false
  illegal : Bool := false
  deriving DecidableEq, Repr

/-- The moves of an instruction other than TAP (R210, R215). -/
def movesOf : MacIns → Moves
  | .arith op _ _ mv => match op with
    | .tap | .tapn => movesOfTap mv
    | _ => movesOfMV mv
  | .mvx f => movesOfMVX f
  | _ => {}

/-- Is the instruction a TAP or TAPN? -/
def isTap : MacIns → Bool
  | .arith .tap _ _ _ | .arith .tapn _ _ _ => true
  | _ => false

/-- The A stage of an instruction on the context (R226), with its output latch (R180) and memory writes. -/
def stageA (f : Flight) (c : MacCtx) (latch : Tab Q) : MacCtx × Tab Q × List (Bool × Nat × Q) :=
  let c := if f.lim then { c with sr := srPut c.sr 3 true } else c
  match f.ins with
  | .arith op d s _ =>
    let di := d.toNat
    let prod : Int := 2 * f.a.toInt * f.b.toInt
    let r := aluExact op (ctxE c di) f.dv f.src prod (s.toNat + 1)
    let c := match op with
      | .pmov => c
      | .cmp => { c with sr := setFlags c.sr r }
      | _ => writeAcc c di r
    let m := movesOf f.ins
    if isTap f.ins then (c, latch, [(false, f.xa, f.a)])
    else
      let wx := match m.x with
        | some a => if a.store then [(false, f.xa, f.xs)] else []
        | none => []
      let wy := match m.y with
        | some a => if a.store then [(true, f.ya, f.ys)] else []
        | none => []
      match m.outw with
      | some (_, k) =>
        let c := { c with out := tabSet c.out 0 k f.os }
        let l := if f.cyc ≤ 128 * (k / 4) + 124 then tabSet latch 0 k f.os else latch
        (c, l, wx ++ wy)
      | none => (c, latch, wx ++ wy)
  | .ldi d imm =>
    match d.toNat with
    | 4 => (writeAcc c 0 (alignQ imm).toInt, latch, [])
    | 5 => (writeAcc c 1 (alignQ imm).toInt, latch, [])
    | 6 => (setSR c imm, latch, [])
    | _ => (c, latch, [])
  | .move d _ =>
    let v := f.src.extractLsb' 0 24
    let n := d.toNat
    if n ≤ 3 then (ctxSetV c n v, latch, [])
    else if n ≤ 5 then (writeAcc c (n - 4) (alignQ v).toInt, latch, [])
    else if n = 6 then (setSR c v, latch, [])
    else (c, latch, [])
  | _ => (c, latch, [])

/-- Does the A stage of an instruction reduce an accumulator result to another value (R170)? -/
def stageWraps (f : Flight) (c : MacCtx) : Bool :=
  match f.ins with
  | .arith op d s _ =>
    let r := aluExact op (ctxE c d.toNat) f.dv f.src (2 * f.a.toInt * f.b.toInt) (s.toNat + 1)
    decide (op ≠ .pmov) && decide (op ≠ .cmp) && decide ((BitVec.ofInt 56 r).toInt ≠ r)
  | _ => false

/-- The E stage: accumulators as sources, the instruction's own accumulator where R208 reads it in E, SR as a MOVE
source, SAT for stores (R226). -/
def stageE (f : Flight) (c : MacCtx) (depth : Nat) : Flight :=
  let sat := c.sr.getLsbD 5
  match f.ins with
  | .arith _ d s _ =>
    let m := movesOf f.ins
    let f := { f with dv := ctxE c d.toNat }
    let f := if s.toNat = 4 then { f with src := ctxE c (1 - d.toNat) } else f
    let f := match m.x with
      | some a => if a.store && decide (4 ≤ a.reg) then
          { f with xs := (reduceE sat (ctxE c (a.reg - 4))).1, lim := f.lim || (reduceE sat (ctxE c (a.reg - 4))).2 } else f
      | none => f
    let f := match m.y with
      | some a => if a.store && decide (4 ≤ a.reg) then
          { f with ys := (reduceE sat (ctxE c (a.reg - 4))).1, lim := f.lim || (reduceE sat (ctxE c (a.reg - 4))).2 } else f
      | none => f
    match m.outw with
    | some (o, _) => if 4 ≤ o then
        { f with os := (reduceE sat (ctxE c (o - 4))).1, lim := f.lim || (reduceE sat (ctxE c (o - 4))).2 } else f
    | none => f
  | .move d sc =>
    if d.toNat ≤ 6 && decide (4 ≤ sc.toNat) && decide (sc.toNat ≤ 6) then
      let (v, l) := moveSource c depth sc.toNat
      { f with src := v.setWidth 56, lim := f.lim || l }
    else f
  | _ => f

/-- The M stage (R226): operands, store and output sources from V0–V3, MOVE sources, and the loads; the result is the
flight and the loads of V0–V3 in rising priority (R212). -/
def stageM (env : MacEnv) (f : Flight) (c : MacCtx) (mw : List (Bool × Nat × Q)) (link : Nat) :
    Flight × List (Nat × Q) :=
  let rd (isY : Bool) (a : Nat) : Q :=
    match mw.find? fun w => w.1 == isY && decide (w.2.1 = a) with
    | some w => w.2.2
    | none => if isY then env.rdY a else env.rdX a
  let m := movesOf f.ins
  let early (e : Nat) : Bool := decide (f.cyc < 128 * (e / 8))
  let inputVal (e : Nat) : Q := if 8 * link ≤ e then 0 else env.inp e (early e)
  let loads :=
    (match m.par with | some (r, v, i) => [(r, env.par i v)] | none => [])
    ++ (match m.inp with | some (r, e) => [(r, inputVal e)] | none => [])
    ++ (match m.x with | some a => if a.store then [] else [(a.reg, rd false f.xa)] | none => [])
    ++ (match m.y with | some a => if a.store then [] else [(a.reg, rd true f.ya)] | none => [])
  match f.ins with
  | .arith op _ s _ =>
    let ab := if isTap f.ins then (c.v0, c.v2) else pairOf c s.toNat
    let f := { f with a := ab.1, b := ab.2 }
    let f := if s.toNat ≤ 3 && decide (macOpS op = 2) then { f with src := alignQ (ctxV c s.toNat) } else f
    let f := match m.x with
      | some a => if a.store && decide (a.reg ≤ 3) then { f with xs := ctxV c a.reg } else f
      | none => f
    let f := match m.y with
      | some a => if a.store && decide (a.reg ≤ 3) then { f with ys := ctxV c a.reg } else f
      | none => f
    let f := match m.outw with
      | some (o, _) => if o ≤ 3 then { f with os := ctxV c o } else f
      | none => f
    (f, loads)
  | .mvx _ => (f, loads)
  | .ldi d imm => (f, if d.toNat ≤ 3 then [(d.toNat, imm)] else [])
  | .move d sc =>
    if d.toNat ≤ 6 && !(decide (4 ≤ sc.toNat) && decide (sc.toNat ≤ 6)) then
      ({ f with src := (moveSource c 0 sc.toNat).1.setWidth 56 }, [])
    else (f, [])
  | _ => (f, [])

/-- The D stage (R226): addresses, pointer updates, and writes of address registers. -/
def stageD (env : MacEnv) (ins : MacIns) (cyc depth : Nat) (c : MacCtx) : Flight × MacCtx :=
  let f : Flight := { ins := ins, cyc := cyc }
  match ins with
  | .arith _ _ _ _ | .mvx _ =>
    let m := movesOf ins
    let (f, c) := match m.x with
      | some a => let (w, c) := pointerAccess c env.space a.ptr a.upd; ({ f with xa := w }, c)
      | none => (f, c)
    match m.y with
    | some a => let (w, c) := pointerAccess c env.space a.ptr a.upd; ({ f with ya := w }, c)
    | none => (f, c)
  | .ldi d imm =>
    let n := bitsOf imm 21 3
    match d.toNat with
    | 7 => (f, setAddrReg c 7 imm)
    | 8 => (f, setAddrReg c (8 + n) (imm &&& 0x7FF))
    | 9 => (f, setAddrReg c (16 + n) (imm &&& 0x7FF))
    | 10 => (f, setAddrReg c (24 + n) (imm &&& 0x7FF))
    | 11 => (f, setAddrReg c (32 + n) (imm &&& 0x7FF))
    | _ => (f, c)
  | .move d sc =>
    if 7 ≤ d.toNat then
      let (v, l) := moveSource c depth sc.toNat
      ({ f with lim := l }, setAddrReg c d.toNat v)
    else (f, c)
  | _ => (f, c)

/-- Step the injection queue one cycle (R224, R226): the entry in its M stage takes a V source, the entry in its E stage
an accumulator source. -/
def injAge (c : MacCtx) (q : List Inject) : List Inject :=
  q.map fun e =>
    let age := e.age + 1
    let v := if age = 1 ∧ e.src ≤ 3 then some (ctxV c e.src)
      else if age = 2 ∧ 4 ≤ e.src then some (reduceE (c.sr.getLsbD 5) (ctxE c (e.src - 4))).1
      else e.value
    { e with age := age, value := v }

/-- The injection in its E stage sets LIM when its accumulator source clamps (R173). -/
def injLim (c : MacCtx) (f : Flight) : Flight :=
  match f.ins with
  | .inj s _ _ _ => if 4 ≤ s.toNat then { f with lim := (reduceE (c.sr.getLsbD 5) (ctxE c (s.toNat - 4))).2 } else f
  | _ => f

/-- Apply the loads of V0–V3 of an M stage in order. -/
def applyLoads (c : MacCtx) (ls : List (Nat × Q)) : MacCtx := ls.foldl (fun c l => ctxSetV c l.1 l.2) c

/-- One cycle: A, E and M of the instructions in flight and D of the one that issues, if any. Reads see the values
before the cycle, but for a memory word an A stage writes (R186); writes land at its end, the later-issued last (R227).
DEDUCED (assumption 92). -/
def macCycle (env : MacEnv) (m : MacCell) (ins : Option MacIns) : MacCell × MacFx :=
  let c0 := m.ctx
  let depth := m.stack.length
  let (cA, latch, mw) := match m.f3 with
    | some f => stageA f c0 m.latch
    | none => (c0, m.latch, [])
  let f3 := m.f2.map fun f => injLim c0 (stageE f c0 depth)
  let fm := m.f1.map fun f => stageM env f c0 mw m.link
  let fd := ins.map fun i => stageD env i m.cyc depth c0
  let cM := match fm with
    | some (_, ls) => applyLoads cA ls
    | none => cA
  let cD := match fd with
    | some (_, d) => { cM with c := d.c, h := d.h, t := d.t, w := d.w, am := d.am }
    | none => cM
  ({ m with
      ctx := cD, latch := latch, f3 := f3, f2 := fm.map (·.1), f1 := fd.map (·.1), cyc := m.cyc + 1
      injq := injAge c0 m.injq },
    { writes := mw, wraps := match m.f3 with | some f => stageWraps f c0 | none => false })

/-! ### Sequencing -/

/-- The issue that follows the last issue at address `pc` when no branch is due (R188, R222): loop back, pop, or go on. -/
def seqNext (m : MacCell) (pc : Nat) : MacCell :=
  match m.stack with
  | e :: r =>
    if e.stop = pc then
      if 2 ≤ e.count then { m with pc := e.start, stack := { e with count := e.count - 1 } :: r, loopBack := true }
      else { m with pc := (pc + 1) % 512, stack := r, loopBack := false }
    else { m with pc := (pc + 1) % 512, loopBack := false }
  | [] => { m with pc := (pc + 1) % 512, loopBack := false }

/-- The branches under way, oldest first: delay slots left, taken, target (R187). -/
def MacCell.branches (m : MacCell) : List (Nat × Bool × Nat) :=
  (if m.brSlots = 0 then [] else [(m.brSlots, m.brTaken, m.brTarget)]) ++ m.brMore

/-- Store the branches under way. -/
def MacCell.setBranches (m : MacCell) (l : List (Nat × Bool × Nat)) : MacCell :=
  match l with
  | [] => { m with brSlots := 0, brMore := [] }
  | b :: r => { m with brSlots := b.1, brTaken := b.2.1, brTarget := b.2.2, brMore := r }

/-- An iteration of a repeated instruction that is not its last (R223). DEDUCED (assumption 92). -/
def seqRepeat (m : MacCell) : MacCell := { m with rep := m.rep - 1, loopBack := false }

/-- One issue, each iteration of a REP among them, counts a delay slot of every branch under way and starts its own, if it is one
(R187, R221, R223): the target of a taken branch whose slots are over issues next; else REP's remaining iterations do, and then the
issue goes on by `go`. DEDUCED (assumption 92). -/
def seqBranch (m : MacCell) (new : List (Nat × Bool × Nat)) (go : MacCell → MacCell) : MacCell :=
  let left := ((m.branches.filter fun b => decide (b.1 ≠ 1)).map fun b => (b.1 - 1, b.2)) ++ new
  match m.branches.find? fun b => decide (b.1 = 1) && b.2.1 with
  | some b => { m with pc := b.2.2, rep := 0, loopBack := false }.setBranches left
  | none => (if 2 ≤ m.rep then seqRepeat m else go { m with rep := 0 }).setBranches left

/-- After an issue at m.pc: the delay slots of branches, REP's remaining iterations, then seqNext (R187, R222, R223). -/
def seqAfter (m : MacCell) : MacCell := seqBranch m [] fun m => seqNext m m.pc

/-- After the issue of a branch at m.pc (R187, R221). -/
def seqJump (m : MacCell) (taken : Bool) (target : Nat) : MacCell :=
  seqBranch m [(2, taken, target)] fun m => seqNext m m.pc

/-- On to the next address, into a loop body or to the instruction that a REP repeats. -/
def seqInto (m : MacCell) : MacCell := { m with pc := (m.pc + 1) % 512, loopBack := false }

/-- The condition of a Bcc on N, Z and V (R221). -/
def condHolds (sr : BitVec 16) (c : Nat) : Bool :=
  let n := sr.getLsbD 0
  let z := sr.getLsbD 1
  let v := sr.getLsbD 2
  match c with
  | 0 => z | 1 => !z | 2 => n | 3 => !n | 4 => v | 5 => !v | 6 => !n && !z | 7 => n || z | _ => false

/-- The register count of REP (R223): V0–V3 unsigned 24-bit, Cn, Hn and Wn unsigned 10-bit. -/
def repCount (c : MacCtx) (code : Nat) : Nat := (moveSource c 0 code).1.toNat

/-- A field where 0 means 1,024 (R219). -/
def orMax (n : BitVec 10) : Nat := if n.toNat = 0 then 1024 else n.toNat

/-- The effect of an issue on the sequencer, after its first cycle: branches, DO, REP (R221 to R223). `c0` is the
context its D stage read. The flag says LOOP was raised. DEDUCED (assumption 92). -/
def macSequence (ins : MacIns) (c0 : MacCtx) (m : MacCell) : MacCell × Bool :=
  match ins with
  | .bra t => (seqJump m true t.toNat, false)
  | .bcc c t => (seqJump m (condHolds c0.sr c.toNat) t.toNat, false)
  | .doLoop n e =>
    if 3 ≤ m.stack.length then (seqAfter m, true)
    else
      let m1 : MacCell := { m with stack := { start := (m.pc + 1) % 512, stop := e.toNat, count := orMax n } :: m.stack }
      (seqBranch m1 [] seqInto, false)
  | .rep n => (seqBranch m [] fun m => seqInto { m with rep := orMax n }, false)
  | .repReg r =>
    let n := repCount c0 r.toNat
    if n = 0 then
      (seqBranch m [] fun m => seqNext { m with pc := (m.pc + 1) % 512 } ((m.pc + 1) % 512), false)
    else (seqBranch m [] fun m => seqInto { m with rep := min n 1024 }, decide (1024 < n))
  | _ => (seqAfter m, false)

/-- Queue an injection at its issue (R182, R183): a page select of LINK or more is a PORT fault, and so is a fifth
waiting entry; a glaze pass's injection is discarded with no fault. -/
def macInject (ins : MacIns) (isGlaze : Bool) (m : MacCell) : MacCell × Bool :=
  match ins with
  | .inj s p v w =>
    if isGlaze then (m, false)
    else if m.link ≤ p.toNat then (m, true)
    else if 4 ≤ m.injq.length then (m, true)
    else
      ({ m with injq := m.injq ++ [{ page := p.toNat, view := v.getLsbD 0, word := w.toNat, age := 0, src := s.toNat
                                     value := none }] }, false)
  | _ => (m, false)

/-- Can the cell issue: a pass runs, no halt or fence holds it, and the budget has a cycle left (R90, R194, R195)? -/
def macCanIssue (m : MacCell) : Bool :=
  m.running && !m.halted && !m.fenced && decide (m.cyc < m.budget)

/-- Issue one instruction other than END (R185 to R189, R221 to R224). A reserved encoding executes as a one-cycle
no-operation and raises ILLEGAL (R228). A DO takes a second issue cycle (R222). -/
def macIssue (env : MacEnv) (isGlaze : Bool) (m : MacCell) (ins0 : MacIns) : MacCell × MacFx :=
  let bad := macReserved ins0
  let ins := if bad then MacIns.nop else ins0
  let c0 := m.ctx
  let (m1, fx) := macCycle env m (some (if (macInject ins isGlaze m).2 then MacIns.nop else ins))
  let (m2, port) := macInject ins isGlaze m1
  let (m3, loop) := macSequence ins c0 { m2 with pc := m.pc, delivered := false }
  let fx := { fx with loopFault := loop, portFault := port, illegal := bad }
  match ins with
  | .doLoop _ _ =>
    if m3.cyc < m3.budget then
      let env2 : MacEnv := { env with
        rdX := fun a => match fx.writes.find? fun w => w.1 == false && decide (w.2.1 = a) with
          | some w => w.2.2 | none => env.rdX a
        rdY := fun a => match fx.writes.find? fun w => w.1 && decide (w.2.1 = a) with
          | some w => w.2.2 | none => env.rdY a }
      let (m4, fx2) := macCycle env2 m3 none
      (m4, { fx with writes := fx.writes ++ fx2.writes, wraps := fx.wraps || fx2.wraps })
    else (m3, fx)
  | _ => (m3, fx)

/-- The drain of R188: up to three further cycles without an issue, with all their memory writes in order. -/
def macDrain (env : MacEnv) (m : MacCell) : MacCell × MacFx :=
  let step (env : MacEnv) (m : MacCell) (x : MacFx) : MacCell × MacFx :=
    let env' : MacEnv := { env with
      rdX := fun a => match x.writes.reverse.find? fun w => w.1 == false && decide (w.2.1 = a) with
        | some w => w.2.2 | none => env.rdX a
      rdY := fun a => match x.writes.reverse.find? fun w => w.1 && decide (w.2.1 = a) with
        | some w => w.2.2 | none => env.rdY a }
    let (m', fx) := macCycle env' m none
    (m', { x with writes := x.writes ++ fx.writes, wraps := x.wraps || fx.wraps })
  let (m1, w1) := step env m {}
  let (m2, w2) := step env m1 w1
  step env m2 w2

/-- Is the boundary before the next issue an interruptible point (R191, R192)? -/
def macInterruptible (closed : Bool) (m : MacCell) : Bool :=
  if !m.running then true
  else decide (m.rep = 0) && decide (m.brSlots = 0) && (m.stack.isEmpty || (!closed && m.loopBack))

end Sys2Proof.Machine
end

