-- ==== Sys2Proof/Machine/Cells.lean ====
section
/-! DEFINITION. The passes of the cells of a block (chapters "Blocks, slots and the pass budget", R81 to R96 and R102 to R109,
"Phase cells and oscillators" and "Contours and the modulation matrix"): wires, pages, the contour, matrix and phase
passes and their glaze forms. -/

namespace Sys2Proof.Machine

/-! ### Values of outputs -/

/-- The value of an output for sample n; a sample with no pass holds the value before (R90). -/
def Hist.at (h : Hist) (n : Nat) : Q :=
  if h.at_ ≤ n then h.v0 else if h.at_ = n + 1 then h.v1 else if h.at_ = n + 2 then h.v2 else 0

/-- Record the value of sample n. -/
def Hist.push (h : Hist) (n : Nat) (v : Q) : Hist :=
  if h.at_ = n then { h with v0 := v }
  else if n < h.at_ then (if h.at_ = n + 1 then { h with v1 := v } else h)
  else if h.at_ + 1 = n then { at_ := n, v0 := v, v1 := h.v0, v2 := h.v1 }
  else { at_ := n, v0 := v, v1 := h.v0, v2 := h.v0 }

/-- Output of a cell of a slot for sample n. -/
def SlotSt.outAt (x : SlotSt) (cell port n : Nat) : Q := (tabGet x.outs {} (16 * cell + port)).at n

/-- Record outputs of a cell for sample n, port by port from 0. -/
def SlotSt.pushOuts (x : SlotSt) (cell n : Nat) (vs : List Q) : SlotSt :=
  (List.range vs.length).foldl (fun x i =>
    { x with outs := tabSet x.outs {} (16 * cell + i) ((tabGet x.outs {} (16 * cell + i)).push n (vs.getD i 0)) }) x

/-- Has a cell run a pass for the occupant of a slot? -/
def SlotSt.ran (x : SlotSt) (cell : Nat) : Bool := x.outs.any fun p => decide (p.1 = 16 * cell)

/-- Is the pass of sample n the occupant's first in a cell (R101, R142)? One that a halt of its block has put off is (R194). -/
def SlotSt.firstPass (x : SlotSt) (cell n : Nat) : Bool := decide (n = x.first) || !x.ran cell

/-- The stage of a cell code (R81); the block input stands before every stage. -/
def cellStage (code : Nat) : Nat :=
  if code ≤ 3 then 2 else if code = 4 then 3 else if code = 5 then 4 else if code = 6 then 0 else if code = 7 then 1
  else if code = 9 then 5 else 0

/-- The wire into an input: source cell and port (R58, R59). -/
def wireInto (wires : List (BitVec 16)) (cell port : Nat) : Option (Nat × Nat) :=
  (wires.find? fun w => decide ((w.extractLsb' 12 4).toNat = cell) && decide ((w.extractLsb' 8 4).toNat = port)).map fun w =>
    ((w.extractLsb' 4 4).toNat, (w.extractLsb' 0 4).toNat)

/-- The value a wire delivers to an input for the pass of sample n (R83); an unwired input reads 0. -/
def wireVal (wires : List (BitVec 16)) (x : SlotSt) (cell port n : Nat) : Q :=
  match wireInto wires cell port with
  | none => 0
  | some (sc, sp) =>
    if sc = 8 ∨ cellStage sc < cellStage cell then x.outAt sc sp n
    else if n = 0 ∨ n ≤ x.first then 0 else x.outAt sc sp (n - 1)

/-- A slot with the outputs that the latch of R180 holds for it in a MAC pass that still runs, before the pass ends: those of a
member whose latching cycle has gone by. DEDUCED (assumption 98). -/
def Chip.slotNow (c : Chip) (key : Nat) : SlotSt :=
  (c.blk (key / 40)).cells.foldl (fun x p =>
    let m := p.2
    let i := m.keys.idxOf key
    if m.running && decide (i < m.keys.length) && decide (128 * i + 124 < m.cyc) then
      x.pushOuts (4 + m.kind) m.smp ((List.range 4).map fun q => tabGet m.latch 0 (4 * i + q))
    else x) (c.slot key)

/-! ### Which slot a pass serves -/

/-- Does the pass of slot s at stage k for sample n fall in the time of sample n + 1 (R85)? DEDUCED (assumption 25). -/
def Chip.passLate (c : Chip) (s k : Nat) : Bool := decide (c.slotCount ≤ s + k)

/-- The sample of the pass of slot s at stage k that runs now (R85). -/
def Chip.passSmp (c : Chip) (s k : Nat) : Nat := if c.passLate s k then c.clk.smp - 1 else c.clk.smp

/-- The key of the slot that pass serves: the occupant of the sample before, where a dispatch replaced it. -/
def Chip.passKey (c : Chip) (r b s k : Nat) : Nat :=
  let key := slotKey r b s
  if c.passLate s k then tabGet c.late key key else key

/-- The key of member 0 of the voice whose member stands at a key. -/
def SlotSt.baseKey (x : SlotSt) (key : Nat) : Nat :=
  match x.role with
  | .member base _ => base
  | .glaze m joined => if m = 1 && joined then key - 1 else key
  | _ => key

/-- The member index of a slot. -/
def SlotSt.memberNo (x : SlotSt) : Nat :=
  match x.role with
  | .member _ m => m
  | .glaze m _ => m
  | _ => 0

/-- Is it a bus slot (R108)? -/
def SlotSt.isBus (x : SlotSt) : Bool := match x.role with | .bus => true | _ => false

/-- Is it a glaze context (R102)? -/
def SlotSt.isGlaze (x : SlotSt) : Bool := match x.role with | .glaze _ _ => true | _ => false

/-- Does anything run in the slot? -/
def SlotSt.occupied (x : SlotSt) : Bool := match x.role with | .free => false | _ => true

/-- A page of a slot in force for a pass: the front copy as it stood at the boundary of the pass's sample (R96); a glaze
keeps its frozen page (R102). -/
def SlotSt.page (x : SlotSt) (late : Bool) (w : Nat) : Word :=
  if late && !x.isGlaze then tabGet x.prev 0 w else tabGet x.front 0 w

/-- A word of the part page a slot reads (R96, R247, R252). -/
def Chip.partPageWord (c : Chip) (x : SlotSt) (late : Bool) (w : Nat) : Word :=
  if x.isBus then 0
  else if x.isGlaze && !late then tabGet x.partPage 0 w
  else tabGet (if late then (c.part x.part).prev else (c.part x.part).front) 0 w

/-- A part LFO as a slot reads it (R245, R247). -/
def Chip.partLfoVal (c : Chip) (x : SlotSt) (late : Bool) (q : Nat) : Q :=
  if x.isBus then 0
  else if x.isGlaze && !late then tabGet x.partLfo 0 q
  else let l : PartLfo := tabGet (c.part x.part).lfos {} q; if late then l.last else l.val

/-! ### Faults of cells -/

/-- Record a fault of a block (R126, R196): SLOT, CELL and CODE, its flag, and the block-fault source (R121). -/
def Chip.blkFault (c : Chip) (r b slot cell code : Nat) : Chip :=
  let c := ((c.setFld (BLK_FAULT_SLOT r b) slot).setFld (BLK_FAULT_CELL r b) cell).setFld (BLK_FAULT_CODE r b) code
  (if code = 0x10 then c.set1 (BLK_FAULT_BUDGET r b) else c.set1 (BLK_FAULT_OTHER r b)).raise (112 + 4 * r)

/-- The cell's next step comes ahead of the walk (R552, R558). -/
def Chip.stepAhead (c : Chip) (r b cell : Nat) : Chip :=
  let w := c.rep.walk
  let p := (Fin.ofNat 4 r, Fin.ofNat 24 b, cell)
  if p ∈ w.ahead then c
  else { c with rep := { c.rep with walk := { w with ahead := w.ahead ++ [p] } } }

/-- A read failed its parity check (R558); the standby cell's passes for glaze slots record CELL 8 (R126).
DESIGN CHOICE (assumption 19). -/
def Chip.parityFault (c : Chip) (r b slot cell : Nat) : Chip := (c.blkFault r b slot cell 0x16).stepAhead r b cell

/-- The slot index under which a context's occupant started: a late pass may find it renamed (R85, R104). -/
def Chip.homeSlot (c : Chip) (key : Nat) : Nat :=
  match c.late.find? fun p => decide (p.2 = key) with
  | some p => p.1 % 40
  | none => key % 40

/-- May the standby cell run glaze passes? It may until a step's glazes have cleared, but not while it stands in for a cell, nor
once it has failed (R103, R553, R555). -/
def Block.glazes (k : Block) : Bool :=
  decide (k.sc ≠ .primary ∧ k.sc ≠ .shadowBack ∧ k.sc ≠ .standIn) && !k.scFailed

/-! ### Blocks that run passes -/

/-- Does a block run passes: it holds a template, is awake, and nothing halts or fences it (R86, R117, R194, R550)? -/
def Block.runs (k : Block) : Bool := k.content.isSome && (decide (k.st = .running) || decide (k.st = .empty)) && !k.halted && !k.fenced

/-- The content of a running block. -/
def Chip.running (c : Chip) (r b : Nat) : Option Content :=
  let k := c.blk (blkKey r b)
  if k.runs then k.content else none

/-! ### The contour pass -/

/-- A rate or amount destination as a generator reads it: of the sample before, where a route targets it (R235, R255). -/
def SlotSt.genDest (x : SlotSt) (routes : List Word) (n d : Nat) : Option Q :=
  if x.firstPass 7 n then none else if routed routes d then some (tabGet x.dest 0 d) else none

/-- What a contour pass of the slot at a key reads. -/
def Chip.ccEnv (c : Chip) (t : Content) (key : Nat) (x base : SlotSt) (n : Nat) : CcEnv :=
  { ctr := c.ctr, site := 0, fs := c.fs, beat := c.tempo.len, first := x.firstPass 6 n, member := x.memberNo
    gate := x.isBus || base.gate, gateBefore := x.gateWas, page := base.page false
    inNow := fun i => wireVal t.wires (c.slotNow key) 6 i n, inPrev := fun i => tabGet x.ccIn 0 i
    rate := fun g => x.genDest t.routes n (56 + g), amount := fun g => x.genDest t.routes n (64 + g) }

/-- A mode, route or program list with some of its entries off for the pass (R558). -/
def blank (ws : List Word) (bad : List Nat) (off : Word) : List Word :=
  (List.range ws.length).map fun i => if i ∈ bad then off else ws.getD i 0

/-- The contour pass of the slot at a key for sample n (R230). -/
def Chip.contourAt (c : Chip) (t : Content) (key n : Nat) (bad : List Nat) : Chip :=
  let x := c.slot key
  let base := c.slot (x.baseKey key)
  let e := c.ccEnv t key x base n
  let (gens, vs) := ccPass e (blank t.contour bad 0) x.gens
  let gens := bad.foldl (fun g i => tabSet g {} i (tabGet x.gens {} i)) gens
  let ccIn := tabSet (tabSet x.ccIn 0 0 (e.inNow 0)) 0 1 (e.inNow 1)
  let rand := if e.first then (Config.pepper c.ctr 9000 >>> 8).setWidth 24 else x.rand
  let y : SlotSt := { x with gens := gens, ccIn := ccIn, gateWas := e.gate, rand := rand }
  c.setSlot key (y.pushOuts 6 n vs)

/-! ### The matrix pass -/

/-- What a matrix pass of the slot at a key reads (R251). -/
def Chip.xcEnv (c : Chip) (t : Content) (key : Nat) (x base : SlotSt) (late : Bool) (n : Nat) : XcEnv :=
  { bus := x.isBus, first := x.firstPass 7 n, member := x.memberNo, gate := base.gateWas, rand := base.rand
    gen := fun g => x.outAt 6 g n, inp := fun i => wireVal t.wires (c.slotNow key) 7 i n
    lfo := fun q => c.partLfoVal x late q, page := base.page late, part := fun w => c.partPageWord x late w
    scratch := fun i => tabGet x.dest 0 (88 + i) }

/-- The exports of member 0 (R256) from slot s of a block; glaze passes, which name no slot, never export (R257). -/
def SlotSt.exports (x : SlotSt) (low : Option Nat) (page : Nat → Word) (routes : List Word) (dest : Tab Q) : List CvExport :=
  match low with
  | none => []
  | some low =>
    if x.memberNo ≠ 0 then []
    else
      let idx := match x.voice with
        | some v => v.expIdx
        | none => 0
      (List.range 8).filterMap fun e => (exportChannel page routes idx e).map fun ch =>
        { chan := ch, low := low, port := e, value := tabGet dest 0 (80 + e) }

/-- The matrix pass of the slot at a key for sample n (R249, R254); `low` is handle bits [10:0] of the slot whose pass it is. -/
def Chip.matrixAt (c : Chip) (t : Content) (key n : Nat) (late : Bool) (bad : List Nat) (low : Option Nat) : Chip :=
  let x := c.slot key
  let base := c.slot (x.baseKey key)
  let e := c.xcEnv t key x base late n
  let routes := blank t.routes bad 0xFE000000
  let dest := xcPass routes (xcSource e) e.page
  let dests := (List.range 24).foldl (fun d i =>
    tabSet d {} (72 + i) ((tabGet d {} (72 + i)).push n (tabGet dest 0 (72 + i)))) x.dests
  let y : SlotSt := { x with dest := dest, dests := dests }
  let y := y.pushOuts 7 n ((List.range 8).map fun i => tabGet dest 0 (48 + i))
  { c.setSlot key y with cvNew := c.cvNew ++ x.exports low e.page routes dest }

/-! ### The phase pass -/

/-- A word of the table cache in a sample; none where its line is not resident, or has only arrived in that sample (R115). -/
def Block.cacheWord (k : Block) (now w : Nat) : Option Word :=
  (k.cache.find? fun l => decide (l.line = w / 16) && decide (l.ready ≤ now)).map fun l => l.words.getD (w % 16) 0

/-- The ring opened for an operator of the voice that a slot is about to start (R459). -/
def RegionMem.ringFor (m : RegionMem) (b slot op : Nat) : Option Nat :=
  (m.rings.find? fun p => match p.2 with
    | some r => decide (r.block = b) && decide (r.slot = slot) && decide (r.op = op) && !r.bound
    | none => false).map (·.1)

/-- Does a ring hold word w of playing order: the newest refill that wrote its place wrote it (R460, R461)? -/
def Ring.holds (g : Ring) (w : Nat) : Bool :=
  match g.fills.find? fun f => decide ((w % 1024 + 1024 - f % 1024) % 1024 < 256) with
  | some f => decide (f ≤ w ∧ w < f + 256)
  | none => false

/-- A refill has written 256 words of playing order from word f on (R461); what it has overwritten whole is gone. -/
def Ring.filled (g : Ring) (f : Nat) : Ring := { g with fills := f :: g.fills.filter fun e => decide (e ≠ f ∧ f < e + 1024) }

/-- The ring word of frame q of playing order, channel ch (R460). -/
def ringWord (stereo : Bool) (ch q : Nat) : Nat := if stereo then 2 * q + ch else q

/-- Frame q of a ring in playing order, channel ch: there once a refill has brought it (R460, R461). -/
def ringFrame (m : MemState) (x : RegionMem) (r : Nat) (stereo : Bool) (ring ch q : Nat) : Option Q :=
  match tabGet x.rings none ring with
  | none => none
  | some g =>
    let w := ringWord stereo ch q
    if g.holds w then
      some (wordQ (m.rd (contentAddr r (0xC0000 + ring * 1024 + w % 1024))))
    else none

/-- What a phase pass of cell u of a slot reads. -/
def phEnvOf (s : MemState) (c : Chip) (t : Content) (r b u key n : Nat) (late : Bool) : PhEnv :=
  let x := c.slot key
  let base := c.slot (x.baseKey key)
  let k := c.blk (blkKey r b)
  let rm := c.rm r
  let first := x.firstPass u n
  let now := c.slotNow key
  { ctr := c.ctr, site := 0, fs := c.fs, first := first, member := x.memberNo, opBase := 4 * u
    page := base.page late, inp := fun i => wireVal t.wires now u i n
    dest := fun d => if t.routes = [] then destDefault d else tabGet x.dest 0 d
    table := fun i => ((t.tmpl.tables[i]?).bind c.pal.table).bind fun tr =>
      if tr.inRegion r then some (tr, c.pal.tableBase tr.id r) else none
    cache := k.cacheWord c.clk.smp, stream := fun id => c.pal.streams.find? fun z => decide (z.id = id)
    frame := fun op ch q =>
      let o : PhOp := tabGet x.ops {} (4 * u + op)
      let ring := if first then rm.ringFor b (c.homeSlot key) (4 * u + op) else o.ring
      match ring with
      | some g =>
        let id := if first then
            fieldOf (base.page late (phWord ((t.phase.getD u []).getD (2 * op) 0) x.memberNo 2)) 0 12 else o.strId
        let stereo := match c.pal.streams.find? fun z => decide (z.id = id) with
          | some z => decide (z.channels = 2)
          | none => false
        ringFrame s rm r stereo g ch q
      | none => none
    ringOf := fun op => rm.ringFor b (c.homeSlot key) (4 * u + op) }

/-- Lines a pass used take the newest use (R114). -/
def Block.touch (k : Block) (used : List Nat) : Block :=
  { k with useClock := k.useClock + 1
           cache := k.cache.map fun l => if l.line ∈ used then { l with used := k.useClock + 1 } else l }

/-- Lines a pass missed are requested, no more than 8 at once (R115, R116); a line that has arrived is not asked for again. A miss
while 8 refills wait asks for nothing: a later miss of the line asks again. DESIGN CHOICE (assumption 107). -/
def Block.want (k : Block) (lines : List Nat) : Block :=
  lines.foldl (fun k l =>
    if l ∈ k.refills ∨ 8 ≤ k.refills.length ∨ (k.cache.any fun x => decide (x.line = l)) = true then k
    else { k with refills := k.refills ++ [l] }) k

/-- The position in playing order, in ring words, of an operator's stream. -/
def PhOp.word (o : PhOp) (stereo : Bool) : Nat := if stereo then 2 * (o.strPos / 2 ^ 24) else o.strPos / 2 ^ 24

/-- Each time the read position leaves a quarter, the next 256 words in playing order are requested: quarters 0 to 2 were asked for at
the opening, so the next are three ahead (R461). DEDUCED (assumption 38). -/
def Ring.advance (g : Ring) (before after : Nat) : Ring :=
  let left := (List.range 33).filterMap fun i =>
    let chunk := before / 256 + i
    if chunk < after / 256 then some (chunk + 3) else none
  { g with want := g.want ++ (left.filter fun k => k ∉ g.want) }

/-- The rings a pass read advance with their operators (R461). -/
def Chip.ringsAdvance (c : Chip) (r : Nat) (old new : Tab PhOp) (u : Nat) (first : Bool) : Chip :=
  c.forN 4 fun i c =>
    let o : PhOp := tabGet new {} (4 * u + i)
    let p : PhOp := if first then {} else tabGet old {} (4 * u + i)
    match o.ring with
    | none => c
    | some g =>
      match tabGet (c.rm r).rings none g with
      | none => c
      | some ring =>
        let stereo := match c.pal.streams.find? fun z => decide (z.id = o.strId) with
          | some z => decide (z.channels = 2)
          | none => false
        c.updRm r fun m => { m with rings := tabSet m.rings none g (some
          { ring.advance (p.word stereo) (o.word stereo) with bound := true }) }

/-- The bank addresses of the stream frames that a pass found in its rings (R460). -/
def Chip.frameAddrs (c : Chip) (r u : Nat) (ops : Tab PhOp) (frames : List (Nat × Nat × Nat)) : List Nat :=
  frames.filterMap fun (k, ch, q) =>
    let o : PhOp := tabGet ops {} (4 * u + k)
    let stereo := match c.pal.streams.find? fun z => decide (z.id = o.strId) with
      | some z => decide (z.channels = 2)
      | none => false
    o.ring.bind fun n => (tabGet (c.rm r).rings none n).bind fun g =>
      if g.holds (ringWord stereo ch q) then some (contentAddr r (0xC0000 + n * 1024 + ringWord stereo ch q % 1024)) else none

/-- The phase pass of cell u for the slot at a key (R129, R163). -/
def Chip.phaseAt (s : MemState) (c : Chip) (t : Content) (r b u key n : Nat) (late : Bool) (bad : List Nat) : Chip :=
  let x := c.slot key
  let e := phEnvOf s c t r b u key n late
  let set := blank (t.phase.getD u []) (bad.map fun i => 2 * i) 0
  let (ops, ys, fx) := phPass e x.ops set
  let ops := bad.foldl (fun o i =>
    let p : PhOp := tabGet x.ops {} (4 * u + i)
    tabSet o {} (4 * u + i) { p with y1 := 0, y2 := p.y1 }) ops
  let y : SlotSt := { x with ops := ops }
  let c := c.setSlot key (y.pushOuts u n ys)
  let c := (c.updBlk (blkKey r b) fun k => (k.touch fx.used).want fx.want).addCnt (BLK_CNT_MISS r b) fx.misses
  let c := (c.addCnt (RGNn_STRSTAT_UND r) fx.underruns).raiseIf (decide (0 < fx.underruns)) 98
  (c.eccReads s (c.frameAddrs r u ops fx.frames)).ringsAdvance r x.ops ops u (x.firstPass u n)

/-! ### Passes as commands -/

/-- Run a pass of slot s at stage k when the block runs and the slot holds an occupant that has begun and that no
ramp of R91 has ended. -/
def Chip.withPass (c : Chip) (r b s k : Nat) (f : Content → Nat → Nat → Bool → Chip → Chip) : Chip :=
  match c.running r b with
  | none => c
  | some t =>
    let n := c.passSmp s k
    let key := c.passKey r b s k
    let x := c.slot key
    let ramped : Bool := match x.ramp with
      | some f => decide (f.start ≤ n)
      | none => false
    if c.slotCount ≤ s ∨ x.occupied = false ∨ n < x.first ∨ ramped = true then c else f t key n (c.passLate s k) c

/-- The faults of a pass that met words failing their parity check (R126, R558, R660): the slot and cell are those of the pass,
the glaze slot and 8 for a pass of a glaze. -/
def Chip.parityIf (c : Chip) (bad : Bool) (r b slot cell : Nat) : Chip :=
  if bad then c.parityFault r b slot cell else c

/-- A contour pass (R230): `bad` names generators whose mode word fails its parity check. DEDUCED (assumption 15). -/
def Chip.contourPass (c : Chip) (r b s : Nat) (bad : List Nat) : Chip :=
  c.withPass r b s 0 fun t key n _ c =>
    if t.contour = [] then c else (c.contourAt t key n bad).parityIf (!bad.isEmpty) r b s 6

/-- A matrix pass (R249): `bad` names routes. DEDUCED (assumption 15). -/
def Chip.matrixPass (c : Chip) (r b s : Nat) (bad : List Nat) : Chip :=
  c.withPass r b s 1 fun t key n late c =>
    if t.routes = [] then c else (c.matrixAt t key n late bad (some (512 * r + 16 * b + s))).parityIf (!bad.isEmpty) r b s 7

/-- A phase pass of cell u (R129): `bad` names operators. DEDUCED (assumption 15). -/
def Chip.phasePass (m : MemState) (c : Chip) (r b u s : Nat) (bad : List Nat) : Chip :=
  c.withPass r b s 2 fun t key n late c =>
    if t.phase.getD u [] = [] then c
    else (Chip.phaseAt m c t r b u key n late bad).parityIf (!bad.isEmpty) r b s u

/-! ### Meanings -/

/-- CONTOUR_PASS (R230). -/
def execContourPass (r : Fin 4) (b : Fin 24) (s : Fin 16) (bad : List (Fin 8)) :
    State → Host.Outcome State Fault Refusal :=
  actFree fun c => c.contourPass r b s (bad.map fun i => i.val)

/-- MATRIX_PASS (R249). -/
def execMatrixPass (r : Fin 4) (b : Fin 24) (s : Fin 16) (bad : List (Fin 32)) :
    State → Host.Outcome State Fault Refusal :=
  actFree fun c => c.matrixPass r b s (bad.map fun i => i.val)

/-- PHASE_PASS (R129). -/
def execPhasePass (r : Fin 4) (b : Fin 24) (u : Fin 4) (s : Fin 16) (bad : List (Fin 4)) :
    State → Host.Outcome State Fault Refusal :=
  fun st => actFree (fun c => Chip.phasePass st.mem c r b u s (bad.map fun i => i.val)) st

end Sys2Proof.Machine
end

