-- ==== Sys2Proof/Machine/Voices.lean ====
section
/-! DEFINITION. Voices and the contexts of their slots (chapters "Blocks, slots and the pass budget" and "Parts, voices and
stealing", R102 to R107, R304 to R309, R314, R318, R327, R340): generations, renames, fades, and the states of blocks. -/

namespace Sys2Proof.Machine

/-! ### Parameter memory -/

/-- Write a parameter-memory word by its index (R95, R265, R651): indices that name no page are ignored.
DEDUCED (assumption 34). -/
def Chip.paramWrite (c : Chip) (i : Nat) (v : Word) : Chip :=
  if i < 64 then c
  else if i < 4096 then c.updPart (i / 64) fun p => { p with back := tabSet p.back 0 (i % 64) v }
  else
    let q := (i - 4096) / 64
    if 1536 ≤ q ∨ c.slotCount ≤ q % 16 then c
    else c.updSlot (40 * (q / 16) + q % 16) fun x => { x with back := tabSet x.back 0 (i % 64) v }

/-- Read a parameter-memory word: the back copy (R98); an index that names no page reads 0 (R642). -/
def Chip.paramRead (c : Chip) (i : Nat) : Word :=
  if i < 64 then 0
  else if i < 4096 then tabGet (c.part (i / 64)).back 0 (i % 64)
  else
    let q := (i - 4096) / 64
    if 1536 ≤ q ∨ c.slotCount ≤ q % 16 then 0 else tabGet (c.slot (40 * (q / 16) + q % 16)).back 0 (i % 64)

/-! ### Keys, generations and handles -/

/-- Region, block and slot index of a slot key. -/
def keyRegion (key : Nat) : Nat := key / 960
/-- The block index of a slot key. -/
def keyBlock (key : Nat) : Nat := key / 40 % 24
/-- The slot index of a slot key; a replaced occupant's is that of the slot it left. -/
def keySlot (key : Nat) : Nat := if 18 ≤ key % 40 then key % 40 - 18 else key % 40

/-- Handle bits [10:0] of a slot key (R7). -/
def handleLow (key : Nat) : Nat := keyRegion key * 512 + keyBlock key * 16 + keySlot key

/-- The voice handle of a slot and generation (R7). -/
def handleOf (key : Nat) (gen : BitVec 5) : Nat := gen.toNat * 0x800 + handleLow key

/-- The slot key that a handle names (R7). -/
def handleKey (h : Nat) : Nat := 40 * (24 * (h / 512 % 4) + h / 16 % 32) + h % 16

/-- Does a handle's BLOCK name a block? 24–31 name none (R7). DEDUCED (assumption 57). -/
def handleNames (h : Nat) : Bool := decide (h / 16 % 32 < 24)

/-- Advance a generation (R304). -/
def genNext (g : BitVec 5) : BitVec 5 := if g = 31 then 1 else g + 1

/-- Advance the generation of slots (R304). -/
def Chip.advanceGen (c : Chip) (keys : List Nat) : Chip :=
  c.forL keys fun k c => if 16 ≤ k % 40 then c else c.updSlot k fun x => { x with gen := genNext x.gen }

/-- Is the handle of the voice at a base slot current (R305)? -/
def SlotSt.current (x : SlotSt) : Bool :=
  match x.voice with
  | some v => decide (v.gen = x.gen)
  | none => false

/-- All slots 0–15 of the device, by key, in ascending order of handle bits [10:0]. -/
def allSlots (n : Nat) : List Nat :=
  (List.range 96).flatMap fun k => (List.range n).map fun s => 40 * k + s

/-- The base slots that hold a voice record, ascending, with the record. -/
def Chip.voicesIn (c : Chip) : List (Nat × Voice) :=
  c.slots.filterMap fun p => if p.1 % 40 < 16 then p.2.voice.map fun v => (p.1, v) else none

/-- The base slots that hold a pending voice, ascending, with its record; then those of note-ons that wait for an evicted block
to empty (R316). -/
def Chip.pendsIn (c : Chip) : List (Nat × Voice) :=
  (c.slots.filterMap fun p => if p.1 % 40 < 16 then p.2.pend.map fun v => (p.1, v) else none)
    ++ c.ez.evicts.map fun w => (slotKey w.entry.region w.entry.block w.entry.slot, w.voice)

/-- The voice count of a part (R307, R327). -/
def Chip.voiceCount (c : Chip) (p : Nat) : Nat :=
  ((c.voicesIn ++ c.pendsIn).filter fun x => decide (x.2.part = p) && x.2.counted).length

/-- Does the part exist? -/
def Chip.partExists (c : Chip) (p : Nat) : Bool := decide (1 ≤ p ∧ p ≤ 63) && (c.part p).exists_

/-! ### Routing -/

/-- The part's routing in force (R337). -/
def Chip.routeOf (c : Chip) (p : Nat) : Route :=
  { dest := tabGet (c.part p).front 0 60, word61 := tabGet (c.part p).front 0 61 }

/-- The canvas latches a voice's routing (R340). -/
def Chip.latch (c : Chip) (keys : List Nat) : Chip :=
  c.forL keys fun k c => c.updSlot k fun x => if x.latched then x else { x with latched := true, route := c.routeOf x.part }

/-! ### Rings -/

/-- RGNn_STRSTAT.RINGS reports the rings in use (R464). -/
def Chip.ringCount (c : Chip) (r : Nat) : Chip :=
  c.setFld (RGNn_STRSTAT_RINGS r) ((c.rm r).rings.filter fun p => p.2.isSome).length

/-- Release rings by a test of their owner (R459). DEDUCED (assumption 24). -/
def Chip.dropRings (c : Chip) (r : Nat) (test : Nat → Ring → Bool) : Chip :=
  (c.updRm r fun m =>
    { m with
        rings := m.rings.filter fun p => match p.2 with
          | some g => !test p.1 g
          | none => false
        heads := m.heads.filter fun h => match tabGet m.rings none h.1 with
          | some g => !test h.1 g
          | none => false }).ringCount r

/-- A context is dropped: its rings are released (R459). DEDUCED (assumption 24). -/
def Chip.dropContextRings (c : Chip) (key : Nat) : Chip :=
  let used := (c.slot key).ops.filterMap fun p => p.2.ring
  if used.isEmpty then c else c.dropRings (keyRegion key) fun n _ => used.contains n

/-- The rings opened for a voice that never started are released (R326, R459). -/
def Chip.dropPendingRings (c : Chip) (r b slot link : Nat) : Chip :=
  c.dropRings r fun _ g =>
    !g.bound && decide (g.block = b) && decide (slot ≤ g.slot) && decide (g.slot < slot + link)

/-! ### Contexts move and end -/

/-- A slot with nothing running: its pages, partitions, generation and pending voice remain. -/
def SlotSt.emptied (x : SlotSt) : SlotSt :=
  { gen := x.gen, back := x.back, front := x.front, prev := x.prev, pend := x.pend, part := x.part
    x0 := x.x0, y0 := x.y0, x1 := x.x1, y1 := x.y1 }

/-- Move the contexts of a voice to other keys (R104): `dest` gives a mate's new key and role; a pass in progress follows.
DEDUCED (assumption 25). -/
def Chip.moveVoice (c : Chip) (base : Nat) (dest : Nat → Nat → Nat × SlotRole) : Chip :=
  let ms := (c.slot base).mates
  let dst := (List.range ms.length).map fun i => (dest i (ms.getD i 0)).1
  let c := c.forN ms.length fun i c =>
    let k := ms.getD i 0
    let x := c.slot k
    let d := dest i k
    let y : SlotSt := { x with role := d.2, pend := none, mates := if i = 0 then dst else [] }
    let c := (c.setSlot d.1 y).setSlot k x.emptied
    { c with late := tabSet c.late k k d.1 }
  c.updBlk (base / 40) fun b =>
    { b with cells := b.cells.map fun p =>
        if p.2.running ∧ p.2.slot = base then (p.1, { p.2 with slot := dst.getD 0 base, keys := dst }) else p }

/-- The contexts of a voice that ends or is replaced stand aside for its late passes (R85). -/
def Chip.retire (c : Chip) (base : Nat) : Chip :=
  c.moveVoice base fun i k => (k + 18, .member (base + 18) i)

/-- The slot whose X and Y partitions and page a context uses: an occupant that stands aside uses its slot's until another has
taken it (R85, R175, R182, R199). DEDUCED (assumption 98). -/
def Chip.homeKey (c : Chip) (k : Nat) : Nat :=
  if 18 ≤ k % 40 && !(c.slot (k - 18)).occupied then k - 18 else k

/-- A context that stood aside is dropped. -/
def Chip.dropAside (c : Chip) (k : Nat) : Chip := (c.dropContextRings k).setSlot k {}

/-- The contexts that stood aside are dropped once their sample has closed. DEDUCED (assumption 25). -/
def Chip.dropLate (c : Chip) : Chip :=
  let gone := c.slots.filterMap fun p => if 18 ≤ p.1 % 40 then some p.1 else none
  let c := c.forL gone fun k c => c.dropAside k
  { c with late := [] }

/-- A glaze context is free (R106). -/
def Chip.glazeFree (c : Chip) (key : Nat) : Chip := (c.dropContextRings key).setSlot key {}

/-! ### Blocks -/

/-- Slots of a block that something occupies. -/
def Chip.activeSlots (c : Chip) (k : Nat) : List Nat :=
  (List.range 16).filter fun s => (c.slot (40 * k + s)).occupied

/-- Glaze slots in use. -/
def Chip.glazeUsed (c : Chip) (k : Nat) : Nat :=
  ((List.range 2).filter fun g => (c.slot (40 * k + 16 + g)).occupied).length

/-- Does a held tail of the block still run (R314)? -/
def Chip.tailsRun (c : Chip) (k : Nat) : Bool :=
  (List.range 16).any fun s => !(tabGet c.tails [] (40 * k + s)).isEmpty

/-- Is the block empty (R117)? -/
def Chip.blkEmpty (c : Chip) (k : Nat) : Bool :=
  (c.activeSlots k).isEmpty && decide (c.glazeUsed k = 0) && !c.tailsRun k

/-- An awake block reads running while anything runs in it, and empty otherwise (R117, R125). -/
def Chip.blkNorm (c : Chip) (k : Nat) : Chip :=
  let b := c.blk k
  if b.st = .running ∨ b.st = .empty then
    let st := if c.blkEmpty k then BlkState.empty else BlkState.running
    if b.st = st then c else c.updBlk k fun b => { b with st := st }
  else c

/-- Cells that a template uses (R103). -/
def Content.used (t : Content) : Nat :=
  (t.phase.filter fun s => s ≠ []).length + (if t.mac0.isSome then 1 else 0) + (if t.mac1.isSome then 1 else 0)
    + (if t.contour = [] then 0 else 1) + (if t.routes = [] then 0 else 1)

/-- BLK_STAT.GLZ_FREE (R103): the block's glaze capacity less the glaze slots in use and reserved. DEDUCED (assumption 26). -/
def Chip.glazeFreeOf (c : Chip) (k : Nat) : Nat :=
  let b := c.blk k
  match b.content with
  | none => 0
  | some t =>
    if b.sc ≠ .idle ∨ b.scFailed then 0
    else
      let g := if t.used = 0 then 2 else min 2 (16 / (2 ^ c.mode * t.used))
      g - c.glazeUsed k - b.glzRes

/-! ### Ends -/

/-- A part is told that a voice has ended (R327): the generation advances, and the voice no longer counts. -/
def Chip.tell (c : Chip) (base : Nat) : Chip :=
  let x := c.slot base
  let c := c.setSlot base { x with voice := x.voice.map fun v => { v with counted := false } }
  c.advanceGen x.mates

/-- R91's end: the held outputs ramp to 0 from sample n on. The part of a voice that a glaze in place is fading already is not
told again. DEDUCED (assumption 97). -/
def Chip.rampVoice (c : Chip) (base n : Nat) : Chip :=
  let x := c.slot base
  let c := c.latch x.mates
  let c := if x.glaze.isNone then c.tell base else c
  let c := c.forL x.mates fun k c => c.updSlot k fun y =>
    { y with ramp := some { start := n, n := 32 }
             held := some { start := n, ng := 32, route := y.route }
             voice := y.voice.map fun v => { v with st := .glazing } }
  (c.bump PAL_CNT2_BUDGET).raise 28

/-- The length of a glaze in samples (R318): GLAZE in 0.1 ms. -/
def Chip.glazeLen (c : Chip) (units : Nat) : Nat := ceilDiv (max 5 (min 100 units) * c.fs) 10000

/-- A part's glaze time in 0.1 ms; a voice of a destroyed part takes 5 ms (R303, R318). -/
def Chip.glazeUnits (c : Chip) (p : Nat) : Nat :=
  if c.partExists p then c.fld (PAL_PCFG_GLAZE p) else 50

/-- A glaze in place starts in sample n (R107): its handle is stale, and the fade runs on its own slots. -/
def Chip.glazeInPlace (c : Chip) (base n units : Nat) : Chip :=
  let x := c.slot base
  let c := (c.latch x.mates).tell base
  c.forL x.mates fun k c => c.updSlot k fun y =>
    { y with glaze := some { start := n, n := c.glazeLen units }
             voice := y.voice.map fun v => { v with st := .glazing } }

end Sys2Proof.Machine
end

