-- ==== Sys2Proof/Machine/MacCmds.lean ====
section
/-! DEFINITION. MAC passes and the instructions that a MAC cell issues (chapters "MAC cells: programmer's model" and "MAC cell
instruction set", R165 to R196, R203 to R229, R658, R660), with cuts, deliveries, halts and fences, and the glaze passes of
R103. An instruction's command is the issue of that instruction: it takes place when the word at the cell's address
encodes it. -/

namespace Sys2Proof.Machine

/-! ### Cells and programs -/

/-- A MAC cell of a block: 0 MC0, 1 MC1, 2 the standby cell. -/
def Block.cell (k : Block) (u : Nat) : MacCell := tabGet k.cells {} u

/-- Store a MAC cell. -/
def Chip.setCell (c : Chip) (k u : Nat) (m : MacCell) : Chip :=
  c.updBlk k fun b => { b with cells := tabSet b.cells {} u m }

/-- The program a kind of MAC cell runs: 0 MC0's, 1 MC1's. -/
def Content.prog (t : Content) (kind : Nat) : Option CellProg := if kind = 0 then t.mac0 else t.mac1

/-- The MAC program kind that the standby cell runs in place of a cell (R553, R555). -/
def Block.standInKind (k : Block) : Option Nat :=
  if (k.sc = .primary ∨ k.sc = .shadowBack ∨ k.sc = .standIn) ∧ (k.scCell = 4 ∨ k.scCell = 5) then some (k.scCell - 4)
  else none

/-- The kind of pass a cell runs for the slots of the block; none for a cell that another stands in for. -/
def Block.slotKind (k : Block) (u : Nat) : Option Nat :=
  if u = 2 then k.standInKind else if k.standInKind = some u then none else some u

/-- Words of a slot's partition (R175). -/
def Chip.partition (c : Chip) : Nat := 64 * 2 ^ c.mode

/-- A slot's partition of X or Y memory of a kind of cell. -/
def SlotSt.part_ (x : SlotSt) (kind : Nat) (y : Bool) : Tab Q :=
  if kind = 0 then (if y then x.y0 else x.x0) else (if y then x.y1 else x.x1)

/-- Store a partition. -/
def SlotSt.setPart (x : SlotSt) (kind : Nat) (y : Bool) (t : Tab Q) : SlotSt :=
  if kind = 0 then (if y then { x with y0 := t } else { x with x0 := t })
  else (if y then { x with y1 := t } else { x with x1 := t })

/-- A slot's context of a kind of cell (R166). -/
def SlotSt.macCtx (x : SlotSt) (kind : Nat) : MacCtx := if kind = 0 then x.mac0 else x.mac1

/-- Store a slot's context. -/
def SlotSt.setMacCtx (x : SlotSt) (kind : Nat) (m : MacCtx) : SlotSt :=
  if kind = 0 then { x with mac0 := m } else { x with mac1 := m }

/-- The members whose partitions a glaze's pass joins (R103): the glaze slot's own, or both glaze slots'. -/
def SlotSt.glazeKeys (x : SlotSt) (key : Nat) : List Nat :=
  match x.role with
  | .glaze _ joined => if joined then [key, key + 1] else [key]
  | _ => [key]

/-- The members whose partitions a slot's pass joins (R93): those of its voice, which a late pass may find renamed (R104). -/
def SlotSt.spaceKeys (x : SlotSt) (key : Nat) : List Nat := if x.isBus then [key] else x.mates

/-- A word of the X or Y space of a pass (R175, R176). -/
def Chip.spaceWord (c : Chip) (m : MacCell) (y : Bool) (w : Nat) : Q :=
  tabGet ((c.slot (c.homeKey (m.keys.getD (w / c.partition) 0))).part_ m.kind y) 0 (w % c.partition)

/-- The value that an input of member `i` delivers (R83, R179). DEDUCED (assumption 98). -/
def Chip.macInput (c : Chip) (t : Content) (m : MacCell) (i port : Nat) (early : Bool) : Q :=
  wireVal t.wires (c.slotNow (m.keys.getD i 0)) (4 + m.kind) port (if early then m.smp - 1 else m.smp)

/-- What the surroundings of a MAC cell deliver (R83, R96, R176, R179, R181). -/
def Chip.macEnv (c : Chip) (t : Content) (m : MacCell) : MacEnv :=
  let x := c.slot m.slot
  let keys := m.keys
  let late := decide (m.smp < c.clk.smp)
  { space := c.partition * keys.length
    rdX := fun w => if w ∈ m.badX then 0 else c.spaceWord m false w
    rdY := fun w => if w ∈ m.badY then 0 else c.spaceWord m true w
    inp := fun e early => if keys.length ≤ e / 8 then 0 else c.macInput t m (e / 8) (e % 8) early
    par := fun i high =>
      let w := if i / 64 < 4 then (if i / 64 < keys.length then (c.slot (keys.getD (i / 64) 0)).page late (i % 64) else 0)
        else if i / 64 = 4 then c.partPageWord x late (i % 64) else 0
      if high then (w >>> 8).setWidth 24 else wordQ w }

/-- Land writes of X and Y memory (R176); a word written reads back with good parity. -/
def Chip.macWrites (c : Chip) (k u : Nat) (ws : List (Bool × Nat × Q)) : Chip :=
  let m := (c.blk k).cell u
  let p := c.partition
  let c := c.forL ws fun w c => match m.keys[w.2.1 / p]? with
    | some key => c.updSlot (c.homeKey key) fun x => x.setPart m.kind w.1 (tabSet (x.part_ m.kind w.1) 0 (w.2.1 % p) w.2.2)
    | none => c
  if m.badX.isEmpty && m.badY.isEmpty then c
  else c.setCell k u { m with
    badX := m.badX.filter fun a => !(ws.any fun w => !w.1 && decide (w.2.1 = a))
    badY := m.badY.filter fun a => !(ws.any fun w => w.1 && decide (w.2.1 = a)) }

/-- The cell that a fault of a pass names: 4 or 5, or 8 for a glaze's (R126, R196, R660). -/
def MacCell.faultCell (m : MacCell) : Nat := if m.glaze then 8 else 4 + m.kind

/-- Record a fault of a MAC pass with the slot whose pass it is (R196, R660). -/
def Chip.macFault (c : Chip) (k : Nat) (m : MacCell) (code : Nat) : Chip :=
  c.blkFault (k / 24) (k % 24) m.home m.faultCell code

/-- A MAC pass has read a word that fails its parity check (R558). -/
def Chip.macParity (c : Chip) (bad : Bool) (k : Nat) (m : MacCell) : Chip :=
  if bad then (c.macFault k m 0x16).stepAhead (k / 24) (k % 24) m.faultCell else c

/-- Record a fault when a condition holds. -/
def Chip.macFaultIf (c : Chip) (b : Bool) (k : Nat) (m : MacCell) (code : Nat) : Chip :=
  if b then c.macFault k m code else c

/-- A wrap of an accumulator sets the slot's bit of BLK_MACOV (R170, R197), but for a glaze's pass (R660). -/
def Chip.macOv (c : Chip) (k : Nat) (m : MacCell) (wraps : Bool) : Chip :=
  if wraps && !m.glaze then
    let a := BLK_MACOV (k / 24) (k % 24)
    c.setReg a (c.reg a ||| (1#32 <<< (16 * m.kind + m.home)))
  else c

/-- Does the instruction in M read a word that fails its parity check (R558)? DEDUCED (assumption 91). -/
def MacCell.badRead (m : MacCell) : Bool :=
  match m.f1 with
  | none => false
  | some f =>
    let mv := movesOf f.ins
    let rx := isTap f.ins || (match mv.x with | some a => !a.store | none => false)
    let ry := isTap f.ins || (match mv.y with | some a => !a.store | none => false)
    (rx && decide (f.xa ∈ m.badX)) || (ry && decide (f.ya ∈ m.badY))

/-! ### Issues -/

/-- One issue of an instruction other than END by the cell (R185 to R189). DEDUCED (assumption 16). -/
def Chip.macIssueAt (c : Chip) (k u : Nat) (t : Content) (m : MacCell) (ins : MacIns) (parity : Bool) : Chip :=
  let env := c.macEnv t m
  let (m', fx) := macIssue env m.glaze m ins
  let c := ((c.setCell k u m').macWrites k u fx.writes).macOv k m fx.wraps
  let c := (((c.macFaultIf fx.illegal k m 0x11).macFaultIf fx.loopFault k m 0x12).macFaultIf fx.portFault k m 0x13)
  c.macParity (parity || m.badRead) k m

/-- The word a cell fetches (R55, R188). -/
def Block.fetch (b : Block) (m : MacCell) : Word := tabGet (if m.kind = 0 then b.pm0 else b.pm1) 0 m.pc

/-- The issue of an instruction word by a cell whose address holds it. DEDUCED (assumption 16). DEDUCED (assumption 92). -/
def Chip.macStep (c : Chip) (u : MacUnit) (ins : MacIns) (f : Chip → Nat → Nat → Content → MacCell → Bool → Chip) : Chip :=
  let k := blkKey u.r u.b
  match (c.blk k).content with
  | none => c
  | some t =>
    let m := (c.blk k).cell u.u
    if macCanIssue m ∧ decodeMac ((c.blk k).fetch m) = ins then f c k u.u t m (decide (m.pc ∈ m.badI)) else c

/-- The issue of an instruction other than END: one that fails its parity check acts as NOP (R558). -/
def Chip.macRun (c : Chip) (u : MacUnit) (ins : MacIns) : Chip :=
  c.macStep u ins fun c k u t m bad => c.macIssueAt k u t m (if bad then .nop else ins) bad

/-- Write a 24-bit value to the back copy of a page by a view (R182). -/
def injWord (high : Bool) (v : Q) : Word := if high then (v.setWidth 32) <<< 8 else v.signExtend 32

/-- Deliver an injection to the back copy of the page it names (R182, R184): that of the slot, until another occupant has taken
the slot. DEDUCED (assumption 98). -/
def Chip.inject (c : Chip) (m : MacCell) (e : Inject) : Chip :=
  match e.value, m.keys[e.page]? with
  | some v, some key => c.updSlot (c.homeKey key) fun x => { x with back := tabSet x.back 0 e.word (injWord e.view v) }
  | _, _ => c

/-- Deliver every entry that has its value. -/
def Chip.injectAll (c : Chip) (m : MacCell) : Chip := c.forL m.injq fun e c => c.inject m e

/-- The longest pass of a cell (R127). -/
def Chip.macPeak (c : Chip) (k : Nat) (m : MacCell) (cycles : Nat) : Chip :=
  let f := if m.kind = 0 then BLK_PEAK_MC0 (k / 24) (k % 24) else BLK_PEAK_MC1 (k / 24) (k % 24)
  if m.glaze then c else c.setFld f (max (c.fld f) (min cycles 65535))

/-- The last cycles of a pass (R188, R220): the issue of END and the drain, with their memory writes in order. -/
def macFinish (env : MacEnv) (m : MacCell) : MacCell × MacFx :=
  let (m1, fx) := macCycle env m (some .endPass)
  let env1 : MacEnv := { env with
    rdX := fun a => match fx.writes.find? fun w => !w.1 && decide (w.2.1 = a) with
      | some w => w.2.2 | none => env.rdX a
    rdY := fun a => match fx.writes.find? fun w => w.1 && decide (w.2.1 = a) with
      | some w => w.2.2 | none => env.rdY a }
  let (m2, x) := macDrain env1 m1
  (m2, { fx with writes := fx.writes ++ x.writes, wraps := fx.wraps || x.wraps })

/-- The registers of a pass that is cut or fenced return, but for AOV and LIM (R190, R195). -/
def MacCell.restored (m : MacCell) : MacCtx :=
  { m.start with sr := (m.start.sr &&& 0xFFE7) ||| (m.ctx.sr &&& 0x0018) }

/-- The drained cycles of a pass that ends: their memory writes, wraps and injections (R188, R193). -/
def Chip.macLand (c : Chip) (k u : Nat) (m m2 : MacCell) (fx : MacFx) : Chip :=
  (((c.macWrites k u fx.writes).macOv k m fx.wraps).macParity m.badRead k m).injectAll m2

/-- A fence is taken (R195): the registers return, the slot's outputs stay those of the last completed pass, and the cell stops;
`m2` is the pass once what it has issued has drained. -/
def Chip.macFenced (c : Chip) (k u : Nat) (m m2 : MacCell) : Chip :=
  (c.updSlot m.slot fun x => x.setMacCtx m.kind { m with ctx := m2.ctx }.restored).setCell k u { halted := m.halted, fenced := true }

/-- END (R188, R193, R220): the pass ends, drains, gives its outputs (R180), saves its context and delivers its injections. A
fence that waits is taken there (R195). -/
def Chip.macEnd (c : Chip) (k u : Nat) (t : Content) (m : MacCell) : Chip :=
  let (m2, fx) := macFinish (c.macEnv t m) m
  let c := (c.macPeak k m (m.cyc + 1)).macLand k u m m2 fx
  if m.fenceReq then c.macFenced k u m m2
  else
    let c := c.forN m.keys.length fun i c => c.updSlot (m.keys.getD i 0) fun x =>
      x.pushOuts (4 + m.kind) m.smp ((List.range 4).map fun p => tabGet m2.latch 0 (4 * i + p))
    let c := c.updSlot m.slot fun x => x.setMacCtx m.kind m2.ctx
    c.setCell k u { halted := m.halted, fenced := m.fenced }

/-! ### The start of a pass -/

/-- A pass starts (R167, R188): the context is loaded and the sequencer stands at address 0. `keys` are the members it joins, `home`
the slot or glaze slot whose pass it is. -/
def Chip.macStart (c : Chip) (k u kind key n : Nat) (keys : List Nat) (home : Nat) (glaze : Bool) (bad : CellParity) : Chip :=
  let m := (c.blk k).cell u
  if m.running ∨ m.halted ∨ m.fenced then c
  else if m.fenceReq then c.setCell k u { m with fenceReq := false, fenced := true }
  else
    let ctx := (c.slot key).macCtx kind
    c.setCell k u
      { running := true, slot := key, keys := keys, home := home, glaze := glaze, kind := kind, smp := n, link := keys.length
        budget := 128 * keys.length, ctx := ctx, start := ctx, latch := ctx.out, badI := bad.code.map fun a => a.toNat, badX := bad.x.map fun a => a.toNat
        badY := bad.y.map fun a => a.toNat }

/-- A pass of a MAC cell for the voice or bus slot whose member 0 is slot s (R93, R188). DEDUCED (assumption 15). -/
def Chip.macPass (c : Chip) (r b u s : Nat) (bad : CellParity) : Chip :=
  match (c.blk (blkKey r b)).slotKind u with
  | none => c
  | some kind =>
    c.withPass r b s (3 + kind) fun t key n _ c =>
      let x := c.slot key
      match t.prog kind with
      | none => c
      | some _ =>
        if x.memberNo ≠ 0 then c else c.macStart (blkKey r b) u kind key n (x.spaceKeys key) s false bad

/-! ### Cuts, halts, fences and deliveries -/

/-- A voice with cut passes in 4 consecutive samples ends (R91), one that a glaze in place fades among them. The bus slots run on
(R109), and so do a voice that has ended or has left its slot and a glaze (R660). DEDUCED (assumption 97). -/
def Chip.countCut (c : Chip) (key n : Nat) : Chip :=
  let x := c.slot key
  let cnt := if x.cuts0 = 0 then 1 else if x.cuts1 = n then x.cuts0 else if x.cuts1 + 1 = n then x.cuts0 + 1 else 1
  let c := c.setSlot key { x with cuts0 := cnt, cuts1 := n }
  match x.role with
  | .member _ _ => if 4 ≤ cnt ∧ x.ramp.isNone ∧ key % 40 < 16 then c.rampVoice key (n + 1) else c
  | _ => c

/-- A fence is taken in a pass that has not ended: what it has issued drains (R195). -/
def Chip.macFence (c : Chip) (k u : Nat) (t : Content) (m : MacCell) : Chip :=
  let (m2, fx) := macDrain (c.macEnv t m) m
  (c.macLand k u m m2 fx).macFenced k u m m2

/-- The cut of R90: the pass ends at the last cycle of its budget. -/
def Chip.macCut (c : Chip) (k u : Nat) (m : MacCell) : Chip :=
  let c := (c.macFault k m 0x10).bump (BLK_CNT_OVR (k / 24) (k % 24))
  let c := (c.injectAll m).updSlot m.slot fun x => x.setMacCtx m.kind m.restored
  let c := (c.macPeak k m m.budget).setCell k u { halted := m.halted, fenced := m.fenced }
  if m.glaze then c else c.countCut m.slot m.smp

/-- BUDGET_CUT's condition and effect (R90); a fence that waits is taken in its place (R195). -/
def Chip.budgetCut (c : Chip) (u : MacUnit) : Chip :=
  let k := blkKey u.r u.b
  let m := (c.blk k).cell u.u
  if m.running ∧ m.halted = false ∧ m.budget ≤ m.cyc then
    match (c.blk k).content with
    | some t => if m.fenceReq then c.macFence k u.u t m else c.macCut k u.u m
    | none => c.macCut k u.u m
  else c

/-- Is the program that a cell runs closed (R54, R192)? -/
def Chip.closedLoop (c : Chip) (k : Nat) (m : MacCell) : Bool :=
  match (c.blk k).content.bind fun t => t.prog m.kind with
  | some p => p.closed
  | none => false

/-- Does a cell stand at an interruptible point (R191, R192)? -/
def Chip.atPoint (c : Chip) (k : Nat) (m : MacCell) : Bool := macInterruptible (c.closedLoop k m) m

/-- At an interruptible point of its pass a cell delivers the oldest injection, once its E stage is past, and no more than one
(R193, R224). -/
def Chip.deliver (c : Chip) (k u : Nat) : Chip :=
  let m := (c.blk k).cell u
  match m.injq with
  | e :: rest =>
    if m.running ∧ m.delivered = false ∧ c.atPoint k m ∧ 2 ≤ e.age ∧ e.value.isSome then
      (c.inject m e).setCell k u { m with injq := rest, delivered := true }
    else c
  | [] => c

/-- INJECTION_DELIVERY's effect (R193). -/
def Chip.injectionDelivery (c : Chip) (u : MacUnit) : Chip := c.deliver (blkKey u.r u.b) u.u

/-- A fence is taken at an interruptible point, after the point's delivery (R193, R195). -/
def Chip.fenceTake (c : Chip) (u : MacUnit) : Chip :=
  let k := blkKey u.r u.b
  let m := (c.blk k).cell u.u
  match (c.blk k).content with
  | none => c
  | some t =>
    if m.fenceReq ∧ c.atPoint k m then
      if m.running then c.macFence k u.u t m else c.setCell k u.u { m with fenceReq := false, fenced := true }
    else c

/-- Does a MAC cell stand for a halt (R194): between passes, or stopped at an interruptible point? -/
def MacCell.stands (m : MacCell) : Bool := !m.running || m.halted

/-- A block's halt takes effect once its MAC cells stand, the standby cell among them (R194, R589): source 109. DEDUCED
(assumption 68). -/
def Chip.haltEffect (c : Chip) (k : Nat) : Chip :=
  let b := c.blk k
  if b.halted && b.haltDue && (b.cell 0).stands && (b.cell 1).stands && (b.cell 2).stands then
    (c.updBlk k fun x => { x with haltDue := false }).raise 109
  else c

/-- A halt of the block is taken at an interruptible point, after the point's delivery (R193, R194). DEDUCED (assumption 68). -/
def Chip.haltTake (c : Chip) (u : MacUnit) : Chip :=
  let k := blkKey u.r u.b
  let m := (c.blk k).cell u.u
  if (c.blk k).halted ∧ m.fenceReq = false ∧ c.atPoint k m then
    let c := c.deliver k u.u
    (c.setCell k u.u { (c.blk k).cell u.u with halted := true }).haltEffect k
  else c

/-! ### Glaze passes -/

/-- One pass of a glaze slot for a cell code 0–7 (R103). Joined MAC passes run from glaze slot 0. DEDUCED (assumption 15). -/
def Chip.glazePass (s : MemState) (c : Chip) (r b g cell : Nat) (bad : CellParity) : Chip :=
  match c.running r b with
  | none => c
  | some t =>
    let k := blkKey r b
    let key := 40 * k + 16 + g
    let x := c.slot key
    let n := c.clk.smp
    let bads := bad.code.map fun a => a.toNat
    match x.role with
    | .glaze m joined =>
      let started := match x.glaze with
        | some f => decide (f.start ≤ n)
        | none => false
      if (c.blk k).glazes = false ∨ started = false then c
      else if cell ≤ 3 then
        if t.phase.getD cell [] = [] then c
        else (Chip.phaseAt s c t r b cell key n false bads).parityIf (!bads.isEmpty) r b g 8
      else if cell = 6 then
        if t.contour = [] then c else (c.contourAt t key n bads).parityIf (!bads.isEmpty) r b g 8
      else if cell = 7 then
        if t.routes = [] then c else (c.matrixAt t key n false bads none).parityIf (!bads.isEmpty) r b g 8
      else if (t.prog (cell - 4)).isNone ∨ (joined ∧ m ≠ 0) then c
      else c.macStart k 2 (cell - 4) key n (x.glazeKeys key) g true bad
    | _ => c

/-! ### Meanings -/

/-- MAC_PASS (R188). -/
def execMacPass (u : MacUnit) (s : Fin 16) (bad : CellParity) : State → Host.Outcome State Fault Refusal :=
  act fun c => c.macPass u.r u.b u.u s bad

/-- GLAZE_PASS (R103). -/
def execGlazePass (r : Fin 4) (b : Fin 24) (g : Fin 2) (cell : Fin 8) (bad : CellParity) :
    State → Host.Outcome State Fault Refusal :=
  fun st => actFree (fun c => Chip.glazePass st.mem c r b g cell bad) st

/-- END (R220). -/
def execEndPass (c : MacUnit) : State → Host.Outcome State Fault Refusal :=
  act fun ch => ch.macStep c .endPass fun ch k u t m bad =>
    if bad then ch.macIssueAt k u t m .nop true else (ch.macEnd k u t m).haltEffect k

/-- ILLEGAL (R228): a reserved word acts as a no-operation and raises ILLEGAL. -/
def execIllegal (c : MacUnit) (word : Word) : State → Host.Outcome State Fault Refusal :=
  act fun ch => ch.macRun c (.illegal word)

/-- INJECTION_DELIVERY (R193). -/
def execInjectionDelivery (c : MacUnit) : State → Host.Outcome State Fault Refusal :=
  act fun ch => ch.injectionDelivery c

/-- FENCE_TAKE (R195). -/
def execFenceTake (c : MacUnit) : State → Host.Outcome State Fault Refusal := act fun ch => (ch.fenceTake c).haltEffect (blkKey c.r c.b)

/-- HALT_TAKE (R194). -/
def execHaltTake (c : MacUnit) : State → Host.Outcome State Fault Refusal := act fun ch => ch.haltTake c

/-- BUDGET_CUT (R90). -/
def execBudgetCut (c : MacUnit) : State → Host.Outcome State Fault Refusal := act fun ch => (ch.budgetCut c).haltEffect (blkKey c.r c.b)

/-- NOP (R219). -/
def execNop (c : MacUnit) : State → Host.Outcome State Fault Refusal :=
  act fun ch => ch.macRun c .nop

/-- BRA (R221). -/
def execBra (c : MacUnit) (target : BitVec 9) : State → Host.Outcome State Fault Refusal :=
  act fun ch => ch.macRun c (.bra target)

/-- BCC (R221). -/
def execBcc (c : MacUnit) (cond : BitVec 4) (target : BitVec 9) : State → Host.Outcome State Fault Refusal :=
  act fun ch => ch.macRun c (.bcc cond target)

/-- DO (R222). -/
def execDoLoop (c : MacUnit) (count : BitVec 10) (stop : BitVec 9) : State → Host.Outcome State Fault Refusal :=
  act fun ch => ch.macRun c (.doLoop count stop)

/-- REP (R223). -/
def execRep (c : MacUnit) (count : BitVec 10) : State → Host.Outcome State Fault Refusal :=
  act fun ch => ch.macRun c (.rep count)

/-- REP from a register (R223). -/
def execRepFromRegister (c : MacUnit) (reg : BitVec 6) : State → Host.Outcome State Fault Refusal :=
  act fun ch => ch.macRun c (.repReg reg)

/-- INJ (R224). -/
def execInj (c : MacUnit) (src : BitVec 3) (page : BitVec 3) (view : BitVec 1) (word : BitVec 6) : State → Host.Outcome State Fault Refusal :=
  act fun ch => ch.macRun c (.inj src page view word)

/-- LDI (R217). -/
def execLdi (c : MacUnit) (dst : BitVec 4) (imm : BitVec 24) : State → Host.Outcome State Fault Refusal :=
  act fun ch => ch.macRun c (.ldi dst imm)

/-- MVX (R215). -/
def execMvx (c : MacUnit) (fields : BitVec 29) : State → Host.Outcome State Fault Refusal :=
  act fun ch => ch.macRun c (.mvx fields)

/-- MOVE (R218). -/
def execMove (c : MacUnit) (dst : BitVec 6) (src : BitVec 6) : State → Host.Outcome State Fault Refusal :=
  act fun ch => ch.macRun c (.move dst src)

/-- PMOV (R208). -/
def execPmovOp (c : MacUnit) (d : BitVec 1) (s : BitVec 3) (mv : BitVec 22) : State → Host.Outcome State Fault Refusal :=
  act fun ch => ch.macRun c (.arith .pmov d s mv)

/-- MPY (R208). -/
def execMpyOp (c : MacUnit) (d : BitVec 1) (s : BitVec 3) (mv : BitVec 22) : State → Host.Outcome State Fault Refusal :=
  act fun ch => ch.macRun c (.arith .mpy d s mv)

/-- MPYN (R208). -/
def execMpynOp (c : MacUnit) (d : BitVec 1) (s : BitVec 3) (mv : BitVec 22) : State → Host.Outcome State Fault Refusal :=
  act fun ch => ch.macRun c (.arith .mpyn d s mv)

/-- MAC (R208). -/
def execMacOp (c : MacUnit) (d : BitVec 1) (s : BitVec 3) (mv : BitVec 22) : State → Host.Outcome State Fault Refusal :=
  act fun ch => ch.macRun c (.arith .mac d s mv)

/-- MACN (R208). -/
def execMacnOp (c : MacUnit) (d : BitVec 1) (s : BitVec 3) (mv : BitVec 22) : State → Host.Outcome State Fault Refusal :=
  act fun ch => ch.macRun c (.arith .macn d s mv)

/-- LD (R208). -/
def execLdOp (c : MacUnit) (d : BitVec 1) (s : BitVec 3) (mv : BitVec 22) : State → Host.Outcome State Fault Refusal :=
  act fun ch => ch.macRun c (.arith .ld d s mv)

/-- ADD (R208). -/
def execAddOp (c : MacUnit) (d : BitVec 1) (s : BitVec 3) (mv : BitVec 22) : State → Host.Outcome State Fault Refusal :=
  act fun ch => ch.macRun c (.arith .add d s mv)

/-- SUB (R208). -/
def execSubOp (c : MacUnit) (d : BitVec 1) (s : BitVec 3) (mv : BitVec 22) : State → Host.Outcome State Fault Refusal :=
  act fun ch => ch.macRun c (.arith .sub d s mv)

/-- NEG (R208). -/
def execNegOp (c : MacUnit) (d : BitVec 1) (s : BitVec 3) (mv : BitVec 22) : State → Host.Outcome State Fault Refusal :=
  act fun ch => ch.macRun c (.arith .neg d s mv)

/-- ABS (R208). -/
def execAbsOp (c : MacUnit) (d : BitVec 1) (s : BitVec 3) (mv : BitVec 22) : State → Host.Outcome State Fault Refusal :=
  act fun ch => ch.macRun c (.arith .abs d s mv)

/-- CLR (R208). -/
def execClrOp (c : MacUnit) (d : BitVec 1) (s : BitVec 3) (mv : BitVec 22) : State → Host.Outcome State Fault Refusal :=
  act fun ch => ch.macRun c (.arith .clr d s mv)

/-- SHL (R208). -/
def execShlOp (c : MacUnit) (d : BitVec 1) (s : BitVec 3) (mv : BitVec 22) : State → Host.Outcome State Fault Refusal :=
  act fun ch => ch.macRun c (.arith .shl d s mv)

/-- SHR (R208). -/
def execShrOp (c : MacUnit) (d : BitVec 1) (s : BitVec 3) (mv : BitVec 22) : State → Host.Outcome State Fault Refusal :=
  act fun ch => ch.macRun c (.arith .shr d s mv)

/-- AND (R208). -/
def execAndOp (c : MacUnit) (d : BitVec 1) (s : BitVec 3) (mv : BitVec 22) : State → Host.Outcome State Fault Refusal :=
  act fun ch => ch.macRun c (.arith .and d s mv)

/-- OR (R208). -/
def execOrOp (c : MacUnit) (d : BitVec 1) (s : BitVec 3) (mv : BitVec 22) : State → Host.Outcome State Fault Refusal :=
  act fun ch => ch.macRun c (.arith .or d s mv)

/-- EOR (R208). -/
def execEorOp (c : MacUnit) (d : BitVec 1) (s : BitVec 3) (mv : BitVec 22) : State → Host.Outcome State Fault Refusal :=
  act fun ch => ch.macRun c (.arith .eor d s mv)

/-- CMP (R208). -/
def execCmpOp (c : MacUnit) (d : BitVec 1) (s : BitVec 3) (mv : BitVec 22) : State → Host.Outcome State Fault Refusal :=
  act fun ch => ch.macRun c (.arith .cmp d s mv)

/-- MAX (R208). -/
def execMaxOp (c : MacUnit) (d : BitVec 1) (s : BitVec 3) (mv : BitVec 22) : State → Host.Outcome State Fault Refusal :=
  act fun ch => ch.macRun c (.arith .max d s mv)

/-- MIN (R208). -/
def execMinOp (c : MacUnit) (d : BitVec 1) (s : BitVec 3) (mv : BitVec 22) : State → Host.Outcome State Fault Refusal :=
  act fun ch => ch.macRun c (.arith .min d s mv)

/-- CLIP (R208). -/
def execClipOp (c : MacUnit) (d : BitVec 1) (s : BitVec 3) (mv : BitVec 22) : State → Host.Outcome State Fault Refusal :=
  act fun ch => ch.macRun c (.arith .clip d s mv)

/-- TAP (R214). -/
def execTapOp (c : MacUnit) (d : BitVec 1) (s : BitVec 3) (mv : BitVec 22) : State → Host.Outcome State Fault Refusal :=
  act fun ch => ch.macRun c (.arith .tap d s mv)

/-- TAPN (R214). -/
def execTapnOp (c : MacUnit) (d : BitVec 1) (s : BitVec 3) (mv : BitVec 22) : State → Host.Outcome State Fault Refusal :=
  act fun ch => ch.macRun c (.arith .tapn d s mv)

end Sys2Proof.Machine
end

