-- ==== Sys2Proof/Machine/Blocks.lean ====
section
/-! DEFINITION. Loads, wakes, gating, disabling and the table cache of blocks, and the host's access to cell memories (chapter
"Blocks, slots and the pass budget", R108 to R124, and R197 to R202). -/

namespace Sys2Proof.Machine

/-- The source of region r: +0 block fault, +1 load or wake complete, +2 ready list full, +3 region fault (R121). -/
def rgnSource (r i : Nat) : Nat := 112 + 4 * r + i

/-! ### Entries that go back to the allocator -/

/-- RGNn_RDY.OCC reports a ready list's entries, and PEAK their highest number since PEAK was written, the number that stood
before this change among them (R122). -/
def Chip.readyStat (c : Chip) (r : Nat) : Chip :=
  let n := (c.rgn r).ready.length
  (c.setFld (RGNn_RDY_OCC r) n).setFld (RGNn_RDY_PEAK r) (max (max (c.fld (RGNn_RDY_PEAK r)) (c.fld (RGNn_RDY_OCC r))) n)

/-- Does a steal or a glaze in place that waits or has been selected name the voice of a slot and generation (R327)? -/
def Chip.named (c : Chip) (base : Nat) (gen : BitVec 5) : Bool :=
  let x := c.rgn (base / 960)
  (x.ready ++ x.held ++ x.sel).any fun f => decide (f.kind = 1 ∨ f.kind = 2 ∨ f.kind = 6)
    && decide (slotKey f.region f.block f.slot = base) && decide (f.gen = gen)

/-- The voice of a slot counts again unless another placed steal or glaze in place names it (R326, R327). -/
def Chip.countAgain (c : Chip) (base : Nat) : Chip :=
  c.updSlot base fun x => { x with voice := x.voice.map fun w =>
    { w with counted := w.counted || (decide (w.st = .gated ∨ w.st = .release) && !c.named base w.gen) } }

/-- The pending voice that an entry out of the lists would start gives up its place (R326): its group, its glaze reservation and its
rings; a steal victim counts again. -/
def Chip.unplace (c : Chip) (e : Entry) : Chip :=
  let base := slotKey e.region e.block e.slot
  match (c.slot base).pend with
  | none => c
  | some v =>
    if e.kind ≤ 2 ∧ v.gen = e.newGen then
      let c := (c.updSlot base fun x => { x with pend := none }).countAgain base
      let c := c.dropPendingRings e.region e.block e.slot v.link
      if e.kind = 1 then c.updBlk (blkKey e.region e.block) fun b => { b with glzRes := b.glzRes - (if v.link = 1 then 1 else 2) } else c
    else c

/-- Note-ons that wait for an evicted block to empty are withdrawn: their entries, and their blocks are visible again (R316). -/
def Chip.pullEvicts (c : Chip) (hit : Entry → Bool) : List Entry × Chip :=
  let gone := (c.ez.evicts.filter fun w => hit w.entry).map fun w => w.entry
  let c := c.updEz fun z => { z with evicts := z.evicts.filter fun w => !hit w.entry }
  (gone, c.forL gone fun e c => c.updBlk (blkKey e.region e.block) fun b => { b with evicting := false })

/-- Does a returned entry go back to the allocator (R655): a note-on or a steal, or an entry of kind 3 to 5 that follows a note-on
which returns with it? Every other one is discarded. -/
def Entry.goesBack (gone : List Entry) (e : Entry) : Bool :=
  decide (e.kind ≤ 2) || (decide (e.kind ≤ 5) && gone.any fun f =>
    decide (f.kind ≤ 2) && decide (f.block = e.block) && decide (f.slot = e.slot) && decide (f.newGen = e.gen))

/-- Entries of every list that name a block return to the allocator (R113, R120, R559, R655). DEDUCED (assumption 52). -/
def Chip.returnEntries (c : Chip) (r b : Nat) : Chip :=
  let hit (e : Entry) : Bool := decide (e.region = r) && decide (e.block = b)
  let x := c.rgn r
  let gone := (x.ready ++ x.held).filter hit
  let c := c.updRgn r fun x =>
    { x with ready := x.ready.filter fun e => !hit e, held := x.held.filter fun e => !hit e }
  let c := c.forL gone fun e c => c.unplace e
  let (waits, c) := c.pullEvicts hit
  let gone := gone ++ waits
  { c.readyStat r with returned := sortBy (fun e => e.arrival) (c.returned ++ gone.filter (Entry.goesBack gone)) }

/-! ### The load path -/

/-- Does the region's load path hold a request for the block (R110)? DEDUCED (assumption 101). -/
def Chip.loadWaits (c : Chip) (r b : Nat) : Bool := (c.rgn r).loads.any fun q => decide (q.block = b)

/-- Does it hold one that a placement made, for which R112 holds from the request on (R312)? A request of the host hides the block
from its start alone (R310). DEDUCED (assumption 101). -/
def Chip.placeWaits (c : Chip) (r b : Nat) : Bool := (c.rgn r).loads.any fun q => decide (q.block = b) && !q.host

/-- Queue a request on the region's load path (R110, R111). DEDUCED (assumption 33). -/
def Chip.queueLoad (c : Chip) (r : Nat) (q : LoadReq) : Chip := c.updRgn r fun x => { x with loads := x.loads ++ [q] }

/-- A placement requests a load, a wake or both (R311, R316). DEDUCED (assumption 33). -/
def Chip.requestLoad (c : Chip) (r b tmpl : Nat) (wake load bus : Bool) : Chip :=
  c.queueLoad r { block := b, wake := wake, load := load, tmpl := tmpl, bus := bus }

/-- BLK_STAT.TMPL: the resident template's code (R125). -/
def Block.tmplCode (b : Block) : Nat := match b.content with | some t => t.tmpl.id | none => 0x1F

/-- A host's load request by BLK_CTL (R110); a block that an eviction empties has its load waiting. DEDUCED (assumption 33). DESIGN
CHOICE (assumption 117). -/
def Chip.hostLoad (c : Chip) (r b tmpl : Nat) (bus : Bool) : Chip :=
  let k := blkKey r b
  let x := c.blk k
  let gated := decide (x.st = .gated)
  let ok := (decide (x.st = .empty) || gated) && !x.draining && !x.evicting && c.blkEmpty k && !c.loadWaits r b
    && (if bus then decide (16 ≤ tmpl ∧ tmpl ≤ 23) else decide (tmpl ≤ 15)) && c.pal.loaded && (c.pal.tmpl tmpl).isSome
  if !ok then c.set1 (BLK_STAT_LOAD_REJ r b)
  else if x.tmplCode = tmpl ∧ gated = false then c.raise (rgnSource r 1)
  else c.queueLoad r { block := b, wake := gated, load := decide (x.tmplCode ≠ tmpl), tmpl := tmpl, bus := bus, host := true }

/-- A block gives up its template: the affinity records that name it are cleared (R312). -/
def Chip.dropAffinity (c : Chip) (r b : Nat) : Chip :=
  { c with parts := c.parts.map fun p =>
      (p.1, { p.2 with aff := p.2.aff.filter fun a => decide ((a.2 - 1) / 40 ≠ blkKey r b) }) }

/-- Lines read from the bank as the block's cache holds them (R114). -/
def readLine (m : MemState) (r line : Nat) : List Word :=
  (List.range 16).map fun i => m.rd (contentAddr r (16 * line + i))

/-- Refill the pinned lines (R114, R119). All of them stay resident, though more than four share a set. DESIGN CHOICE
(assumption 106). -/
def Block.pinLines (b : Block) (m : MemState) (r : Nat) (lines : List Nat) : Block :=
  { b with cache := lines.map fun l => { line := l, words := readLine m r l, used := 0, pinned := true }, refills := [] }

/-- Initial data in a partition (R55). -/
def initPart (p : Option CellProg) (y : Bool) : Tab Q :=
  match p with
  | some p =>
    let l := if y then p.ydata else p.xdata
    (List.range l.length).foldl (fun t i => tabSet t 0 i (l.getD i 0)) []
  | none => []

/-- A slot whose partitions take the initial data of the programs (R55). -/
def SlotSt.initParts (x : SlotSt) (t : Content) : SlotSt :=
  { x with x0 := initPart t.mac0 false, y0 := initPart t.mac0 true, x1 := initPart t.mac1 false, y1 := initPart t.mac1 true }

/-- A page as a table of words. -/
def pageOf (ws : List Word) : Tab Word := (List.range 64).foldl (fun t i => tabSet t 0 i (ws.getD i 0)) []

/-- All slots of a bus block become active (R108, R109). -/
def Chip.startBus (c : Chip) (k : Nat) (t : Content) : Chip :=
  c.forN c.slotCount fun s c => c.updSlot (40 * k + s) fun x =>
    let p := pageOf t.tmpl.page
    ({ gen := x.gen, role := .bus, back := p, front := p, prev := p, first := c.clk.smp + 1, mates := [40 * k + s]
       gate := true } : SlotSt).initParts t

/-- Has a slot of the block a pending voice? -/
def Chip.pendsInBlock (c : Chip) (k : Nat) : Bool := (List.range 16).any fun s => (c.slot (40 * k + s)).pend.isSome

/-- A load starts: the block is quiesced, its memories and cache tags are cleared (R111 phases 1 and 2). One that the host asked
waits for the note-ons placed in the block before, since R112 leaves in the lists only those that caused the load. DESIGN CHOICE
(assumption 117). DESIGN CHOICE (assumption 118). -/
def Chip.loadStart (c : Chip) (r : Nat) : Chip :=
  match (c.rgn r).loads with
  | q :: rest =>
    let k := blkKey r q.block
    let x := c.blk k
    if q.wake ∨ q.running ∨ q.load = false ∨ x.st ≠ .empty ∨ x.draining ∨ (q.host && c.pendsInBlock k) then c
    else
      let c := c.updRgn r fun g => { g with loads := { q with running := true } :: rest }
      let c := c.forN 16 fun s c => c.updSlot (40 * k + s) fun y => { y with x0 := [], y0 := [], x1 := [], y1 := [] }
      c.updBlk k fun x => { x with st := .loading, content := none, cache := [], refills := [], gateCnt := 0 }
  | [] => c

/-- A load's copy fails its check (R113): the block is left empty and its entries return. -/
def Chip.loadFail (c : Chip) (r b : Nat) : Chip :=
  let c := c.updBlk (blkKey r b) fun x => { x with st := .empty, content := none, bus := false }
  (c.blkFault r b 0 15 0x21).returnEntries r b

/-- The end of a load (R111 phases 3 to 5, R654): the content is copied from the bank and checked. The slots of a bus block start
unless the block has been disabled meanwhile (R108, R120). -/
def State.loadDone (s : State) (r : Nat) : State :=
  match (s.chip.rgn r).loads with
  | q :: rest =>
    if q.running ∧ q.wake = false ∧ q.load then
      let k := blkKey r q.block
      let c := s.chip.updRgn r fun g => { g with loads := rest }
      match c.pal.tmpl q.tmpl with
      | none => { s with chip := c.loadFail r q.block }
      | some t =>
        let c := c.eccRead s.mem (contentAddr r (c.pal.imageBase t.id r)) (c.pal.imageSize t r)
        let ws := (List.range (c.pal.imageSize t r)).map fun i => s.mem.rd (contentAddr r (c.pal.imageBase t.id r + i))
        if crcWords ws.dropLast ≠ ws.getLast?.getD 0 then { s with chip := c.loadFail r q.block }
        else
          let (t', c0, c1) := c.pal.contentOf t ws
          let c := t'.pinned.foldl (fun c l => c.eccRead s.mem (contentAddr r (16 * l)) 16) c
          let c := c.updBlk k fun x =>
            { x.pinLines s.mem r t'.pinned with
                st := .empty, content := some t', pm0 := progMem c0, pm1 := progMem c1, bus := q.bus }
          let c := c.forN 16 fun i c => c.updSlot (40 * k + i) fun y => y.initParts t'
          let c := (c.dropAffinity r q.block).raise (rgnSource r 1)
          let c := if q.bus && !(c.blk k).draining then c.startBus k t' else c
          { s with chip := c.blkNorm k }
    else s
  | [] => s

/-! ### Operating points (R598, R599) -/

/-- A wake starts (R119); a region that dozes stops dozing (R601). -/
def Chip.wakeStart (c : Chip) (r : Nat) : Chip :=
  match (c.rgn r).loads with
  | q :: rest =>
    if q.wake ∧ q.running = false then
      let c := c.updRgn r fun g => { g with loads := { q with running := true } :: rest }
      ((c.updBlk (blkKey r q.block) fun x => { x with st := .waking }).bankWake r).pointUp r
    else c
  | [] => c

/-- A wake ends (R119, R121): power is back and the pinned lines are refilled. A load that was asked with it follows, unless the block
has been disabled meanwhile (R110, R120). DESIGN CHOICE (assumption 118). -/
def State.wakeDone (s : State) (r : Nat) : State :=
  match (s.chip.rgn r).loads with
  | q :: rest =>
    if q.wake ∧ q.running then
      let c := s.chip.updRgn r fun g =>
        { g with loads := if q.load && !(s.chip.blk (blkKey r q.block)).draining then
            { q with wake := false, running := false } :: rest else rest }
      let lines := match (s.chip.blk (blkKey r q.block)).content with | some t => t.pinned | none => []
      let c := lines.foldl (fun c l => c.eccRead s.mem (contentAddr r (16 * l)) 16) (c.bankWakeEnd r)
      let c := c.updBlk (blkKey r q.block) fun x => { x.pinLines s.mem r lines with st := .empty, gateCnt := 0 }
      { s with chip := c.raise (rgnSource r 1) }
    else s
  | [] => s

/-! ### Gating -/

/-- The boundary count at which an empty block is power-gated (R118). -/
def Chip.gateLimit (c : Chip) (r : Nat) : Nat := ceilDiv (c.fld (RGNn_PGDLY_MS r) * c.fs) 1000

/-- A table of n unpredictable words (R118: what a gated memory held is lost). -/
def freeWords (ctr site n : Nat) : Tab Word := (List.range n).map fun i => (i, Config.freeWord ctr (site + i))

/-- A table of n unpredictable values. -/
def freeQs (ctr site n : Nat) : Tab Q := (List.range n).map fun i => (i, (Config.freeWord ctr (site + i)).setWidth 24)

/-- A slot of a block that has lost its power (R118). DEDUCED (assumption 10). -/
def SlotSt.lost (x : SlotSt) (ctr site p : Nat) : SlotSt :=
  let page := freeWords ctr site 64
  { gen := x.gen, pend := x.pend, back := page, front := page, prev := page
    x0 := freeQs ctr (site + 64) p, y0 := freeQs ctr (site + 1088) p, x1 := freeQs ctr (site + 2112) p
    y1 := freeQs ctr (site + 3136) p }

/-- Power-gate a block whose boundary count has reached its limit (R118). A load that waits for it wakes it first (R110), and so does
a note-on placed in it. DEDUCED (assumption 10). DESIGN CHOICE (assumption 118). -/
def Chip.powerGate (c : Chip) (r b : Nat) : Chip :=
  let k := blkKey r b
  let x := c.blk k
  if x.st = .empty ∧ x.bus = false ∧ c.fld (RGNn_PGDLY_MS r) ≠ 0 ∧ c.is (BLK_CTL_KEEP r b) = false
      ∧ c.gateLimit r ≤ x.gateCnt then
    let c := c.forN c.slotCount fun s c => c.updSlot (40 * k + s) fun y => y.lost c.ctr (10000 * s) c.partition
    let c := c.updBlk k fun x => { x with st := .gated, cache := [], refills := [] }
    if c.loadWaits r b then
      c.updRgn r fun g => { g with loads := g.loads.map fun q => if q.block = b then { q with wake := true } else q }
    else if c.pendsInBlock k then c.requestLoad r b x.tmplCode true false false
    else c
  else c

/-! ### Disabling and enabling -/

/-- Voices of a block, by base slot. -/
def Chip.blkVoices (c : Chip) (k : Nat) : List (Nat × Voice) := c.voicesIn.filter fun v => decide (v.1 / 40 = k)

/-- Glaze in place every voice of a block over its glaze time from sample n on (R107, R120, R302, R316). -/
def Chip.glazeBlock (c : Chip) (k n : Nat) : Chip :=
  c.forL (c.blkVoices k) fun v c =>
    if v.2.st = .gated ∨ v.2.st = .release then c.glazeInPlace v.1 n v.2.glz else c

/-- A live block fade starts (R350); one requested during any fade of the block has no effect (R351). DEDUCED (assumption 74). -/
def Chip.liveFade (c : Chip) (k : Nat) (disable : Bool) : Chip :=
  match (tabGet c.cnv.fades none k : Option BlockFade) with
  | some _ => c
  | none =>
    let f : BlockFade := { heldKind := false, start := c.clk.smp + 1, disable := disable }
    { c with cnv := { c.cnv with fades := tabSet c.cnv.fades none k (some f) } }

/-- CNV_BFADE shows the block fades that begin with sample n (R355). -/
def Chip.showFades (c : Chip) (n : Nat) : Chip :=
  c.forL (c.cnv.fades.filterMap fun p => match p.2 with
      | some f => if f.start = n then some p.1 else none
      | none => none) fun k c =>
    let a := CNV_BFADE (k / 24)
    c.setReg a (c.reg a ||| (1#32 <<< (k % 24)))

/-- A block fade is cleared (R350). -/
def Chip.clearFade (c : Chip) (k : Nat) : Chip :=
  let c : Chip := { c with cnv := { c.cnv with fades := tabSet c.cnv.fades none k none } }
  let a := CNV_BFADE (k / 24)
  c.setReg a (c.reg a &&& ~~~(1#32 <<< (k % 24)))

/-- A block drops its template and reads disabled (R120). -/
def Chip.dropBlock (c : Chip) (k : Nat) : Chip :=
  let c := c.forN 16 fun s c => c.updSlot (40 * k + s) fun x => x.emptied
  (c.updBlk k fun x =>
    { x with st := .disabled, content := none, bus := false, draining := false, cache := [], refills := [], gateCnt := 0
             cells := [] }).dropAffinity (k / 24) (k % 24)

/-- Writing BLK_CTL.EN = 0 (R120): requests for the block that the load path has not begun are dropped, for it takes no template
while it is disabled (R110). DEDUCED (assumption 99). -/
def Chip.blockDisable (c : Chip) (r b : Nat) : Chip :=
  let k := blkKey r b
  let x := c.blk k
  let c := c.clr (BLK_CTL_EN r b)
  if x.st = .disabled ∨ x.st = .failed ∨ x.draining then c
  else
    let c := c.updRgn r fun g => { g with loads := g.loads.filter fun q => decide (q.block ≠ b) || q.running }
    let c := (c.updBlk k fun x => { x with draining := true }).returnEntries r b
    if x.bus then c.liveFade k true else c.glazeBlock k (c.clk.smp + 1)

/-- Writing BLK_CTL.EN = 1 (R120): a block whose drain ends is seen from the next scan. DEDUCED (assumption 77). -/
def Chip.blockEnable (c : Chip) (r b : Nat) : Chip :=
  let k := blkKey r b
  let c := c.set1 (BLK_CTL_EN r b)
  let x := c.blk k
  if x.st = .disabled then (c.updBlk k fun x => { x with st := .empty }).pointUp r
  else
    let c := c.updBlk k fun x => { x with draining := false, seen := if x.draining then c.clk.smp + 1 else x.seen }
    match x.content with
    | some t => if x.draining ∧ x.bus ∧ x.st = .empty then (c.startBus k t).blkNorm k else c
    | none => c

/-- A draining block that has become empty is disabled (R120); a load or a wake under way ends first, and the slots of a bus block
are active until the end of its fade. -/
def Chip.drainEnd (c : Chip) (r b : Nat) : Chip :=
  let k := blkKey r b
  let x := c.blk k
  if x.draining ∧ (x.st = .empty ∨ x.st = .running ∨ x.st = .gated) ∧ c.blkEmpty k = true then c.dropBlock k
  else c

/-- A write of BLK_CTL (R110, R120, R124). EN acts before LOAD, so that a block may be enabled and loaded by one write.
DESIGN CHOICE (assumption 105). -/
def Chip.blkCtlWrite (c : Chip) (r b : Nat) (v : Word) (load : Bool) : Chip :=
  let c := ((c.setFld (BLK_CTL_TMPL r b) (fieldOf v 8 5)).setFld (BLK_CTL_KEEP r b) (fieldOf v 3 1)).setFld
    (BLK_CTL_MODE r b) (fieldOf v 2 1)
  let en := v.getLsbD 0
  let c := if c.is (BLK_CTL_EN r b) = en then c else if en then c.blockEnable r b else c.blockDisable r b
  if load then c.hostLoad r b (fieldOf v 8 5) (v.getLsbD 2) else c

/-! ### The table cache -/

/-- A refilled line enters its set, in place of the least recently used line that is not pinned, to serve reads from a sample on
(R114, R115). -/
def Block.fill (b : Block) (line : Nat) (words : List Word) (ready : Nat) : Block :=
  let set := b.cache.filter fun l => decide (l.line % 128 = line % 128)
  let new : CacheLine := { line := line, words := words, used := b.useClock, pinned := false, ready := ready }
  let b : Block := { b with refills := b.refills.filter fun l => decide (l ≠ line) }
  if b.cache.any fun l => decide (l.line = line) then b
  else if set.length < 4 then { b with cache := b.cache ++ [new] }
  else match (sortBy (fun l => l.used) (set.filter fun l => !l.pinned)) with
    | v :: _ => { b with cache := (b.cache.filter fun l => decide (l.line ≠ v.line)) ++ [new] }
    | [] => b

/-- A requested line arrives (R115, R116). -/
def State.refillDone (s : State) (r b line : Nat) : State :=
  let k := blkKey r b
  if line ∈ (s.chip.blk k).refills then
    { s with chip := (s.chip.eccRead s.mem (contentAddr r (16 * line)) 16).updBlk k fun x => x.fill line (readLine s.mem r line) (s.chip.clk.smp + 1) }
  else s

/-! ### Host access to cell memories -/

/-- Advance BLK_MACC.ADDR after an access (R198). -/
def Chip.maccStep (c : Chip) (r b : Nat) : Chip :=
  if c.is (BLK_MACC_INC r b) then c.setFld (BLK_MACC_ADDR r b) (c.fld (BLK_MACC_ADDR r b) + 1) else c

/-- Is an access to cell memories refused (R200)? -/
def Chip.maccRefused (c : Chip) (r b : Nat) : Bool :=
  let m := c.fld (BLK_MACC_MEM r b)
  let st := (c.blk (blkKey r b)).st
  decide (m = 3) || (decide (m = 2) && decide (511 < c.fld (BLK_MACC_ADDR r b)))
    || (decide (m = 2) && !(decide (st = .empty) || decide (st = .gated))) || c.saf.prot

/-- A read of BLK_MDAT: the word, and whether it is refused (R199, R200). -/
def Chip.mdatRead (c : Chip) (r b : Nat) : Word × Bool × Chip :=
  if c.maccRefused r b then (0, true, (c.set1 (BLK_MACC_ERR r b)).raiseIf c.saf.prot 108)
  else
    let k := blkKey r b
    let a := c.fld (BLK_MACC_ADDR r b)
    let cell := c.fld (BLK_MACC_CELL r b)
    let m := c.fld (BLK_MACC_MEM r b)
    let v : Word := if m = 2 then tabGet (if cell = 0 then (c.blk k).pm0 else (c.blk k).pm1) 0 a
      else (tabGet ((c.slot (40 * k + a / c.partition)).part_ cell (decide (m = 1))) 0 (a % c.partition)).signExtend 32
    (v, false, c.maccStep r b)

/-- A write of BLK_MDAT: whether it is refused (R199, R200). DEDUCED (assumption 73). -/
def Chip.mdatWrite (c : Chip) (r b : Nat) (v : Word) : Bool × Chip :=
  if c.maccRefused r b then (true, (c.set1 (BLK_MACC_ERR r b)).raiseIf c.saf.prot 108)
  else
    let k := blkKey r b
    let a := c.fld (BLK_MACC_ADDR r b)
    let cell := c.fld (BLK_MACC_CELL r b)
    let m := c.fld (BLK_MACC_MEM r b)
    let c := if m = 2 then
        c.updBlk k fun x => if cell = 0 then { x with pm0 := tabSet x.pm0 0 a v } else { x with pm1 := tabSet x.pm1 0 a v }
      else c.updSlot (40 * k + a / c.partition) fun x =>
        x.setPart cell (decide (m = 1)) (tabSet (x.part_ cell (decide (m = 1))) 0 (a % c.partition) (wordQ v))
    (false, c.maccStep r b)

/-- Give the host the words of a read, or its error (R510, R512). DEDUCED (assumption 17). -/
def Chip.hostGets (c : Chip) (v : Word) (refused : Bool) : Chip :=
  let c : Chip := { c with host := { c.host with words := [v] } }
  if refused then c.hostErr 4 else c

/-! ### Meanings -/

/-- BLK_LOAD_REQUEST (R110): a write of BLK_CTL with LOAD = 1. -/
def execBlkLoadRequest (r : Fin 4) (b : Fin 24) (v : Word) : State → Host.Outcome State Fault Refusal :=
  act fun c => c.blkCtlWrite r b v true

/-- BLOCK_DISABLE (R120). -/
def execBlockDisable (r : Fin 4) (b : Fin 24) : State → Host.Outcome State Fault Refusal := act fun c => c.blockDisable r b

/-- BLOCK_ENABLE (R120). -/
def execBlockEnable (r : Fin 4) (b : Fin 24) : State → Host.Outcome State Fault Refusal := act fun c => c.blockEnable r b

/-- BLOCK_DRAIN_END (R120). -/
def execBlockDrainEnd (r : Fin 4) (b : Fin 24) : State → Host.Outcome State Fault Refusal := act fun c => c.drainEnd r b

/-- TEMPLATE_LOAD (R111). -/
def execTemplateLoad (r : Fin 4) : State → Host.Outcome State Fault Refusal := act fun c => c.loadStart r

/-- TEMPLATE_LOAD_DONE (R111, R113). -/
def execTemplateLoadDone (r : Fin 4) : State → Host.Outcome State Fault Refusal := actAll fun s => s.loadDone r

/-- BLOCK_WAKE (R119). -/
def execBlockWake (r : Fin 4) : State → Host.Outcome State Fault Refusal := act fun c => c.wakeStart r

/-- BLOCK_WAKE_DONE (R119). -/
def execBlockWakeDone (r : Fin 4) : State → Host.Outcome State Fault Refusal := actAll fun s => s.wakeDone r

/-- BLOCK_POWER_GATE (R118). -/
def execBlockPowerGate (r : Fin 4) (b : Fin 24) : State → Host.Outcome State Fault Refusal :=
  actFree fun c => c.powerGate r b

/-- CACHE_REFILL_DONE (R116). -/
def execCacheRefillDone (r : Fin 4) (b : Fin 24) (line : BitVec 16) : State → Host.Outcome State Fault Refusal :=
  actAll fun s => s.refillDone r b line.toNat

/-- MDAT_READ (R199). -/
def execMdatRead (r : Fin 4) (b : Fin 24) : State → Host.Outcome State Fault Refusal :=
  act fun c => let (v, bad, c) := c.mdatRead r b; c.hostGets v bad

/-- MDAT_WRITE (R199). -/
def execMdatWrite (r : Fin 4) (b : Fin 24) (v : Word) : State → Host.Outcome State Fault Refusal :=
  act fun c => let (bad, c) := c.mdatWrite r b v; if bad then c.hostErr 4 else c

end Sys2Proof.Machine
end

