-- ==== Sys2Proof/Machine/Alloc.lean ====
section
/-! DEFINITION. The allocator (chapter "Parts, voices and stealing", R300 to R328, R655): placing note-ons, stealing,
eviction, the entries of later events, CANCEL, and the creation and destruction of parts. -/

namespace Sys2Proof.Machine

/-! ### Ready lists -/

/-- The stream operators of a phase set: operator and page offset of its STREAM word (R157, R164). -/
def streamOps (t : Content) : List (Nat × Word) :=
  (List.range 16).filterMap fun i =>
    let mode := (t.phase.getD (i / 4) []).getD (2 * (i % 4)) 0
    if modeWave mode = 7 then some (i, mode) else none

/-- Open a ring for one stream operator of a note-on (R459): its quarters 0, 1 and 2 are requested (R461). -/
def Chip.openRing (c : Chip) (r b slot op id start : Nat) : Chip :=
  match c.pal.streams.find? fun z => decide (z.id = id) with
  | none => c
  | some z =>
    if z.frames ≤ start then c
    else
      let m := c.rm r
      match (List.range 256).find? fun n => (tabGet m.rings none n).isNone with
      | none => (c.bump (RGNn_STRCNT_NORING r)).raise 103
      | some n =>
        let g : Ring := { block := b, slot := slot, op := op, stream := id, start := start, want := [1, 2] }
        (c.updRm r fun m => { m with rings := tabSet m.rings none n (some g), heads := m.heads ++ [(n, 0)] }).ringCount r

/-- The rings of a note-on's voice (R459): one for each stream operator of each member. The STREAM word is the template's,
or the page word the entry writes. -/
def Chip.openRings (c : Chip) (e : Entry) : Chip :=
  let k := blkKey e.region e.block
  match (c.slot (40 * k + e.slot)).pend with
  | none => c
  | some v =>
    match c.pal.tmpl v.tmpl with
    | none => c
    | some t =>
      if t.stream = false then c
      else
        let phase := t.phase.map fun i => setOf c.pal.phaseSets i
        let t' : Content := { tmpl := t, mac0 := none, mac1 := none, phase := phase, contour := [], routes := [], wires := []
                              pinned := [] }
        c.forN v.link fun m c => c.forL (streamOps t') fun o c =>
          let w := t.page.getD (phWord o.2 m 2) 0
          c.openRing e.region e.block (e.slot + m) o.1 (fieldOf w 0 12) (fieldOf w 12 20 * 64)

/-- Put an entry into its region's ready list (R284, R321). -/
def Chip.listEntry (c : Chip) (e : Entry) : Chip :=
  let c := (c.updRgn e.region fun x => { x with ready := x.ready ++ [e] }).readyStat e.region
  if e.kind ≤ 2 then c.openRings e else c

/-- Write an entry, or hold it behind those that a full list holds (R284); RGNn_RDY.FULL marks a full list (R122). -/
def Chip.writeEntry (c : Chip) (e : Entry) : Chip :=
  let x := c.rgn e.region
  if x.ready.length < 64 ∧ x.held = [] then c.listEntry e
  else
    let c := c.updRgn e.region fun x => { x with held := x.held ++ [e] }
    if x.ready.length < 64 ∨ c.is (RGNn_RDY_FULL e.region) then c else (c.set1 (RGNn_RDY_FULL e.region)).raise (rgnSource e.region 2)

/-- The entry of an event for a voice or slot: it takes the part's order number (R321). -/
def Chip.entryOf (c : Chip) (ev : Ev) (kind key : Nat) (gen : BitVec 5) (part : Nat) : Entry × Chip :=
  let (st, c) := c.nextStamp
  let seq := (c.part part).seq
  let c := if part = 0 then c else c.updPart part fun p => { p with seq := (p.seq + 1) % 65536 }
  ({ kind := kind, block := keyBlock key, slot := keySlot key, gen := gen, part := part, timed := ev.timed, ts := ev.ts
     tag := ev.tag, seq := seq, region := keyRegion key, arrival := st, late := ev.late, src := ev.src, event := ev.id }, c)

/-! ### The terms of R310 -/

/-- Regions that hold every table of a template. -/
def Palette.tableMask (p : Palette) (t : Template) (r : Nat) : Bool :=
  (t.tables.filterMap p.table).all fun x => x.inRegion r

/-- Is region r in the mask of part p for template t (R310)? A region out of service is in none (R561). -/
def Chip.inMask (c : Chip) (p : Nat) (t : Template) (r : Nat) : Bool :=
  decide (c.fld (PAL_POL_RMASK p) / 2 ^ r % 2 = 1) && c.pal.tableMask t r && !c.is (RGNn_FAULT_OOS r)

/-- The mask of a part (R310), as PAL_PSTAT.TMASK reports it. -/
def Chip.maskOf (c : Chip) (p : Nat) : Nat :=
  match c.pal.tmpl (c.fld (PAL_PCFG_TEMPLATE p)) with
  | some t => (List.range 4).foldl (fun a r => if c.inMask p t r then a + 2 ^ r else a) 0
  | none => 0

/-- Is the block an enabled voice block that allocation sees (R112, R120, R312, R316)? DEDUCED (assumption 101). -/
def Chip.visible (c : Chip) (k : Nat) : Bool :=
  let b := c.blk k
  c.is (BLK_CTL_EN (k / 24) (k % 24)) && !b.fenced && !b.halted && !b.bus && !b.draining
    && !b.evicting && !c.placeWaits (k / 24) (k % 24) && decide (b.seen ≤ c.clk.smp)
    && decide (b.st ≠ .disabled ∧ b.st ≠ .failed ∧ b.st ≠ .loading ∧ b.st ≠ .waking)

/-- Would a load of now leave the block a voice block? BLK_CTL.MODE takes effect with the next load (R124). -/
def Chip.loadsVoice (c : Chip) (k : Nat) : Bool := decide (c.fld (BLK_CTL_MODE (k / 24) (k % 24)) = 0)

/-- Is it awake (R311)? -/
def Block.awake (b : Block) : Bool := decide (b.st = .empty ∨ b.st = .running)

/-- Is the block usable for part p and template t (R310)? -/
def Chip.usable (c : Chip) (p : Nat) (t : Template) (k : Nat) : Bool :=
  c.visible k && (c.blk k).awake && decide ((c.blk k).tmplCode = t.id) && c.inMask p t (k / 24)

/-- The slots a pending voice will hold. -/
def pendSlots (key : Nat) (v : Voice) : List Nat := (List.range v.link).map fun i => key + i

/-- Is the slot free for a placement (R310)? -/
def Chip.slotFree (c : Chip) (key : Nat) : Bool :=
  !(c.slot key).occupied && !(c.pendsIn.any fun p => (pendSlots p.1 p.2).contains key)

/-- The free groups of a block for a LINK, ascending (R310). -/
def Chip.freeGroups (c : Chip) (k link : Nat) : List Nat :=
  (List.range (c.slotCount / link)).filterMap fun g =>
    if (List.range link).all fun i => c.slotFree (40 * k + g * link + i) then some (40 * k + g * link) else none

/-- active(b): member slots of the block that hold voices, counting pending ones (R310). -/
def Chip.activeOf (c : Chip) (k : Nat) : Nat :=
  ((List.range 16).filter fun s =>
    (match (c.slot (40 * k + s)).role with | .member _ _ => true | _ => false)
      || (c.pendsIn.any fun p => (pendSlots p.1 p.2).contains (40 * k + s))).length

/-- Glaze slots that a victim of a LINK needs (R105). -/
def glazeNeed (link : Nat) : Nat := if link = 1 then 1 else 2

/-- The first element of a list with the smallest key. -/
def firstMin {α : Type} (key : α → Int) : List α → Option α
  | [] => none
  | x :: r => some (r.foldl (fun b y => if key y < key b then y else b) x)

/-- Lists of numbers compared element by element. -/
def rankLt : List Int → List Int → Bool
  | a :: as, b :: bs => decide (a < b) || (decide (a = b) && rankLt as bs)
  | _, _ => false

/-! ### The export index -/

/-- Export indices that voices of a part hold, with the order of their placement (R309, R327). -/
def Chip.heldIdx (c : Chip) (p : Nat) : List (Nat × Nat) :=
  (c.pendsIn.filterMap fun x => if x.2.part = p then some (x.2.expIdx, x.2.ord) else none)
    ++ (c.voicesIn.filterMap fun x => if x.2.part = p ∧ (c.slot x.1).current then some (x.2.expIdx, x.2.ord) else none)

/-- The export index of a placement (R309). -/
def Chip.pickIdx (c : Chip) (p : Nat) : Nat :=
  let l := c.heldIdx p
  match (List.range 32).find? fun i => !(l.any fun x => decide (x.1 = i)) with
  | some i => i
  | none => match sortBy (fun x => x.2) l with
    | x :: _ => x.1
    | [] => 0

/-! ### Placing -/

/-- Place a note-on at a base slot (R305, R308, R309, R312): its entry of a kind and its pending voice, and what else the placement
does. `gen` is the generation of its handle; `victim` the voice a steal names. The voice keeps the glaze time that its part has
now (R302). -/
def Chip.issue (c : Chip) (ev : Ev) (p : Nat) (t : Template) (base kind : Nat) (gen : BitVec 5) (victim : Option Voice)
    (seq : Option Nat) : Entry × Voice × Chip :=
  let idx := match victim with
    | some v => if v.part = p then v.expIdx else c.pickIdx p
    | none => c.pickIdx p
  let (e, c) := c.entryOf ev kind base gen p
  let e := { e with gen := (match victim with | some v => v.gen | none => gen), newGen := gen, key := ev.key, value := ev.pitch
                    aux := ev.vel16, expIdx := idx, seq := seq.getD e.seq }
  let v : Voice := { part := p, key := ev.key, st := .pending, link := t.link, expIdx := idx, gen := gen, tmpl := t.id
                     ord := e.arrival, glz := c.glazeUnits p }
  let c := c.updPart p fun q => { q with aff := tabSet q.aff 0 ev.key (base + 1) }
  let c := c.bump (PAL_PCNT_NOTES p)
  let c := if ev.host then
      (c.setFld VX_LAST_TAG ev.tag.toNat).setFld VX_LAST_HANDLE (handleOf base gen) else c
  (e, v, c)

/-- Place a note-on at a base slot and write its entry to the region's ready list (R312); a steal's victim no longer counts (R327). -/
def Chip.placeAt (c : Chip) (ev : Ev) (p : Nat) (t : Template) (base kind : Nat) (victim : Option Voice) (seq : Option Nat) :
    Chip :=
  let g := (c.slot base).gen
  let (e, v, c) := c.issue ev p t base kind (if victim.isSome then genNext g else g) victim seq
  let c := c.updSlot base fun x => { x with pend := some v, voice := x.voice.map fun w =>
    if victim.isSome then { w with counted := false } else w }
  c.writeEntry e

/-- drop(ev) (R317). -/
def Chip.dropNote (c : Chip) (ev : Ev) : Chip :=
  let c := (c.bump PAL_CNT_DROP).raise 26
  if ev.host then (c.setFld VX_LAST_TAG ev.tag.toNat).setFld VX_LAST_HANDLE 0 else c

/-! ### Stealing -/

/-- The steal mode of a part (R334). -/
def Chip.stealMode (c : Chip) (p : Nat) : Nat := c.fld (PAL_POL_STEAL p)

/-- A part's priority; a voice of no part has none. -/
def Chip.prioOf (c : Chip) (p : Nat) : Nat := if c.partExists p then c.fld (PAL_POL_PRIO p) else 0

/-- rank(v) for a note-on of part p and LINK L (R310, R313). -/
def Chip.rank (c : Chip) (p key link : Nat) (x : Nat × Voice) : List Int :=
  let v := x.2
  let mode := c.stealMode p
  [ c.prioOf v.part
  , if mode = 2 ∧ v.part = p ∧ v.key = key then 0 else 1
  , if v.st = .gated then 1 else 0
  , if glazeNeed link ≤ c.glazeFreeOf (x.1 / 40) then 0 else 1
  , if mode = 1 then ((v.loud.foldl max 0 : Nat) : Int) else 0
  , timeDiff v.startTb c.tbLow
  , handleLow x.1 ]

/-- The voice of a list that ranks lowest. -/
def Chip.lowest (c : Chip) (p key link : Nat) : List (Nat × Voice) → Option (Nat × Voice)
  | [] => none
  | x :: r => some (r.foldl (fun b y => if rankLt (c.rank p key link y) (c.rank p key link b) then y else b) x)

/-- Voices a steal may take (R313): gated or in release, no steal naming them, in usable blocks; a voice of a destroyed part belongs
to no part (R303). -/
def Chip.candidates (c : Chip) (p : Nat) (t : Template) (own : Bool) : List (Nat × Voice) :=
  c.voicesIn.filter fun x =>
    decide (x.2.st = .gated ∨ x.2.st = .release) && x.2.counted && (c.slot x.1).pend.isNone && (c.slot x.1).ramp.isNone
      && c.usable p t (x.1 / 40)
      && (if own then decide (x.2.part = p) else decide (x.2.part ≠ 0) && decide (c.prioOf x.2.part ≤ c.prioOf p))

/-- steal(ev, scope) (R313): none where it fails. -/
def Chip.steal (c : Chip) (ev : Ev) (p : Nat) (t : Template) (own : Bool) (seq : Option Nat) : Option Chip :=
  if c.stealMode p = 3 then none
  else match c.lowest p ev.key t.link (c.candidates p t own) with
    | none => none
    | some (base, v) =>
      let clean := decide (glazeNeed t.link ≤ c.glazeFreeOf (base / 40))
      let c := (c.bump PAL_CNT_STEAL).raise (if clean then 24 else 25)
      let c := if c.partExists v.part then c.bump (PAL_PCNT_STOLEN v.part) else c
      let c := if clean then c.updBlk (base / 40) fun b => { b with glzRes := b.glzRes + glazeNeed v.link } else c
      some (c.placeAt ev p t base (if clean then 1 else 2) (some v) seq)

/-! ### Glaze in place and note-offs as entries -/

/-- A pending voice is cancelled before its scan: its entry leaves the list (R107, R326). DEDUCED (assumption 76). -/
def Chip.cancelPend (c : Chip) (base : Nat) (v : Voice) : Chip :=
  let hit (e : Entry) : Bool := decide (e.kind ≤ 2) && decide (slotKey e.region e.block e.slot = base)
    && decide (e.newGen = v.gen)
  let r := keyRegion base
  let x := c.rgn r
  match (x.ready ++ x.held).find? hit with
  | some e =>
    let c := c.updRgn r fun x =>
      { x with ready := x.ready.filter fun e => !hit e, held := x.held.filter fun e => !hit e }
    (c.readyStat r).unplace e
  | none => (c.pullEvicts hit).2

/-- Has a scan selected the pending voice's note-on (R107)? -/
def Chip.pendSelected (c : Chip) (base : Nat) (v : Voice) : Bool :=
  (c.rgn (keyRegion base)).sel.any fun e =>
    decide (e.kind ≤ 2) && decide (slotKey e.region e.block e.slot = base) && decide (e.newGen = v.gen)

/-- A glaze in place placed on a voice over its glaze time (R107, R302, R327): the entry, and the voice no longer counts.
DEDUCED (assumption 29). -/
def Chip.placeGlaze (c : Chip) (ev : Ev) (base : Nat) (v : Voice) : Chip :=
  let (e, c) := c.entryOf ev 6 base v.gen v.part
  let e := { e with aux := BitVec.ofNat 16 v.glz }
  let c := c.updSlot base fun x =>
    { x with voice := x.voice.map fun w => if w.gen = v.gen then { w with counted := false } else w
             pend := x.pend.map fun w => if w.gen = v.gen then { w with counted := false } else w }
  c.writeEntry e

/-- A glaze in place on a pending voice (R107). DEDUCED (assumption 29). -/
def Chip.glazePend (c : Chip) (ev : Ev) (base : Nat) (v : Voice) : Chip :=
  if c.pendSelected base v then c.placeGlaze ev base v else c.cancelPend base v

/-! ### Eviction -/

/-- Blocks that evict may take (R316). -/
def Chip.evictable (c : Chip) (p : Nat) (t : Template) (k : Nat) : Bool :=
  c.visible k && c.loadsVoice k && (c.blk k).awake && (c.blk k).content.isSome && decide ((c.blk k).tmplCode ≠ t.id)
    && c.inMask p t (k / 24)
    && ((c.blkVoices k ++ c.pendsIn.filter fun x => decide (x.1 / 40 = k)).all fun v => decide (c.prioOf v.2.part < c.prioOf p))

/-- evict(ev) (R316): every voice of the block, pending ones too, is glazed in place (R107), and the note-on is placed in slot 0,
where it waits for the block to empty. Its handle takes the generation that the slot will hold when the voices before it have
ended (R305). DEDUCED (assumption 28). -/
def Chip.evict (c : Chip) (ev : Ev) (p : Nat) (t : Template) (seq : Option Nat) : Option Chip :=
  match firstMin (fun k => (c.activeOf k : Int)) ((List.range 96).filter fun k => c.evictable p t k) with
  | none => none
  | some k =>
    let c := c.updBlk k fun b => { b with evicting := true }
    let c := c.forL (c.pendsIn.filter fun x => decide (x.1 / 40 = k)) fun v c => c.glazePend ev v.1 v.2
    let c := c.forL (c.blkVoices k) fun v c =>
      if v.2.st = .gated ∨ v.2.st = .release then c.placeGlaze ev v.1 v.2 else c
    let c := (c.bump PAL_CNT2_EVICT).raise 29
    let x := c.slot (40 * k)
    let g := if x.current then genNext x.gen else x.gen
    let (e, v, c) := c.issue ev p t (40 * k) 0 (if x.pend.isSome then genNext g else g) none seq
    some (c.updEz fun z => { z with evicts := z.evicts ++ [{ entry := e, voice := v }] })

/-! ### allocate (R311) -/

/-- best(): the most active block when CONS = 1, the least when CONS = 0, ties to the lower block (R310, R311). -/
def Chip.best (c : Chip) (p : Nat) (ks : List Nat) : Option Nat :=
  firstMin (fun k => if c.is (PAL_POL_CONS p) then -(c.activeOf k : Int) else c.activeOf k) ks

/-- Active slots of a region. -/
def Chip.regionActive (c : Chip) (r : Nat) : Nat := (List.range 24).foldl (fun a b => a + c.activeOf (24 * r + b)) 0

/-- pick() (R311). -/
def Chip.pick (c : Chip) (p : Nat) (ks : List Nat) : Option Nat :=
  firstMin (fun k =>
    let act : Int := c.regionActive (k / 24)
    let b := c.blk k
    let empty : Int := if b.content.isNone then 0 else 1 + b.lastDisp
    (if c.is (PAL_POL_CONS p) then -act else act) * 2 ^ 64 + empty) ks

/-- Wake, load, and wake-and-load blocks (R311). -/
def Chip.kindBlocks (c : Chip) (p : Nat) (t : Template) (kind : Nat) : List Nat :=
  (List.range 96).filter fun k =>
    let b := c.blk k
    let gated := decide (b.st = .gated)
    let holds := decide (b.tmplCode = t.id)
    c.visible k && !c.loadWaits (k / 24) (k % 24) && c.inMask p t (k / 24) &&
      (match kind with
       | 0 => gated && holds
       | 1 => b.awake && c.loadsVoice k && c.blkEmpty k && !holds && !(c.pendsIn.any fun x => decide (x.1 / 40 = k))
       | _ => gated && c.loadsVoice k && !holds)

/-- The wake and load steps of R311. -/
def Chip.placeByLoad (c : Chip) (ev : Ev) (p : Nat) (t : Template) (seq : Option Nat) : Option Chip :=
  let try_ (kind : Nat) : Option Chip :=
    match c.pick p (c.kindBlocks p t kind) with
    | none => none
    | some k =>
      let c := c.requestLoad (k / 24) (k % 24) t.id (decide (kind ≠ 1)) (decide (kind ≠ 0)) false
      some (c.placeAt ev p t (40 * k) 0 none seq)
  match try_ 0 with
  | some c => some c
  | none => match try_ 1 with
    | some c => some c
    | none => try_ 2

/-- The affinity step of R311: the base slot it places at. -/
def Chip.affinitySlot (c : Chip) (p key : Nat) (t : Template) : Option Nat :=
  let a := tabGet (c.part p).aff 0 key
  let mode := c.fld (PAL_POL_AFF p)
  if mode = 0 ∨ a = 0 then none
  else
    let k := (a - 1) / 40
    let groups := c.freeGroups k t.link
    if c.usable p t k = false ∨ groups = [] then none
    else
      let pm := min 16 (c.fld (PAL_POL_PACKMIN p))
      let passed := c.is (PAL_POL_CONS p) && decide (c.activeOf k < pm) &&
        ((List.range 96).any fun j => decide (j ≠ k) && c.usable p t j && !(c.freeGroups j t.link).isEmpty
          && decide (pm ≤ c.activeOf j))
      if passed then none
      else if mode ≠ 1 ∧ a - 1 ∈ groups then some (a - 1)
      else groups.head?

/-- The steps of R311 from the affinity step on. -/
def Chip.allocFrom (c : Chip) (ev : Ev) (p : Nat) (t : Template) (seq : Option Nat) : Chip :=
  match c.affinitySlot p ev.key t with
  | some s => c.placeAt ev p t s 0 none seq
  | none =>
    let r := (List.range 96).filter fun k => c.usable p t k && !(c.freeGroups k t.link).isEmpty
    match c.best p r with
    | some k => c.placeAt ev p t ((c.freeGroups k t.link).headD 0) 0 none seq
    | none =>
      let first := c.is (PAL_POL_STEALFIRST p)
      match (if first then c.steal ev p t false seq else none) with
      | some c => c
      | none => match c.placeByLoad ev p t seq with
        | some c => c
        | none => match (if first then none else c.steal ev p t false seq) with
          | some c => c
          | none => match (if c.is (PAL_POL_EVICT p) then c.evict ev p t seq else none) with
            | some c => c
            | none => c.dropNote ev

/-- allocate(ev, p, key) (R311); a returned note-on keeps its order number (R655). -/
def Chip.allocate (c : Chip) (ev : Ev) (p : Nat) (seq : Option Nat) : Chip :=
  match c.pal.tmpl (c.fld (PAL_PCFG_TEMPLATE p)) with
  | none => c.dropNote ev
  | some t =>
    if c.maskOf p = 0 then c.dropNote ev
    else
      let v := c.fld (PAL_PCFG_VLIMIT p)
      if v ≠ 0 ∧ v ≤ 1536 ∧ v ≤ c.voiceCount p then
        let c := c.raise 31
        if c.stealMode p = 3 then c.dropNote ev
        else match c.steal ev p t true seq with
          | some c => c
          | none =>
            let own := c.voicesIn.filter fun x =>
              decide (x.2.part = p) && decide (x.2.st = .gated ∨ x.2.st = .release) && x.2.counted
            match c.lowest p ev.key t.link own with
            | none => c.dropNote ev
            | some (base, v) => (c.placeGlaze ev base v).allocFrom ev p t seq
      else c.allocFrom ev p t seq

/-! ### Events for existing voices (R319) -/

/-- The voices of a part that a test takes, pending ones included, by base slot in ascending handle order.
DEDUCED (assumption 27). -/
def Chip.targets (c : Chip) (p : Nat) (test : Voice → Bool) : List (Nat × Voice) :=
  sortBy (fun x => handleLow x.1) ((c.voicesIn ++ c.pendsIn).filter fun x =>
    decide (x.2.part = p) && test x.2 && (decide (x.2.st = .pending) || (c.slot x.1).current))

/-- A note-off entry for a voice (R308, R319). -/
def Chip.placeOff (c : Chip) (ev : Ev) (base : Nat) (v : Voice) (vel : BitVec 16) : Chip :=
  let (e, c) := c.entryOf ev 3 base v.gen v.part
  c.writeEntry { e with aux := vel, newGen := v.gen }

/-- A NOTE_OFF that the pedal does not hold (R319): the oldest pending or gated voice of the key. DEDUCED (assumption 27). -/
def Chip.noteOff (c : Chip) (ev : Ev) (p key : Nat) (vel : BitVec 16) : Chip :=
  match sortBy (fun x => x.2.ord) (c.targets p fun v => decide (v.key = key) && decide (v.st = .pending ∨ v.st = .gated)) with
  | x :: _ => c.placeOff ev x.1 x.2 vel
  | [] => c

/-- NOTE_OFF (R276, R319): held while the part's pedal is down. -/
def Chip.takeOff (c : Chip) (ev : Ev) : Chip :=
  if (c.part ev.part).pedal then
    c.updPart ev.part fun p => { p with heldOff := (p.heldOff.filter fun h => decide (h.1 ≠ ev.key)) ++ [(ev.key, ev.vel16.toNat)] }
  else c.noteOff ev ev.part ev.key ev.vel16

/-- SUSTAIN (R276). -/
def Chip.pedal (c : Chip) (ev : Ev) (down : Bool) : Chip :=
  let p := ev.part
  let held := sortBy (fun h => h.1) (c.part p).heldOff
  let c := c.updPart p fun q => { q with pedal := down, heldOff := if down then q.heldOff else [] }
  if down then c else c.forL held fun h c => c.noteOff ev p h.1 (BitVec.ofNat 16 h.2)

/-- NOTE_CTL (R265, R319): a note word of every voice of the part on the key that is not detached. -/
def Chip.noteCtl (c : Chip) (ev : Ev) (word : Nat) (value : Word) : Chip :=
  c.forL (c.targets ev.part fun v => decide (v.key = ev.key) && !v.detached && decide (v.st ≠ .glazing)) fun x c =>
    let (e, c) := c.entryOf ev 4 x.1 x.2.gen x.2.part
    c.writeEntry { e with word := word, value := value, newGen := x.2.gen }

/-- VOICE_WORD (R7, R265, R319): the voice that the handle names, a pending one too, whose generation the scan checks (R322); a handle
that names none is discarded and counted. -/
def Chip.voiceWord (c : Chip) (ev : Ev) : Chip :=
  let h := ev.handle.toNat
  let key := handleKey h
  let named (v : Voice) (ok : Bool) : Option Voice := if handleNames h && ok && decide (v.gen.toNat = h / 2048) then some v else none
  let now := (c.slot key).voice.bind fun v => named v (c.slot key).current
  let next := (c.pendsIn.filterMap fun x => if x.1 = key then named x.2 true else none).head?
  match now.or next with
  | some v =>
    let (e, c) := c.entryOf ev 5 key v.gen v.part
    c.writeEntry { e with word := ev.word, value := ev.value, newGen := v.gen }
  | none => c.bump EZ_CNT2_STALE

/-- ALL_OFF (R319). -/
def Chip.allOff (c : Chip) (ev : Ev) : Chip :=
  let c := c.updPart ev.part fun p => { p with heldOff := [] }
  c.forL (c.targets ev.part fun v => decide (v.st = .pending ∨ v.st = .gated)) fun x c => c.placeOff ev x.1 x.2 0

/-- ALL_SOUND_OFF (R319). -/
def Chip.allSoundOff (c : Chip) (ev : Ev) : Chip :=
  c.forL (c.targets ev.part fun v => decide (v.st ≠ .glazing)) fun x c =>
    if x.2.st = .pending then c.glazePend ev x.1 x.2 else c.placeGlaze ev x.1 x.2

/-- Per-Note Management with D = 1 (R269). -/
def Chip.detach (c : Chip) (p key : Nat) : Chip :=
  let c := c.forL (c.targets p fun v => decide (v.key = key) && decide (v.st ≠ .glazing)) fun x c => c.updSlot x.1 fun s =>
    { s with voice := s.voice.map fun v => if v.gen = x.2.gen then { v with detached := true } else v
             pend := s.pend.map fun v => if v.gen = x.2.gen then { v with detached := true } else v }
  c.updEz fun z => { z with evicts := z.evicts.map fun w =>
    if w.voice.part = p ∧ w.voice.key = key then { w with voice := { w.voice with detached := true } } else w }

/-! ### CANCEL (R324 to R326) -/

/-- EZ_STORE reports occupancy and its peak (R292). -/
def Chip.storeStat (c : Chip) : Chip :=
  let n := c.ez.store.length
  (c.setFld EZ_STORE_OCC n).setFld EZ_STORE_PEAK (max (c.fld EZ_STORE_PEAK) n)

/-- The voice of a cancelled glaze in place goes on sounding and counts again, as R326 has it of a steal victim.
DEDUCED (assumption 76). -/
def Chip.recount (c : Chip) (e : Entry) : Chip :=
  if e.kind = 6 then c.countAgain (slotKey e.region e.block e.slot) else c

/-- CANCEL of a part and tag (R324, R325): waiting events leave, those that came back to the allocator and those that wait for an
evicted block among them, and an event already selected counts as a miss. DEDUCED (assumption 76). -/
def Chip.cancel (c : Chip) (p : Nat) (tag : BitVec 12) : Chip :=
  if tag = 0 then c
  else
    let evHit (e : Ev) : Bool := decide (e.part = p) && decide (e.tag = tag)
    let hit (e : Entry) : Bool := decide (e.part = p) && decide (e.tag = tag)
    let n := (c.ez.store.filter evHit).length
    let c := (c.updEz fun z => { z with store := z.store.filter fun e => !evHit e }).storeStat
    let c := c.addCnt EZ_CANCELLED_HIT n
    let missed := (c.ez.chosen.filter fun x => decide (x = (p, tag))).length
    let c := (c.addCnt EZ_CANCELLED_MISS missed).raiseIf (decide (0 < missed)) 30
    let (waits, c) := c.pullEvicts hit
    let c := c.addCnt EZ_CANCELLED_HIT (waits.length + (c.returned.filter hit).length)
    let c : Chip := { c with returned := c.returned.filter fun e => !hit e }
    c.forN 4 fun r c =>
      let x := c.rgn r
      let gone := (x.ready ++ x.held).filter hit
      let c := (c.updRgn r fun x =>
        { x with ready := x.ready.filter fun e => !hit e, held := x.held.filter fun e => !hit e }).readyStat r
      (c.forL gone fun e c => (c.unplace e).recount e).addCnt EZ_CANCELLED_HIT gone.length

/-! ### Parts (R300 to R303) -/

/-- A refused PAL_CMD (R301). -/
def Chip.palRefuse (c : Chip) (why : Nat) : Chip := ((c.set1 PAL_STAT_REJ).setFld PAL_STAT_WHY why).raise 27

/-- PAL_STAT.PARTS counts the parts that exist (R330). -/
def Chip.countParts (c : Chip) : Chip :=
  c.setFld PAL_STAT_PARTS ((List.range 63).filter fun i => (c.part (i + 1)).exists_).length

/-- A part comes to exist (R245, R300, R301). -/
def Chip.makePart (c : Chip) (p : Nat) : Chip :=
  (c.updPart p fun x =>
    let lfos := (List.range 4).foldl (fun t q =>
      tabSet t {} q (partLfoStart c.ctr (700000 + 16 * p + 4 * q) (tabGet x.back 0 (56 + q)))) []
    { x with exists_ := true, lfos := lfos, aff := [], pedal := false, heldOff := [] }).countParts

/-- PAL_CMD with OP = 1 (R301). -/
def Chip.partCreate (c : Chip) (p : Nat) : Chip :=
  if c.pal.loaded = false then c.palRefuse 5
  else if p = 0 then c.palRefuse 1
  else if (c.part p).exists_ then c.palRefuse 2
  else if (c.pal.tmpl (c.fld (PAL_PCFG_TEMPLATE p))).isNone then c.palRefuse 4
  else c.makePart p

/-- PAL_CMD with OP = 2 (R301, R303): events of the part that wait are discarded, its pending voices are cancelled, and its voices,
which belong to no part, fade over 5 ms. -/
def Chip.partDestroy (c : Chip) (p : Nat) : Chip :=
  if c.pal.loaded = false then c.palRefuse 5
  else if p = 0 then c.palRefuse 1
  else if (c.part p).exists_ = false then c.palRefuse 3
  else
    let evs := c.ez.store.filter fun e => decide (e.part = p)
    let c := (c.updEz fun z => { z with store := z.store.filter fun e => decide (e.part ≠ p) }).storeStat
    let c := c.forL evs fun e c => c.discard e.src 3
    let (waits, c) := c.pullEvicts fun e => decide (e.part = p)
    let c := c.forL (c.returned.filter (fun e => decide (e.part = p)) ++ waits) fun e c => c.discard e.src 3
    let c := c.forN 4 fun r c =>
      let x := c.rgn r
      let gone := (x.ready ++ x.held).filter fun e => decide (e.part = p)
      let c := (c.updRgn r fun x =>
        { x with ready := x.ready.filter fun e => decide (e.part ≠ p)
                 held := x.held.filter fun e => decide (e.part ≠ p) }).readyStat r
      c.forL gone fun e c => (c.unplace e).discard e.src 3
    let c : Chip := { c with
      returned := c.returned.filter fun e => decide (e.part ≠ p)
      slots := c.slots.map fun s => (s.1, { s.2 with
        voice := s.2.voice.map fun v => if v.part = p then { v with part := 0, glz := 50 } else v
        pend := s.2.pend.map fun v => if v.part = p then { v with part := 0, glz := 50 } else v }) }
    (c.updPart p fun x =>
      { x with exists_ := false, aff := [], pedal := false, heldOff := [], destroyAt := some c.clk.smp }).countParts

/-- The voices of a destroyed part are glazed in place at the first boundary after the command (R303). A voice that a steal
of another part names is left to that steal. -/
def Chip.destroyGlaze (c : Chip) (p : Nat) : Chip :=
  match (c.part p).destroyAt with
  | none => c
  | some n =>
    if c.clk.smp ≤ n then c
    else
      let c := c.updPart p fun x => { x with destroyAt := none }
      let vs := c.voicesIn.filter fun v => decide (v.2.part = 0) && decide (v.2.st = .gated ∨ v.2.st = .release)
        && (c.slot v.1).pend.isNone && decide ((c.slot v.1).part = p)
      c.forL vs fun v c => c.glazeInPlace v.1 c.clk.smp 50

/-! ### Returned entries (R655) -/

/-- Serve the returned entry of the lowest order (R655): a note-on or steal is placed again and keeps its place in the
order, and entries of kinds 3 to 5 that follow it go to its new place, or nowhere when it is dropped. DEDUCED (assumption 75). -/
def Chip.entryReturn (c : Chip) : Chip :=
  match c.returned with
  | [] => c
  | e :: rest =>
    let c : Chip := { c with returned := rest }
    let old := slotKey e.region e.block e.slot
    if e.kind ≤ 2 then
      if c.partExists e.part = false then c
      else
        let ev : Ev := { op := 2, part := e.part, key := e.key, tag := e.tag, timed := e.timed, ts := e.ts, vel16 := e.aux
                         pitch := e.value, late := e.late, src := e.src, id := e.event }
        let st := c.ez.stamp
        let c := c.allocate ev e.part (some e.seq)
        let follows (f : Entry) : Bool := decide (3 ≤ f.kind) && decide (slotKey f.region f.block f.slot = old)
          && decide (f.gen = e.newGen)
        match c.pendsIn.find? fun x => decide (st ≤ x.2.ord) && decide (x.2.part = e.part) && decide (x.2.key = e.key) with
        | none => { c with returned := c.returned.filter fun f => !follows f }
        | some (base, v) =>
          let back (l : List Entry) := l.map fun f => if f.arrival = v.ord then { f with arrival := e.arrival } else f
          let c := c.updRgn (keyRegion base) fun x => { x with ready := back x.ready, held := back x.held }
          let c := c.updSlot base fun x => { x with pend := x.pend.map fun w =>
            if w.ord = v.ord then { w with ord := e.arrival } else w }
          let c := c.updEz fun z => { z with evicts := z.evicts.map fun w =>
            if w.voice.ord = v.ord then
              { entry := { w.entry with arrival := e.arrival }, voice := { w.voice with ord := e.arrival } }
            else w }
          { c with returned := c.returned.map fun f =>
              if follows f then
                { f with region := keyRegion base, block := keyBlock base, slot := keySlot base, gen := v.gen, newGen := v.gen }
              else f }
    else c.writeEntry e

/-- The evicted block has emptied (R316): a load of the template that the note-on was served with is requested (R302), and its
entry goes to the ready list, where it waits under R112. DEDUCED (assumption 28). -/
def Chip.evictLoad (c : Chip) (r b : Nat) : Chip :=
  let k := blkKey r b
  match c.ez.evicts.find? fun w => decide (w.entry.region = r) && decide (w.entry.block = b) with
  | none => c
  | some w =>
    if c.blkEmpty k = false ∨ (c.blk k).evicting = false ∨ c.pendsInBlock k ∨ c.loadWaits r b then c
    else
      let c := (c.pullEvicts fun e => decide (e.region = r) && decide (e.block = b)).2
      let c := c.requestLoad r b w.voice.tmpl (decide ((c.blk k).st = .gated)) true false
      (c.updSlot (40 * k) fun x => { x with pend := some w.voice }).writeEntry w.entry

/-- The returned entries are served ahead of new ingress (R551). -/
def Chip.serveReturned (c : Chip) : Chip := c.forN c.returned.length fun _ c => c.entryReturn

/-- The easel writes a held entry once the list has room (R284). -/
def Chip.readyWrite (c : Chip) (r : Nat) : Chip :=
  let x := c.rgn r
  match x.held with
  | e :: rest =>
    if x.ready.length < 64 then (c.updRgn r fun x => { x with held := rest }).listEntry e else c
  | [] => c

/-! ### Meanings -/

/-- READY_LIST_WRITE (R284). -/
def execReadyListWrite (r : Fin 4) : State → Host.Outcome State Fault Refusal := act fun c => c.readyWrite r

/-- EVICT_LOAD (R316). -/
def execEvictLoad (r : Fin 4) (b : Fin 24) : State → Host.Outcome State Fault Refusal := act fun c => c.evictLoad r b

/-- ENTRY_RETURN (R655). -/
def execEntryReturn : State → Host.Outcome State Fault Refusal := act fun c => if c.easelHeld then c else c.entryReturn

/-- PART_CREATE (R301). -/
def execPartCreate (p : BitVec 6) : State → Host.Outcome State Fault Refusal := actFree fun c => c.partCreate p.toNat

/-- PART_DESTROY (R303). -/
def execPartDestroy (p : BitVec 6) : State → Host.Outcome State Fault Refusal := act fun c => c.partDestroy p.toNat

/-- PART_DESTROY_GLAZE (R303). -/
def execPartDestroyGlaze (p : BitVec 6) : State → Host.Outcome State Fault Refusal := act fun c => c.destroyGlaze p.toNat

end Sys2Proof.Machine
end

