-- ==== Sys2Proof/Machine/Crypto.lean ====
section
/-! DEFINITION. The cryptographic functions that R71 to R74 and R583 name: SHA-256 (FIPS 180-4), AES-256 (FIPS 197), its GCM mode
(SP 800-38D) and Key Wrap (RFC 3394), and ECDSA P-256 (FIPS 186, SEC 1). The manual names the standards and does not restate
them (assumption 23). -/

namespace Sys2Proof.Machine

/-! ### Byte strings -/

/-- A big-endian number of bytes (R71). -/
def beNat (bs : List Byte) : Nat := bs.foldl (fun a b => a * 256 + b.toNat) 0

/-- The `n` big-endian bytes of a number. -/
def beBytes (n x : Nat) : List Byte := (List.range n).map fun i => BitVec.ofNat 8 (x / 256 ^ (n - 1 - i))

/-- Exclusive or of byte strings, as long as the shorter. -/
def xorBytes (a b : List Byte) : List Byte := List.zipWith (fun x y => x ^^^ y) a b

/-- Pieces of 16 bytes; `fuel` bounds their number. -/
def pieces : Nat → List Byte → List (List Byte)
  | 0, _ => []
  | fuel + 1, bs => if bs.isEmpty then [] else bs.take 16 :: pieces fuel (bs.drop 16)

/-! ### SHA-256 -/

/-- The first half of SHA-256's round constants. -/
def shaK0 : List Word :=
  [0x428A2F98, 0x71374491, 0xB5C0FBCF, 0xE9B5DBA5, 0x3956C25B, 0x59F111F1, 0x923F82A4, 0xAB1C5ED5,
   0xD807AA98, 0x12835B01, 0x243185BE, 0x550C7DC3, 0x72BE5D74, 0x80DEB1FE, 0x9BDC06A7, 0xC19BF174,
   0xE49B69C1, 0xEFBE4786, 0x0FC19DC6, 0x240CA1CC, 0x2DE92C6F, 0x4A7484AA, 0x5CB0A9DC, 0x76F988DA,
   0x983E5152, 0xA831C66D, 0xB00327C8, 0xBF597FC7, 0xC6E00BF3, 0xD5A79147, 0x06CA6351, 0x14292967]

/-- The second half. -/
def shaK1 : List Word :=
  [0x27B70A85, 0x2E1B2138, 0x4D2C6DFC, 0x53380D13, 0x650A7354, 0x766A0ABB, 0x81C2C92E, 0x92722C85,
   0xA2BFE8A1, 0xA81A664B, 0xC24B8B70, 0xC76C51A3, 0xD192E819, 0xD6990624, 0xF40E3585, 0x106AA070,
   0x19A4C116, 0x1E376C08, 0x2748774C, 0x34B0BCB5, 0x391C0CB3, 0x4ED8AA4A, 0x5B9CCA4F, 0x682E6FF3,
   0x748F82EE, 0x78A5636F, 0x84C87814, 0x8CC70208, 0x90BEFFFA, 0xA4506CEB, 0xBEF9A3F7, 0xC67178F2]

/-- One round on the working variables. -/
def shaRound (v : List Word) (kw : Word × Word) : List Word :=
  match v with
  | [a, b, c, d, e, f, g, h] =>
    let s1 := e.rotateRight 6 ^^^ e.rotateRight 11 ^^^ e.rotateRight 25
    let t1 := h + s1 + ((e &&& f) ^^^ (~~~e &&& g)) + kw.1 + kw.2
    let s0 := a.rotateRight 2 ^^^ a.rotateRight 13 ^^^ a.rotateRight 22
    [t1 + s0 + ((a &&& b) ^^^ (a &&& c) ^^^ (b &&& c)), a, b, c, d + t1, e, f, g]
  | v => v

/-- The message schedule, newest word first, grown by `n` words. -/
def shaSchedule : Nat → List Word → List Word
  | 0, w => w
  | n + 1, w =>
    let x := w.getD 14 0
    let y := w.getD 1 0
    let s0 := x.rotateRight 7 ^^^ x.rotateRight 18 ^^^ (x >>> 3)
    let s1 := y.rotateRight 17 ^^^ y.rotateRight 19 ^^^ (y >>> 10)
    shaSchedule n ((w.getD 15 0 + s0 + w.getD 6 0 + s1) :: w)

/-- One block of 64 bytes. -/
def shaBlock (h : List Word) (block : List Byte) : List Word :=
  let w := (List.range 16).map fun i => BitVec.ofNat 32 (beNat ((block.drop (4 * i)).take 4))
  let ws := (shaSchedule 48 w.reverse).reverse
  List.zipWith (fun a b => a + b) h (((shaK0 ++ shaK1).zip ws).foldl shaRound h)

/-- Blocks of 64 bytes; `fuel` bounds their number. -/
def shaBlocks : Nat → List Word → List Byte → List Word
  | 0, h, _ => h
  | fuel + 1, h, bs => if bs.length < 64 then h else shaBlocks fuel (shaBlock h bs) (bs.drop 64)

/-- SHA-256. PRESUMED (assumption 23). -/
def sha256 (bs : List Byte) : List Byte :=
  let n := bs.length
  let padded := bs ++ [0x80] ++ List.replicate ((119 - n % 64) % 64) 0 ++ beBytes 8 (8 * n)
  (shaBlocks (padded.length / 64)
    [0x6A09E667, 0xBB67AE85, 0x3C6EF372, 0xA54FF53A, 0x510E527F, 0x9B05688C, 0x1F83D9AB, 0x5BE0CD19] padded).flatMap
    fun w => beBytes 4 w.toNat

/-! ### AES-256 -/

/-- A product in GF(2⁸). -/
def gfMul (a b : Byte) : Byte :=
  ((List.range 8).foldl (fun (s : Byte × Byte) i =>
    (if b.getLsbD i then s.1 ^^^ s.2 else s.1, if s.2.getLsbD 7 then (s.2 <<< 1) ^^^ 0x1B else s.2 <<< 1)) (0, a)).1

/-- The inverse in GF(2⁸), x²⁵⁴; that of 0 is 0. -/
def gfInv (x : Byte) : Byte :=
  let x2 := gfMul x x
  let p := (List.range 6).foldl (fun (s : Byte × Byte) _ => let q := gfMul s.2 s.2; (gfMul s.1 q, q)) (x2, x2)
  p.1

/-- The S-box. -/
def aesSub (b : Byte) : Byte :=
  let x := gfInv b
  x ^^^ x.rotateLeft 1 ^^^ x.rotateLeft 2 ^^^ x.rotateLeft 3 ^^^ x.rotateLeft 4 ^^^ 0x63

/-- The inverse S-box. -/
def aesSubInv (b : Byte) : Byte := gfInv (b.rotateLeft 1 ^^^ b.rotateLeft 3 ^^^ b.rotateLeft 6 ^^^ 0x05)

/-- The key schedule, newest word of 4 bytes first, grown from word i by `n` words. -/
def aesExpand : Nat → Nat → Byte → List (List Byte) → List (List Byte)
  | 0, _, _, ws => ws
  | n + 1, i, rcon, ws =>
    let t := ws.headD []
    let t := if i % 8 = 0 then xorBytes ((t.drop 1 ++ t.take 1).map aesSub) [rcon, 0, 0, 0]
      else if i % 8 = 4 then t.map aesSub else t
    aesExpand n (i + 1) (if i % 8 = 0 then gfMul rcon 2 else rcon) (xorBytes (ws.getD 7 []) t :: ws)

/-- The 15 round keys of a 32-byte key. -/
def aesKeys (key : List Byte) : List (List Byte) :=
  let w0 := (List.range 8).map fun i => (key.drop (4 * i)).take 4
  let ws := (aesExpand 52 8 1 w0.reverse).reverse
  (List.range 15).map fun r => ((ws.drop (4 * r)).take 4).flatten

/-- ShiftRows, by a step of columns: 1 forward, 3 inverse. -/
def aesShift (d : Nat) (s : List Byte) : List Byte := (List.range 16).map fun i => s.getD (i % 4 + 4 * ((i / 4 + d * (i % 4)) % 4)) 0

/-- MixColumns with the first row of its matrix. -/
def aesMix (m : List Byte) (s : List Byte) : List Byte :=
  (List.range 16).map fun i =>
    (List.range 4).foldl (fun a j => a ^^^ gfMul (m.getD ((j + 4 - i % 4) % 4) 0) (s.getD (4 * (i / 4) + j) 0)) 0

/-- AES-256 of one block under the round keys. -/
def aesEnc (keys : List (List Byte)) (b : List Byte) : List Byte :=
  let s := xorBytes b (keys.headD [])
  let s := (List.range 13).foldl (fun s r =>
    xorBytes (aesMix [2, 3, 1, 1] (aesShift 1 (s.map aesSub))) (keys.getD (r + 1) [])) s
  xorBytes (aesShift 1 (s.map aesSub)) (keys.getD 14 [])

/-- The inverse cipher. -/
def aesDec (keys : List (List Byte)) (b : List Byte) : List Byte :=
  let s := (aesShift 3 (xorBytes b (keys.getD 14 []))).map aesSubInv
  let s := (List.range 13).foldl (fun s r =>
    (aesShift 3 (aesMix [14, 11, 13, 9] (xorBytes s (keys.getD (13 - r) [])))).map aesSubInv) s
  xorBytes s (keys.headD [])

/-! ### GCM and Key Wrap -/

/-- A product in GF(2¹²⁸) as GCM numbers its bits. -/
def ghMul (x y : BitVec 128) : BitVec 128 :=
  ((List.range 128).foldl (fun (s : BitVec 128 × BitVec 128) i =>
    (if x.getLsbD (127 - i) then s.1 ^^^ s.2 else s.1,
     if s.2.getLsbD 0 then (s.2 >>> 1) ^^^ (0xE1#128 <<< 120) else s.2 >>> 1)) (0, y)).1

/-- A block as a 128-bit number, padded with zeros. -/
def blockNat (b : List Byte) : BitVec 128 := BitVec.ofNat 128 (beNat b * 256 ^ (16 - b.length))

/-- GHASH over blocks. -/
def ghash (h : BitVec 128) (bs : List (BitVec 128)) : BitVec 128 := bs.foldl (fun y b => ghMul (y ^^^ b) h) 0

/-- The counter stream of GCM over the payload, from counter 2. PRESUMED (assumption 23). -/
def gcmCrypt (keys : List (List Byte)) (iv : List Byte) (bs : List Byte) : List Byte :=
  let ps := pieces (bs.length / 16 + 1) bs
  (ps.zip (List.range ps.length)).flatMap fun p => xorBytes p.1 (aesEnc keys (iv ++ beBytes 4 (p.2 + 2)))

/-- The tag of GCM. -/
def gcmTag (keys : List (List Byte)) (iv aad bs : List Byte) : List Byte :=
  let h := blockNat (aesEnc keys (List.replicate 16 0))
  let blocks := (pieces (aad.length / 16 + 1) aad ++ pieces (bs.length / 16 + 1) bs).map blockNat
  let s := ghash h (blocks ++ [BitVec.ofNat 128 (8 * aad.length * 2 ^ 64 + 8 * bs.length)])
  xorBytes (beBytes 16 s.toNat) (aesEnc keys (iv ++ [0, 0, 0, 1]))

/-- One step of the unwrap: A and the four registers, at step t from 24 down to 1. -/
def unwrapStep (keys : List (List Byte)) (s : List Byte × List (List Byte)) (t : Nat) : List Byte × List (List Byte) :=
  let i := (t - 1) % 4
  let b := aesDec keys (xorBytes s.1 (beBytes 8 t) ++ s.2.getD i [])
  (b.take 8, s.2.set i (b.drop 8))

/-- AES Key Wrap's unwrap of a 40-byte wrapped key; none where the check value is wrong (R73, R74). PRESUMED (assumption 23). -/
def keyUnwrap (wrapping wrapped : List Byte) : Option (List Byte) :=
  let keys := aesKeys wrapping
  let r := (List.range 4).map fun i => (wrapped.drop (8 + 8 * i)).take 8
  let s := (List.range 24).foldl (fun s k => unwrapStep keys s (24 - k)) (wrapped.take 8, r)
  if s.1 = List.replicate 8 0xA6 then some s.2.flatten else none

/-! ### ECDSA P-256 -/

/-- The field prime. -/
def p256P : Nat := 0xFFFFFFFF00000001000000000000000000000000FFFFFFFFFFFFFFFFFFFFFFFF
/-- The order of the group. -/
def p256N : Nat := 0xFFFFFFFF00000000FFFFFFFFFFFFFFFFBCE6FAADA7179E84F3B9CAC2FC632551
/-- The curve's coefficient b. -/
def p256B : Nat := 0x5AC635D8AA3A93E7B3EBBD55769886BC651D06B0CC53B0F63BCE3C3E27D2604B
/-- The generator. -/
def p256G : Nat × Nat :=
  (0x6B17D1F2E12C4247F8BCE6E563A440F277037D812DEB33A0F4A13945D898C296,
   0x4FE342E2FE1A7F9B8EE7EB4A7C0F9E162BCE33576B315ECECBB6406837BF51F5)

/-- A power modulo m, for exponents below 2²⁵⁶. -/
def powMod (x e m : Nat) : Nat :=
  (List.range 256).foldl (fun a i => let s := a * a % m; if e.testBit (255 - i) then s * x % m else s) 1

/-- The inverse modulo a prime. -/
def invMod (x m : Nat) : Nat := powMod (x % m) (m - 2) m

/-- A sum of points; none is the point at infinity. -/
def p256Add (a b : Option (Nat × Nat)) : Option (Nat × Nat) :=
  match a, b with
  | none, b => b
  | a, none => a
  | some (x1, y1), some (x2, y2) =>
    if x1 = x2 ∧ (y1 + y2) % p256P = 0 then none
    else
      let l := if x1 = x2 then (3 * x1 * x1 + p256P - 3) * invMod (2 * y1) p256P % p256P
        else (y2 + p256P - y1) * invMod (x2 + p256P - x1) p256P % p256P
      let x := (l * l + 2 * p256P - x1 - x2) % p256P
      some (x, (l * (x1 + p256P - x) + p256P - y1) % p256P)

/-- A multiple of a point. -/
def p256Mul (k : Nat) (q : Option (Nat × Nat)) : Option (Nat × Nat) :=
  (List.range 256).foldl (fun a i => let d := p256Add a a; if k.testBit (255 - i) then p256Add d q else d) none

/-- Is a public key a point of the curve? -/
def p256On (x y : Nat) : Bool :=
  decide (x < p256P ∧ y < p256P ∧ y * y % p256P = (x * x * x + (p256P - 3) * x + p256B) % p256P)

/-- ECDSA P-256 over SHA-256: does the signature verify (R72, R583)? Each value is 32 bytes, big-endian.
PRESUMED (assumption 23). -/
def ecdsaVerify (x y r s msg : List Byte) : Bool :=
  let (x, y, r, s) := (beNat x, beNat y, beNat r, beNat s)
  if 0 < r ∧ r < p256N ∧ 0 < s ∧ s < p256N ∧ p256On x y = true then
    let e := beNat (sha256 msg)
    let w := invMod s p256N
    match p256Add (p256Mul (e * w % p256N) (some p256G)) (p256Mul (r * w % p256N) (some (x, y))) with
    | some q => decide (q.1 % p256N = r)
    | none => false
  else false

end Sys2Proof.Machine
end

