-- ==== Sys2Proof/Machine/Primer.lean ====
section
/-! DEFINITION. The primer image and the loader's checks (chapter "The primer image", R44 to R80, R653; R82, R114, R137,
R151, R162, R187, R212, R225, R228, R248, R258). The loader reads an image as a function from byte offset to byte; a
check answers the reason and the section index of the first failure. -/

namespace Sys2Proof.Machine

/-! ### Reading an image -/

/-- An image by byte offset. -/
abbrev Img := Nat → Byte

/-- Bytes of an image. -/
def imgBytes (m : Img) (o n : Nat) : List Byte := (List.range n).map fun i => m (o + i)

/-- A little-endian value of n bytes (R5). -/
def imgU (m : Img) (o n : Nat) : Nat := (List.range n).foldr (fun i a => (m (o + i)).toNat + 256 * a) 0

/-- Consecutive little-endian words. -/
def imgWords (m : Img) (o n : Nat) : List Word := (List.range n).map fun i => BitVec.ofNat 32 (imgU m (o + 4 * i) 4)

/-- Are n bytes all 0? -/
def imgZero (m : Img) (o n : Nat) : Bool := (List.range n).all fun i => decide (m (o + i) = 0)

/-- CRC-32 over a range of an image (R70). -/
def imgCrc (m : Img) (o n : Nat) : Nat := (crc32 (imgBytes m o n)).toNat

/-- A failed check: its reason and section index, 0x1FF for none (R79, R653). -/
abbrev LoadFail := Nat × Nat

/-- A check that fails with a reason and section. -/
def failIf (b : Bool) (reason sec : Nat) : Option LoadFail := if b then some (reason, sec) else none

/-- The first failure of a list of checks. -/
def firstFail {α : Type} (l : List α) (f : α → Option LoadFail) : Option LoadFail :=
  match l with
  | [] => none
  | x :: r => match f x with
    | some e => some e
    | none => firstFail r f

/-- What a load depends on beyond the image: its slot, CLK_STAT.FAMILY, CHIP_STEP[7:0], the maker key slots, whether the store is
locked, and whether it requires signed primers. -/
structure LoadCtx where
  slot : Nat
  family : Nat
  step : Nat
  keys : Tab KeySlot
  locked : Bool
  signreq : Bool

/-- The header's FLAGS (R47). -/
def imgFlags (m : Img) : Nat := imgU m 0x0C 4

/-- FLAGS bit k. -/
def imgFlag (m : Img) (k : Nat) : Bool := decide (imgFlags m / 2 ^ k % 2 = 1)

/-- FLAGS.START_MODE. -/
def imgMode (m : Img) : Nat := imgFlags m / 64 % 4

/-- HEADER_CRC[15:0], which marks and log entries hold (R534, R538). -/
def imgHcrc (m : Img) : Nat := imgU m 0x3C 2

/-- PAYLOAD_OFFSET as R44 defines it. -/
def imgPayload (m : Img) : Nat := if imgFlag m 1 then 0x90 else 0x40

/-! ### Steps 1 to 5 (R79) -/

/-- Step 1: HEADER_CRC, MAGIC, HEADER_SIZE and R44–R45. No step tests the reserved bytes 0x2C to 0x3B. DEDUCED (assumption 55).
DESIGN CHOICE (assumption 114). -/
def headerStep1 (m : Img) : Option LoadFail :=
  let size := imgU m 0x18 4
  let auth := if imgFlag m 0 then imgPayload m + size else 0
  failIf (imgCrc m 0 0x3C ≠ imgU m 0x3C 4) 0x01 0x1FF
  <|> failIf (imgBytes m 0 4 ≠ [0x47, 0x56, 0x50, 0x52]) 0x02 0x1FF
  <|> failIf (imgU m 6 2 ≠ 64 || imgU m 8 4 > 0x1000000 || imgU m 0x14 4 ≠ imgPayload m || size % 4 ≠ 0
        || imgU m 0x1C 4 ≠ auth || imgU m 8 4 ≠ imgPayload m + size + (if imgFlag m 0 then 136 else 0)) 0x06 0x1FF

/-- Step 2: FLAGS (R48), version, stepping and family (R75). -/
def headerStep2 (m : Img) (family step : Nat) : Option LoadFail :=
  let f := imgFlags m
  failIf (256 ≤ f || imgMode m = 3 || f / 16 % 4 = 3 || (imgFlag m 1 && !(imgFlag m 0 && imgFlag m 2))
        || (imgFlag m 2 && !imgFlag m 0)) 0x03 0x1FF
  <|> failIf (m 4 ≠ 1) 0x03 0x1FF
  <|> failIf (step < (m 0x12).toNat) 0x04 0x1FF
  <|> failIf (decide (f / 16 % 4 = 1 ∧ family ≠ 0) || decide (f / 16 % 4 = 2 ∧ family ≠ 1)) 0x05 0x1FF

/-- Step 3: slot and GOLDEN agree (R77). -/
def headerStep3 (m : Img) (slot : Nat) : Option LoadFail := failIf (imgFlag m 3 ≠ decide (slot = 2)) 0x13 0x1FF

/-- The maker key slot that a signed image names, when the store gives it: it is provisioned and the store is not locked (R72,
R529 step 0x04). A KEY_SLOT above 3 names none. DESIGN CHOICE (assumption 115). -/
def LoadCtx.key (e : LoadCtx) (m : Img) : Option KeySlot :=
  let k := tabGet e.keys {} (m 0x13).toNat
  if e.locked ∨ k.st ≠ 1 ∨ 3 < (m 0x13).toNat then none else some k

/-- Step 4: the signature (R71, R72), or the signed-only requirement. -/
def signatureStep (e : LoadCtx) (m : Img) : Option LoadFail :=
  if imgFlag m 0 then
    let a := imgU m 0x1C 4
    let x := imgBytes m (a + 8) 32
    let y := imgBytes m (a + 0x28) 32
    let ok := match e.key m with
      | some k => imgBytes m a 4 == [0x47, 0x56, 0x53, 0x47] && m (a + 4) == m 0x13 && imgZero m (a + 5) 3
          && sha256 (x ++ y) == k.hash && ecdsaVerify x y (imgBytes m (a + 0x48) 32) (imgBytes m (a + 0x68) 32) (imgBytes m 0 a)
      | none => false
    failIf (!ok) 0x07 0x1FF
  else failIf e.signreq 0x08 0x1FF

/-- Step 5: the content key (R73, R74); the image as the later steps read it, and whether its GCM tag agrees. -/
def unwrapStep5 (e : LoadCtx) (m : Img) : Option (Img × Bool) :=
  if imgFlag m 1 then
    if imgBytes m 0x40 4 ≠ [0x47, 0x56, 0x4B, 0x57] ∨ m 0x44 ≠ m 0x13 ∨ imgZero m 0x45 3 = false ∨ imgZero m 0x8C 4 = false then none
    else
      match (e.key m).bind fun k => keyUnwrap k.wrap (imgBytes m 0x64 40) with
      | none => none
      | some key =>
        let p := imgPayload m
        let n := imgU m 0x18 4
        let keys := aesKeys key
        let iv := imgBytes m 0x48 12
        let ct := imgBytes m p n
        let plain := (gcmCrypt keys iv ct).toArray
        some (fun i => if p ≤ i ∧ i < p + n then plain.getD (i - p) 0 else m i,
          decide (gcmTag keys iv (imgBytes m 0 64) ct = imgBytes m 0x54 16))
  else some (m, true)

/-! ### Step 6: the section table -/

/-- A section-table entry (R49). -/
structure SecEntry where
  type : Nat
  flags : Nat
  off : Nat
  size : Nat
  crc : Nat
  deriving DecidableEq, Repr

/-- The section table. -/
def imgSections (m : Img) : List SecEntry :=
  (List.range (imgU m 0x10 2)).map fun i =>
    let o := imgPayload m + 16 * i
    ⟨imgU m o 2, imgU m (o + 2) 2, imgU m (o + 4) 4, imgU m (o + 8) 4, imgU m (o + 12) 4⟩

/-- The checks of R49 and R50 on entry i: its place, its overlap with the entries before it, and its reserved bits. Of two sections
that overlap, the later entry of the table is at fault. DESIGN CHOICE (assumption 104). -/
def sectionOk (m : Img) (l : List SecEntry) (i : Nat) : Option LoadFail :=
  match l[i]? with
  | none => none
  | some s =>
    let lo := imgPayload m + 16 * l.length
    let hi := imgPayload m + imgU m 0x18 4
    let bad := s.off % 4 ≠ 0 || s.size % 4 ≠ 0 || s.size < 8 || s.off < lo || hi < s.off + s.size
    let lap := (l.take i).any fun t => decide (s.off < t.off + t.size) && decide (t.off < s.off + s.size)
    failIf (bad || lap) 0x06 i <|> failIf (s.flags / 2 ≠ 0) 0x0D i

/-- Step 6: TABLE_CRC, then the entries in order (R653). DEDUCED (assumption 55). -/
def tableStep (m : Img) : Option LoadFail :=
  let n := imgU m 0x10 2
  failIf (imgCrc m (imgPayload m) (16 * n) ≠ imgU m 0x28 4) 0x0B 0x1FF
  <|> failIf (n = 0 || 256 < n) 0x06 0x1FF
  <|> firstFail (List.range n) fun i => sectionOk m (imgSections m) i

/-! ### Records (R51) -/

/-- A record: the section that holds it, its type and ID, and its place. -/
structure RawRec where
  sec : Nat
  type : Nat
  id : Nat
  off : Nat
  len : Nat
  deriving DecidableEq, Repr

/-- The IDs that a section type allows (R52); none for a type the loader does not know. -/
def recIds (type : Nat) : Option (Nat × Nat) :=
  match type with
  | 1 | 2 => some (0, 63)
  | 3 | 4 | 5 => some (0, 31)
  | 6 => some (0, 15)
  | 7 => some (0, 7)
  | 8 => some (0, 1023)
  | 9 => some (0, 4095)
  | 10 | 12 => some (0, 15)
  | 11 => some (1, 63)
  | 13 => some (0, 0)
  | _ => none

/-- The instructions of a MAC_PROGRAM record. -/
def macCode (m : Img) (r : RawRec) : List Word := imgWords m (r.off + 16) (imgU m (r.off + 10) 2)

/-- Is an instruction a branch, a DO, a REP or an END? -/
def isFlow : MacIns → Bool
  | .bra _ | .bcc _ _ | .doLoop _ _ | .rep _ | .repReg _ | .endPass => true
  | _ => false

/-- May an instruction follow a REP (R225)? -/
def mayRepeat : MacIns → Bool
  | .arith _ _ _ _ | .mvx _ | .ldi _ _ | .move _ _ => true
  | _ => false

/-- The DOs of a program: their address and end. -/
def doList (p : List MacIns) : List (Nat × Nat) :=
  (List.range p.length).filterMap fun a => match p.getD a .nop with
    | .doLoop _ e => some (a, e.toNat)
    | _ => none

/-- The innermost DO body an address lies in, by its DO's address plus 1; 0 outside every body. -/
def bodyOf (p : List MacIns) (a : Nat) : Nat :=
  (doList p).foldl (fun m d => if d.1 < a ∧ a ≤ d.2 then max m (d.1 + 1) else m) 0

/-- The target of a branch. -/
def branchTarget : MacIns → Option Nat
  | .bra t => some t.toNat
  | .bcc _ t => some t.toNat
  | _ => none

/-- The flow rules of R187 and R225 at one address. The address after 511 is 0 (R188), for delay slots too. -/
def flowOk (p : List MacIns) (a : Nat) : Bool :=
  let i := p.getD a .nop
  let slot := fun k => isFlow (p.getD ((a + k) % 512) .nop)
  let branch := match branchTarget i with
    | none => true
    | some t => decide (t < p.length) && !slot 1 && !slot 2 && decide (bodyOf p ((a + 1) % 512) = bodyOf p a)
        && decide (bodyOf p ((a + 2) % 512) = bodyOf p a) && decide (bodyOf p t = bodyOf p a)
  let inBranch := fun e => isBranch (p.getD ((e + 511) % 512) .nop) || isBranch (p.getD ((e + 510) % 512) .nop)
  let loop := match i with
    | .doLoop _ e =>
      let e := e.toNat
      decide (e < p.length) && decide (a + 1 ≤ e) && !isFlow (p.getD e .nop) && !inBranch e
        && (doList p).all fun d => !(decide (a < d.1) && decide (d.1 < e)) || decide (d.2 < e)
    | _ => true
  let rep := match i with
    | .rep _ | .repReg _ => decide (a + 1 < p.length) && mayRepeat (p.getD (a + 1) .nop)
    | _ => true
  let fin := match i with
    | .endPass => decide (bodyOf p a = 0)
    | _ => true
  branch && loop && rep && fin

/-- The rules a MAC program must meet (R187, R212, R225, R228). -/
def macCodeOk (ws : List Word) : Bool :=
  let p := ws.map decodeMac
  (p.all fun i => (match i with | .illegal _ => false | _ => true) && !macDoubleLoad i)
    && (List.range p.length).all fun a => flowOk p a

/-- A wire entry's cell codes and ports (R58). -/
structure Wire where
  dst : Nat
  dport : Nat
  src : Nat
  sport : Nat
  deriving DecidableEq, Repr

/-- The fields of a wire entry. -/
def wireOf (e : Nat) : Wire := ⟨e / 4096 % 16, e / 256 % 16, e / 16 % 16, e % 16⟩

/-- The wire entries of a WIRING record. -/
def recWires (m : Img) (r : RawRec) : List Nat := (List.range (imgU m (r.off + 8) 2)).map fun i => imgU m (r.off + 12 + 2 * i) 2

/-- Inputs that a cell code offers (R81). -/
def inPorts (c : Nat) : Nat :=
  match c with
  | 0 | 1 | 2 | 3 | 4 | 5 | 7 => 8
  | 6 => 2
  | 9 => 4
  | _ => 0

/-- Outputs that a cell code offers (R81). -/
def outPorts (c : Nat) : Nat :=
  match c with
  | 0 | 1 | 2 | 3 => 5
  | 4 | 5 | 8 => 4
  | 6 | 7 => 8
  | _ => 0

/-- Round up to a multiple of 4. -/
def up4 (n : Nat) : Nat := (n + 3) / 4 * 4

/-- A TABLE record's header (R62). -/
def recTable (m : Img) (r : RawRec) : TableRec :=
  { id := r.id, format := imgU m (r.off + 8) 1, mips := imgU m (r.off + 9) 1, regions := imgU m (r.off + 10) 1
    length0 := imgU m (r.off + 12) 4 }

/-- The bytes of level i in a TABLE record, with its pad. -/
def recLevelBytes (t : TableRec) (i : Nat) : Nat := up4 ((2 + t.format) * (t.length0 / 2 ^ i))

/-- Where level i begins in a TABLE record. -/
def recLevelOff (t : TableRec) (i : Nat) : Nat := (List.range i).foldl (fun a k => a + recLevelBytes t k) 16

/-- Does a REG_DEFAULT address lie in the permitted pages (R69)? -/
def regDefaultOk (a : Nat) : Bool :=
  decide (a % 4 = 0) && (decide (0x2000 ≤ a ∧ a ≤ 0x2FFF) || decide (0x4000 ≤ a ∧ a ≤ 0x7FFF) || decide (0x9000 ≤ a ∧ a ≤ 0x9FFF))

/-- The body of a template record (R60, R61): `bus` of a BUS_TEMPLATE. -/
def templateBad (m : Img) (r : RawRec) (bus : Bool) : Bool :=
  let u := fun k n => imgU m (r.off + k) n
  let tc := u 10 2
  r.len < 280 || tc > 64 || r.len ≠ up4 (280 + 2 * tc) || !imgZero m (r.off + 280 + 2 * tc) (r.len - 280 - 2 * tc)
    || u 9 1 / 2 ≠ 0 || !imgZero m (r.off + 21) 3 || u 20 1 = 255
    || (if bus then decide (u 8 1 ≠ 1) else decide (u 8 1 ≠ 1 ∧ u 8 1 ≠ 2 ∧ u 8 1 ≠ 4) || decide (u 18 1 = 255))

/-- The first rule of its own type that a record breaks, as a reason (R54, R57 to R62, R64, R66, R68, R69, R225, R228, R258). A
STREAM_MAP's loop frames meet no check. DESIGN CHOICE (assumption 116). -/
def recBad (m : Img) (r : RawRec) : Option Nat :=
  let u := fun k n => imgU m (r.off + k) n
  let bad := fun b => if b then some 0x0D else none
  match r.type with
  | 1 =>
    let n := u 10 2
    let x := u 14 1
    let y := u 15 1
    bad (r.len < 16 || u 8 1 > 1 || u 9 1 ≠ 0 || n = 0 || 512 < n || u 12 2 = 0 || 64 < x || 64 < y
      || r.len ≠ 16 + 4 * (n + x + y)
      || ((List.range (x + y)).any fun i => imgU m (r.off + 16 + 4 * (n + i) + 3) 1 ≠ 0) || !macCodeOk (macCode m r))
  | 2 | 3 => bad (r.len ≠ 40)
  | 4 => bad (r.len ≠ 136 || (imgWords m (r.off + 8) 32).any fun w =>
      dstReserved (routeDst w) || (decide (routeDst w = 127) && decide (w ≠ 0xFE000000)) || decide (w &&& 7 ≠ 0))
  | 5 =>
    let n := u 8 2
    let ws := (recWires m r).map wireOf
    bad (r.len < 12 || n = 0 || 128 < n || u 10 2 ≠ 0 || r.len ≠ up4 (12 + 2 * n)
      || !imgZero m (r.off + 12 + 2 * n) (r.len - 12 - 2 * n)
      || (ws.any fun w => decide (inPorts w.dst ≤ w.dport) || decide (outPorts w.src ≤ w.sport))
      || decide ((ws.map fun w => (w.dst, w.dport)).eraseDups.length ≠ ws.length))
  | 6 => bad (templateBad m r false)
  | 7 => bad (templateBad m r true)
  | 8 =>
    let t := recTable m r
    bad (r.len < 16 || 1 < t.format || t.mips = 0 || 12 < t.mips || t.regions = 0 || 15 < t.regions || u 11 1 ≠ 0
      || t.length0 < 16 || 65536 < t.length0 || 2 ^ Nat.log2 t.length0 ≠ t.length0
      || t.length0 / 2 ^ (t.mips - 1) < 4 || r.len ≠ recLevelOff t t.mips)
  | 9 => bad (r.len ≠ 32 || 1 < u 8 1 || 1 < u 9 1 || (decide (u 10 1 ≠ 1) && decide (u 10 1 ≠ 2)) || u 11 1 ≠ 0
      || u 16 4 = 0 || u 28 4 < 8000 || 192000 < u 28 4)
  | 10 =>
    let n := u 8 2
    bad (r.len < 12 || n = 0 || 128 < n || u 10 2 ≠ 0 || r.len ≠ 12 + 8 * n || (List.range n).any fun i =>
      let e := fun k => u (12 + 8 * i + k) 1
      !(decide (e 0 ≤ 3) || decide (0x10 ≤ e 0 ∧ e 0 ≤ 0x1F)) || 15 < e 1 || e 2 = 0 || 63 < e 2 || 127 < e 3
        || e 4 < e 3 || 127 < e 4 || !imgZero m (r.off + 12 + 8 * i + 5) 3)
  | 11 => bad (r.len ≠ 276 || 2 < u 9 1 || u 18 2 ≠ 0)
  | 12 =>
    let n := u 8 2
    if r.len < 12 || n = 0 || 256 < n || u 10 2 ≠ 0 || r.len ≠ 12 + 8 * n then some 0x0D
    else if (List.range n).any fun i => !regDefaultOk (u (12 + 8 * i) 4) then some 0x12 else none
  | _ => none

/-- The records of a section, each checked in turn: its header (R51) and then its own rules (R653). -/
def secRecords (m : Img) (sec type lo hi stop : Nat) : Nat → Nat → List RawRec → Except LoadFail (List RawRec)
  | 0, _, acc => .ok acc.reverse
  | fuel + 1, o, acc =>
    if stop ≤ o then .ok acc.reverse
    else
      let r : RawRec := ⟨sec, type, imgU m (o + 4) 2, o, imgU m o 4⟩
      if stop < o + 8 ∨ r.len % 4 ≠ 0 ∨ r.len < 8 ∨ stop < o + r.len ∨ imgU m (o + 6) 2 ≠ 0 ∨ r.id < lo ∨ hi < r.id then .error (0x0D, sec)
      else match recBad m r with
        | some reason => .error (reason, sec)
        | none => secRecords m sec type lo hi stop fuel (o + r.len) (r :: acc)

/-- Step 7's pass over the sections in table order (R53, R653). DEDUCED (assumption 55). -/
def sectionsStep (m : Img) : List (SecEntry × Nat) → Except LoadFail (List RawRec)
  | [] => .ok []
  | (s, i) :: rest =>
    if imgCrc m s.off s.size ≠ s.crc then .error (0x0B, i)
    else
      match recIds s.type with
      | none => if s.flags % 2 = 1 then sectionsStep m rest else .error (0x0C, i)
      | some (lo, hi) =>
        match secRecords m i s.type lo hi (s.off + s.size) (s.size / 8 + 1) s.off [] with
        | .error e => .error e
        | .ok rs => match sectionsStep m rest with
          | .error e => .error e
          | .ok more => .ok (rs ++ more)

/-! ### What the records say -/

/-- A MAC_PROGRAM record (R54). -/
def recProgram (m : Img) (r : RawRec) : MacProgram :=
  let n := imgU m (r.off + 10) 2
  let x := imgU m (r.off + 14) 1
  { id := r.id, closed := decide (imgU m (r.off + 8) 1 = 1), cycles := imgU m (r.off + 12) 2, code := macCode m r
    xdata := (imgWords m (r.off + 16 + 4 * n) x).map wordQ
    ydata := (imgWords m (r.off + 16 + 4 * (n + x)) (imgU m (r.off + 15) 1)).map wordQ }

/-- A template record (R60). -/
def recTemplate (m : Img) (r : RawRec) : Template :=
  let u := fun k n => imgU m (r.off + k) n
  { id := if r.type = 7 then r.id + 16 else r.id, link := u 8 1, stream := decide (u 9 1 % 2 = 1)
    tables := (List.range (u 10 2)).map fun i => u (280 + 2 * i) 2
    phase := (List.range 4).map fun i => u (12 + i) 1
    mac0 := u 16 1, mac1 := u 17 1, contour := u 18 1, routes := u 19 1, wire := u 20 1, page := imgWords m (r.off + 24) 64 }

/-- A STREAM_MAP record (R64). -/
def recStream (m : Img) (r : RawRec) : StreamRec :=
  let u := fun k n => imgU m (r.off + k) n
  { id := r.id, port := u 8 1, format := u 9 1, channels := u 10 1, offset := u 12 4, frames := u 16 4
    loopStart := u 20 4, loopEnd := u 24 4, rate := u 28 4 }

/-- The entries of a CHANNEL_MAP record (R66). -/
def recChans (m : Img) (r : RawRec) : List ChanEntry :=
  (List.range (imgU m (r.off + 8) 2)).map fun i =>
    let e := fun k => imgU m (r.off + 12 + 8 * i + k) 1
    { source := e 0, channel := e 1, part := e 2, keyLo := e 3, keyHi := e 4 }

/-- The records of a type. -/
def ofType (l : List RawRec) (t : Nat) : List RawRec := l.filter fun r => decide (r.type = t)

/-- The records of a type in ascending ID. -/
def inOrder (l : List RawRec) (t : Nat) : List RawRec := sortBy (fun r => r.id) (ofType l t)

/-- A record by type and ID. -/
def recOf (l : List RawRec) (t id : Nat) : Option RawRec := l.find? fun r => decide (r.type = t ∧ r.id = id)

/-- Is there a record? -/
def hasRec (l : List RawRec) (t id : Nat) : Bool := (recOf l t id).isSome

/-- The template records, voice templates first, in ascending ID (R653). -/
def tmplRecs (l : List RawRec) : List RawRec := inOrder l 6 ++ inOrder l 7

/-- The palette that an image defines (R79 step 9). No register shows PRIMER_ID. DESIGN CHOICE (assumption 114). -/
def imgPalette (m : Img) (slot : Nat) (l : List RawRec) : Palette :=
  let sets := fun t n => (inOrder l t).map fun r => (r.id, imgWords m (r.off + 8) n)
  { loaded := true, primerId := BitVec.ofNat 32 (imgU m 0x24 4), buildSeq := BitVec.ofNat 32 (imgU m 0x20 4)
    flags := BitVec.ofNat 32 (imgFlags m), keySlot := (m 0x13).toNat, slot := slot
    programs := (inOrder l 1).map (recProgram m), phaseSets := sets 2 8, contourSets := sets 3 8, routeSets := sets 4 32
    wirings := (inOrder l 5).map fun r => (r.id, (recWires m r).map fun e => BitVec.ofNat 16 e)
    templates := (tmplRecs l).map (recTemplate m), tables := (inOrder l 8).map (recTable m)
    streams := (inOrder l 9).map (recStream m), chanMap := (inOrder l 10).flatMap (recChans m) }

/-! ### The image-wide checks of step 7 (R653) -/

/-- Duplicate IDs (R52): the later record of a pair is at fault. -/
def dupCheck : List RawRec → List RawRec → Option LoadFail
  | _, [] => none
  | seen, r :: rest => if hasRec seen r.type r.id then some (0x0E, r.sec) else dupCheck (r :: seen) rest

/-- References of a template (R52, R61). -/
def tmplRefs (l : List RawRec) (t : Template) : Bool :=
  let ok := fun ty id => decide (id = 255) || hasRec l ty id
  (t.phase.all fun i => ok 2 i) && ok 1 t.mac0 && ok 1 t.mac1 && ok 3 t.contour && ok 4 t.routes && hasRec l 5 t.wire
    && (t.tables.all fun i => hasRec l 8 i) && (!t.stream || decide (ofType l 9 ≠ []))

/-- Unresolved references (R52, R61, R67, R68): every template's first, then those of the other records. DESIGN CHOICE
(assumption 104). -/
def refCheck (m : Img) (l : List RawRec) : Option LoadFail :=
  (firstFail (tmplRecs l) fun r => failIf (!tmplRefs l (recTemplate m r)) 0x0F r.sec)
  <|> firstFail l fun r =>
    match r.type with
    | 10 => failIf ((recChans m r).any fun e => !hasRec l 11 e.part) 0x0F r.sec
    | 11 => failIf (!hasRec l 6 (imgU m (r.off + 8) 1)) 0x0F r.sec
    | _ => none

/-- Code 8 as a source belongs to bus templates alone (R82). The WIRING records are taken in their order (R653), and each is at fault,
not a template that names it. DESIGN CHOICE (assumption 104). -/
def wireCheck (m : Img) (l : List RawRec) : Option LoadFail :=
  firstFail (ofType l 5) fun w => failIf (((recWires m w).any fun e => decide ((wireOf e).src = 8))
    && (ofType l 6).any fun r => decide ((recTemplate m r).wire = w.id)) 0x0D w.sec

/-- A modulation source code of R135 that is reserved. -/
def srcReserved (c : Nat) : Bool := decide (c = 7) || decide (16 ≤ c)

/-- A record by ID of a palette's streams. -/
def streamOf (p : Palette) (id : Nat) : Option StreamRec := p.streams.find? fun s => decide (s.id = id)

/-- The last page word that an operator reads over the members of its template (R138, R164). -/
def lastPageWord (mode : Word) (link : Nat) : Nat :=
  let str := decide (modeWave mode = 7)
  modePage mode + (if mode.getLsbD 24 then (link - 1) * (if str then 3 else 2) else 0) + (if str then 2 else 1)

/-- The 0x0D items of R137 for operator k of a set in a template. -/
def opMalformed (p : Palette) (t : Template) (set : List Word) (k : Nat) : List Bool :=
  let mode := set.getD (2 * k) 0
  let src := set.getD (2 * k + 1) 0
  let wave := modeWave mode
  let sync := fieldOf src 10 3
  let tab := fun i => (t.tables[i]?).bind p.table
  let first := fieldOf mode 2 6
  let shape := fun i => (tab i).map fun x => (x.format, x.length0, x.mips)
  let spanBad := decide (wave = 2) && (List.range (fieldOf src 2 6)).any fun i =>
    match shape first, shape (first + i + 1) with
    | some a, some b => decide (a ≠ b)
    | _, _ => false
  let strWord := fun m => t.page.getD (modePage mode + (if mode.getLsbD 24 then 3 * m else 0) + 2) 0
  let stereoBad := decide (wave = 7) && (List.range t.link).any fun m =>
    match streamOf p (fieldOf (strWord m) 0 12) with
    | some s => decide (s.channels = 2) && (decide (k % 2 = 1) || decide (modeWave (set.getD (2 * k + 2) 0) ≠ 0))
    | none => false
  [ decide (9 ≤ wave) || decide (fieldOf mode 8 2 = 3) || srcReserved (fieldOf src 27 5) || srcReserved (fieldOf src 20 5)
      || srcReserved (fieldOf src 13 5) || decide (sync = 7)
  , decide (fieldOf src 0 2 ≠ 0)
  , decide (sync = k + 1)
  , decide (wave ≠ 0) && decide (63 < lastPageWord mode t.link)
  , spanBad || stereoBad ]

/-- The 0x0F items of R137. -/
def opUnresolved (t : Template) (set : List Word) (k : Nat) : List Bool :=
  let mode := set.getD (2 * k) 0
  let src := set.getD (2 * k + 1) 0
  [ decide (modeWave mode = 2) && decide (t.tables.length ≤ fieldOf mode 2 6 + fieldOf src 2 6)
  , decide (modeWave mode = 7) && !t.stream ]

/-- The stream operators of a template over its four phase sets; a stereo stream is one (R137, R162). -/
def Template.streamOps (t : Template) (p : Palette) : Nat :=
  ((t.phase.filter fun i => decide (i ≠ 255)).flatMap fun i =>
    (List.range 4).filter fun k => decide (modeWave ((setOf p.phaseSets i).getD (2 * k) 0) = 7)).length

/-- R137, item by item: each PHASE_SET in the records' order against the templates that name it (R653). The PHASE_SET is at fault, or
the template where its operators are counted. DESIGN CHOICE (assumption 104). -/
def phaseCheck (m : Img) (p : Palette) (l : List RawRec) : Option LoadFail :=
  let item := fun (f : Template → List Word → Nat → List Bool) (i reason : Nat) =>
    firstFail (ofType l 2) fun w => failIf ((tmplRecs l).any fun r =>
      let t := recTemplate m r
      t.phase.contains w.id && (List.range 4).any fun k => (f t (imgWords m (w.off + 8) 8) k).getD i false) reason w.sec
  (firstFail (List.range 5) fun i => item (opMalformed p) i 0x0D)
  <|> (firstFail (List.range 2) fun i => item opUnresolved i 0x0F)
  <|> firstFail (tmplRecs l) fun r => failIf (decide (2 < (recTemplate m r).streamOps p)) 0x10 r.sec

/-- The last page word that a generator reads over the members of its template (R232). -/
def genLastWord (mode : Word) (link : Nat) : Nat :=
  match fieldOf mode 30 2 with
  | 1 =>
    let last := fieldOf mode 27 3
    fieldOf mode 13 6 + last + (if mode.getLsbD 8 then (link - 1) * (last + 1) else 0)
  | 2 => fieldOf mode 16 6 + (if mode.getLsbD 5 then link - 1 else 0)
  | _ => 0

/-- R248, item by item (R653), each CONTOUR_SET in the records' order: its field checks, its page words in the templates that name
it, and the envelope with END = 1 that a voice template needs; then the field checks of part page words 56–59. The CONTOUR_SET is
at fault, not the template. DESIGN CHOICE (assumption 104). -/
def contourCheck (m : Img) (l : List RawRec) : Option LoadFail :=
  let set := fun w : RawRec => imgWords m (w.off + 8) 8
  let naming := fun (w : RawRec) (rs : List RawRec) => (rs.map (recTemplate m)).filter fun t => decide (t.contour = w.id)
  (firstFail [modeCodesOk, modeSusOk, modeLoopOk] fun ok =>
    firstFail (ofType l 3) fun w => failIf ((set w).any fun g => !ok g) 0x0D w.sec)
  <|> (firstFail (ofType l 3) fun w => failIf ((naming w (tmplRecs l)).any fun t =>
        (set w).any fun g => decide (63 < genLastWord g t.link)) 0x0D w.sec)
  <|> (firstFail (ofType l 3) fun w => failIf (decide (naming w (ofType l 6) ≠ [])
        && !((set w).any fun g => decide (fieldOf g 30 2 = 1) && g.getLsbD 9)) 0x0D w.sec)
  <|> firstFail [modeCodesOk, modeSusOk, modeLoopOk] fun ok =>
    firstFail (ofType l 11) fun r => failIf ((imgWords m (r.off + 20 + 4 * 56) 4).any fun w => !ok w) 0x0D r.sec

/-- Declared cycles against the pass budget (R56, R87). -/
def cyclesCheck (m : Img) (p : Palette) (l : List RawRec) : Option LoadFail :=
  firstFail (ofType l 1) fun r => failIf (p.templates.any fun t =>
    (decide (t.mac0 = r.id) || decide (t.mac1 = r.id)) && decide (128 * t.link < (recProgram m r).cycles)) 0x11 r.sec

/-- The words of a region's content space (R437): 3 MiB with streams, else 4 MiB. -/
def Palette.spaceWords (p : Palette) : Nat := if p.streams = [] then 1048576 else 786432

/-- Entries that match one source, channel and note, counted over the channel map so far (R67). -/
def overMatched (es : List ChanEntry) (e : ChanEntry) : Bool :=
  (List.range 128).any fun n => decide (e.keyLo ≤ n ∧ n ≤ e.keyHi) && decide (4 < (es.filter fun x =>
    decide (x.source = e.source ∧ x.channel = e.channel ∧ x.keyLo ≤ n ∧ n ≤ x.keyHi)).length)

/-- The channel map records in order, each with the entries before it and its own (R67). -/
def chanCheck (m : Img) : List ChanEntry → List RawRec → Option LoadFail
  | _, [] => none
  | seen, r :: rest =>
    let es := seen ++ recChans m r
    if (recChans m r).any fun e => overMatched es e then some (0x10, r.sec) else chanCheck m es rest

/-- Capacity under R63, R67 and R114. -/
def capacityCheck (m : Img) (p : Palette) (l : List RawRec) : Option LoadFail :=
  (firstFail (List.range 4) fun r => failIf (decide (p.spaceWords < p.contentWords r)) 0x10 0x1FF)
  <|> chanCheck m [] (ofType l 10)
  <|> firstFail (tmplRecs l) fun r =>
    failIf ((List.range 4).any fun g => decide (128 < p.pinCount (recTemplate m r) g)) 0x10 r.sec

/-- Step 7's image-wide checks (R653). An image with no VOICE_TEMPLATE record fails first (R53). -/
def imageWide (m : Img) (slot : Nat) (l : List RawRec) : Option LoadFail :=
  let p := imgPalette m slot l
  failIf (decide (ofType l 6 = [])) 0x0C 0x1FF
  <|> dupCheck [] l
  <|> refCheck m l
  <|> wireCheck m l
  <|> phaseCheck m p l
  <|> contourCheck m l
  <|> cyclesCheck m p l
  <|> capacityCheck m p l

/-! ### The loader -/

/-- A part that a PART_DEFAULT record creates (R68). -/
structure PartDefault where
  id : Nat
  template : Nat
  cls : Nat
  limit : Nat
  policy : Word
  glaze : Nat
  page : List Word
  deriving DecidableEq, Repr

/-- A primer that has passed every check: what step 9 applies. -/
structure Primer where
  pal : Palette
  mode : Nat
  parts : List PartDefault
  regs : List (Nat × Word)
  tables : List (TableRec × List Word)
  deriving DecidableEq, Repr

/-- The bank words of one level of a TABLE record, with zeros up to the next 16-word boundary (R437). -/
def recLevelWords (m : Img) (r : RawRec) (t : TableRec) (i : Nat) : List Word :=
  let o := r.off + recLevelOff t i
  let n := t.length0 / 2 ^ i
  let ws : List Word := if t.format = 0 then imgWords m o (n / 2)
    else (List.range n).map fun j => (BitVec.ofNat 24 (imgU m (o + 3 * j) 3)).signExtend 32
  ws ++ List.replicate (levelOffset t (i + 1) - levelOffset t i - ws.length) 0

/-- The parts of an image. -/
def recPart (m : Img) (r : RawRec) : PartDefault :=
  { id := r.id, template := imgU m (r.off + 8) 1, cls := imgU m (r.off + 9) 1, limit := imgU m (r.off + 10) 2
    policy := BitVec.ofNat 32 (imgU m (r.off + 12) 4), glaze := imgU m (r.off + 16) 2, page := imgWords m (r.off + 20) 64 }

/-- The register writes of an image: records in ascending ID, pairs in order (R69). -/
def recRegs (m : Img) (r : RawRec) : List (Nat × Word) :=
  (List.range (imgU m (r.off + 8) 2)).map fun i =>
    (imgU m (r.off + 12 + 8 * i) 4, BitVec.ofNat 32 (imgU m (r.off + 16 + 8 * i) 4))

/-- The primer of an image whose records are `l`. -/
def imgPrimer (m : Img) (slot : Nat) (l : List RawRec) : Primer :=
  { pal := imgPalette m slot l, mode := imgMode m, parts := (inOrder l 11).map (recPart m)
    regs := (inOrder l 12).flatMap (recRegs m)
    tables := (inOrder l 8).map fun r =>
      let t := recTable m r
      (t, (List.range t.mips).flatMap (recLevelWords m r t)) }

/-- Steps 6 to 8 on the plaintext (R79). -/
def loadPayload (e : LoadCtx) (m : Img) (tagOk : Bool) : Except LoadFail Primer :=
  match tableStep m with
  | some f => .error f
  | none =>
    match sectionsStep m (imgSections m).zipIdx with
    | .error f => .error f
    | .ok l =>
      match imageWide m e.slot l with
      | some f => .error f
      | none => if tagOk then .ok (imgPrimer m e.slot l) else .error (0x0A, 0x1FF)

/-- The checks of R79, steps 1 to 8: the primer to apply, or the first failure. DEDUCED (assumption 55). -/
def loadImage (e : LoadCtx) (m : Img) : Except LoadFail Primer :=
  match headerStep1 m <|> headerStep2 m e.family e.step <|> headerStep3 m e.slot <|> signatureStep e m with
  | some f => .error f
  | none =>
    match unwrapStep5 e m with
    | none => .error (0x09, 0x1FF)
    | some (m', tagOk) => loadPayload e m' tagOk

/-- A slot's candidacy (R78): the first of its checks that fails, as a reason. -/
def candidateFail (e : LoadCtx) (m : Img) : Option Nat :=
  let f := imgFlags m
  (failIf (imgCrc m 0 0x3C ≠ imgU m 0x3C 4) 0x01 0x1FF
  <|> failIf (imgBytes m 0 4 ≠ [0x47, 0x56, 0x50, 0x52]) 0x02 0x1FF
  <|> failIf (m 4 ≠ 1) 0x03 0x1FF
  <|> failIf (e.step < (m 0x12).toNat) 0x04 0x1FF
  <|> failIf (decide (f / 16 % 4 = 1 ∧ e.family ≠ 0) || decide (f / 16 % 4 = 2 ∧ e.family ≠ 1)) 0x05 0x1FF
  <|> (if imgFlag m 0 then signatureStep e m else none)).map fun x => x.1

/-! ### Applying a primer to the banks (R437, R79 step 9) -/

/-- Cells of consecutive bytes from an address; a byte of 0 is not listed. -/
def cellsFrom (a : Nat) : List Byte → Tab Byte
  | [] => []
  | b :: r => if b = 0 then cellsFrom (a + 1) r else (a, b) :: cellsFrom (a + 1) r

/-- The words of a region's content space. -/
def Primer.space (x : Primer) (r : Nat) : List Word :=
  let head := x.pal.spaceHead r
  let ts := sortBy (fun t : TableRec × List Word => t.1.id) (x.tables.filter fun t => t.1.inRegion r)
  head ++ List.replicate (x.pal.tabBase r - head.length) 0 ++ ts.flatMap fun t => t.2

/-- The banks as a load leaves them: content at its place, every other word 0 (R437). -/
def Primer.banks (x : Primer) : Tab Byte :=
  (List.range 4).flatMap fun r => cellsFrom (contentAddr r 0) (((x.space r).take 1048576).flatMap wordBytes)

end Sys2Proof.Machine
end

