-- ==== Sys2Proof/Machine/Easel.lean ====
section
/-! DEFINITION. The easel's service (chapter "Event ingress and the easel", R259 to R270, R275, R276, R280 to R286): frames,
lanes, parameter memory, the timed store and the service slot. -/

namespace Sys2Proof.Machine

/-! ### Parameter memory -/

/-- Write words at ascending indices. DEDUCED (assumption 79). -/
def Chip.paramWrites (c : Chip) (i : Nat) : List Word → Chip
  | [] => c
  | v :: r => (c.paramWrite i v).paramWrites (i + 1) r

/-- The palette unit is to write words at the next boundary (R265). -/
def Chip.palWrites (c : Chip) (l : List PalWrite) : Chip := c.updEz fun z => { z with palQ := z.palQ ++ l }

/-! ### Frames -/

/-- Fields that R262 and R263 mark 0, by OP, and the range of KEY. -/
def frameOk (w0 w1 w2 : Word) : Bool :=
  let op := fieldOf w0 28 4
  let key := fieldOf w0 12 7
  let timed := w0.getLsbD 25
  decide (op ≤ 10) && decide (fieldOf w0 26 2 = 0) && (timed || decide (op = 5) || decide (w1 = 0)) &&
    (match op with
     | 0 => decide (key = 0) && decide (w2 = 0)
     | 1 => decide (fieldOf w2 0 16 = 0)
     | 2 | 3 => true
     | 4 => decide (key ≤ 63)
     | 5 => decide (key = 0) && decide (fieldOf w2 0 10 = 0)
     | 6 => decide (key = 0)
     | 7 | 8 | 9 => decide (key = 0) && decide (w2 = 0)
     | _ => decide (key = 0) && decide (fieldOf w2 1 31 = 0))

/-- A NOTE_CTL WORD that R265 takes. -/
def ctlWordOk (w2 : Word) : Bool := let n := fieldOf w2 24 8; decide (n = 0) || (decide (3 ≤ n) && decide (n ≤ 7))

/-- The event of a frame (R263, R265). -/
def frameEv (lane : Nat) (words : List Word) (stamp : Nat) (tb : Word) : Ev :=
  let w0 := words.getD 0 0
  let w1 := words.getD 1 0
  let w2 := words.getD 2 0
  let op := fieldOf w0 28 4
  let key := fieldOf w0 12 7
  let base : Ev := { op := op, part := fieldOf w0 19 6, key := key, tag := w0.setWidth 12, timed := w0.getLsbD 25, ts := w1
                     src := 0x10 + lane, host := true, stamp := stamp, tb := tb }
  match op with
  | 1 => { base with vel16 := w2.extractLsb' 16 16 }
  | 2 => { base with vel16 := w2.extractLsb' 16 16
                     pitch := BitVec.ofNat 32 (key * 65536) + (w2.extractLsb' 0 16).signExtend 32 <<< 7 }
  | 3 => { base with word := fieldOf w2 24 8, value := (w2.setWidth 24).signExtend 32 }
  | 4 => { base with word := key, value := w2 }
  | 5 => { base with handle := w2.extractLsb' 16 16, word := fieldOf w2 10 6, value := w1, ts := 0 }
  | 6 => { base with word := fieldOf w2 0 24, words := (words.drop 3).take (fieldOf w2 24 8 + 1) }
  | 10 => { base with value := w2 }
  | _ => base

/-- The reason a frame is discarded (R264, R265); none where it is taken. -/
def Chip.frameReject (c : Chip) (lane : Nat) (words : List Word) : Option Nat :=
  let w0 := words.getD 0 0
  let w2 := words.getD 2 0
  let op := fieldOf w0 28 4
  let part := fieldOf w0 19 6
  if w0.getLsbD 25 ∧ (op = 5 ∨ op = 7) then some 7
  else if frameOk w0 (words.getD 1 0) w2 = false ∨ (part = 0 ∧ op ≠ 0 ∧ op ≠ 6) ∨ (op = 6 ∧ lane ≠ 2) then some 1
  else if op = 3 ∧ ctlWordOk w2 = false then some 1
  else if op = 6 ∧ 102399 < fieldOf w2 0 24 + fieldOf w2 24 8 then some 1
  else if part ≠ 0 ∧ c.partExists part = false then some 3
  else none

/-! ### What an event does when it is allocated -/

/-- The per-note pitch of a bend (R275): floor(q × PNRANGE ÷ 128) in 2⁻¹⁶ semitones, PNRANGE from the front part page. -/
def Chip.bendPitch (c : Chip) (p : Nat) (q : Q) : Int :=
  q.toInt * (min 96 (fieldOf (tabGet (c.part p).front 0 52) 0 8) : Nat) / 128

/-- A write to part words whose CCMAP byte names a controller (R275); true when there is one. -/
def Chip.ccWrite (c : Chip) (p code : Nat) (v : Word) : Bool × Chip :=
  let hits := (List.range 16).filter fun j =>
    decide (fieldOf (tabGet (c.part p).front 0 (48 + j / 4)) (8 * (j % 4)) 8 = code)
  (!hits.isEmpty, c.palWrites (hits.map fun j => { page := p, word := j, value := v }))

/-- A controller value (R275, R276): CC 64 moves the pedal as well; one that nothing takes is discarded with reason 0x05. -/
def Chip.takeCtrl (c : Chip) (ev : Ev) : Chip :=
  let c := if ev.key = 64 then c.pedal ev (decide (64 * 65536 ≤ ev.value.toNat % 2 ^ 24)) else c
  let (hit, c) := c.ccWrite ev.part ev.key ev.value
  if hit ∨ ev.key = 64 ∨ ev.key = 0 ∨ ev.key = 32 then c else c.discard ev.src 5

/-- A per-note controller under PNCMAP (R275). `word` is its code: bit 7 assignable, bits [6:0] the index. -/
def Chip.takePnc (c : Chip) (ev : Ev) : Chip :=
  let m := tabGet (c.part ev.part).front 0 54
  let hits := (List.range 3).filter fun j => decide (fieldOf m (8 * j) 8 = ev.word) && decide (ev.word ≠ 0)
  if hits.isEmpty then c.discard ev.src 5 else c.forL hits fun j c => c.noteCtl ev (5 + j) ev.value

/-- d of R33 for a timestamp. -/
def Chip.dueIn (c : Chip) (ts : Word) : Int := timeDiff ts c.tbLow

/-- BULK (R265): a host write to the back copies at once, or, of an event that is due in a later sample than the next, at the
boundary before its sample. DEDUCED (assumption 79). -/
def Chip.bulk (c : Chip) (ev : Ev) : Chip :=
  if ev.timed ∧ 2 ≤ c.dueIn ev.ts then
    c.palWrites ((List.range ev.words.length).map fun i =>
      { page := (ev.word + i) / 64, word := (ev.word + i) % 64, value := ev.words.getD i 0 })
  else c.paramWrites ev.word ev.words

/-- An event reaches allocation (R263, R265, R280). A note-on whose `word` is 1 takes its OFFSET from the bend in `value`
(R279); RPN 0 sets PNRANGE alone (R277). -/
def Chip.applyEv (c : Chip) (ev : Ev) : Chip :=
  let ev := { ev with id := c.ez.stamp }
  match ev.op with
  | 1 => c.takeOff ev
  | 2 =>
    let ev := if ev.word = 1 then
        { ev with word := 0, value := 0
                  pitch := BitVec.ofInt 32 ((ev.key * 65536 : Nat) +
                    clampInt (-32768) 32767 (c.bendPitch ev.part (wordQ ev.value) / 128) * 128) }
      else ev
    c.allocate ev ev.part none
  | 3 => c.noteCtl ev ev.word (if ev.word = 0 then BitVec.ofNat 32 (ev.key * 65536) + ev.value else ev.value)
  | 4 => c.palWrites [{ page := ev.part, word := ev.word, value := ev.value }]
  | 5 => c.voiceWord ev
  | 6 => c.bulk ev
  | 7 => c.cancel ev.part ev.tag
  | 8 => c.allOff ev
  | 9 => c.allSoundOff ev
  | 10 => c.pedal ev (ev.value.getLsbD 0)
  | 0x10 => c.takeCtrl ev
  | 0x11 => c.noteCtl ev 0 (BitVec.ofInt 32 ((ev.key * 65536 : Nat) + c.bendPitch ev.part (wordQ ev.value)))
  | 0x12 => c.takePnc ev
  | 0x13 => c.detach ev.part ev.key
  | 0x14 => c.palWrites [{ page := ev.part, word := 52, value := ev.value, mask := 0xFF }]
  | _ => c

/-- A late timed event (R282). -/
def Chip.countLate (c : Chip) : Chip := (c.bump EZ_CNT1_LATE).raise 21

/-- Does an event go to the timed store (R280)? -/
def Chip.toStore (c : Chip) (ev : Ev) : Bool := ev.timed && decide (2 < c.dueIn ev.ts)

/-- An event that is served counts as late once (R282). -/
def Chip.lateMark (c : Chip) (ev : Ev) : Ev × Chip :=
  let slow := ev.timed && (decide (timeDiff ev.ts ev.tb ≤ 4) || decide (c.dueIn ev.ts < 2))
  ({ ev with late := ev.late || slow }, if slow && !ev.late then c.countLate else c)

/-- d of R33 for the sample an event is due in: an untimed one is due in the earliest sample it can reach (R281). -/
def Chip.dueOf (c : Chip) (ev : Ev) : Int := if ev.timed then c.dueIn ev.ts else 2

/-- The stored events of an event's part that go before it into the ready lists (R281): those due in an earlier sample, and those due
in its sample that arrived before it; in the order of their due samples and arrival. -/
def Chip.storeBefore (c : Chip) (ev : Ev) : List Ev :=
  sortBy (fun e => ((c.dueIn e.ts + 2 ^ 32) * 2 ^ 64 + e.stamp).toNat) (c.ez.store.filter fun e =>
    decide (e.part = ev.part) && (decide (c.dueIn e.ts < c.dueOf ev)
      || (decide (c.dueIn e.ts = c.dueOf ev) && decide (e.stamp < ev.stamp))))

/-- Serve an event (R280 to R282): to the timed store, or to allocation behind the stored events of its part that go first. -/
def Chip.serveEv (c : Chip) (ev : Ev) : Chip :=
  if ev.part ≠ 0 ∧ c.partExists ev.part = false then c.discard ev.src (if 0x20 ≤ ev.src then 8 else 3)
  else
    let (ev, c) := c.lateMark ev
    if c.toStore ev then
      let c := (c.updEz fun z => { z with store := z.store ++ [ev] }).storeStat
      c.raiseIf (decide (c.ez.store.length = c.fld EZ_STHWM_HWM)) 23
    else
      let first := c.storeBefore ev
      let c := if first = [] then c
        else (c.updEz fun z => { z with store := z.store.filter fun e => !first.contains e }).storeStat
      (c.forL first fun e c => let (e, c) := c.lateMark e; c.applyEv e).applyEv ev

/-- Serve a device event frame of a lane (R262 to R265): a NOP does nothing. -/
def Chip.serveFrame (c : Chip) (lane : Nat) (words : List Word) (stamp : Nat) (tb : Word) : Chip :=
  match c.frameReject lane words with
  | some why => c.discard (0x10 + lane) why
  | none => if fieldOf (words.getD 0 0) 28 4 = 0 then c else c.serveEv (frameEv lane words stamp tb)

/-- The stored event due first (R281): among those with d ≤ 2, by due sample, then by arrival. -/
def Chip.storeHead (c : Chip) : Option Ev :=
  match c.ez.store.filter fun e => decide (c.dueIn e.ts ≤ 2) with
  | [] => none
  | x :: r => some (r.foldl (fun b y =>
      if c.dueIn y.ts < c.dueIn b.ts ∨ (y.ts = b.ts ∧ y.stamp < b.stamp) then y else b) x)

/-- The easel takes the next due event out of the timed store (R280). DEDUCED (assumption 79). -/
def Chip.storeRelease (c : Chip) : Chip :=
  match c.storeHead with
  | none => c
  | some ev => ((c.updEz fun z => { z with store := z.store.erase ev }).storeStat).serveEv ev

/-! ### Lanes (R259, R266, R267) -/

/-- A host lane's entries. -/
def Easel.lane (z : Easel) (l : Nat) : List LaneEntry := if l = 0 then z.laneA else if l = 1 then z.laneB else z.laneC

/-- Store a host lane's entries. -/
def Easel.setLane (z : Easel) (l : Nat) (x : List LaneEntry) : Easel :=
  if l = 0 then { z with laneA := x } else if l = 1 then { z with laneB := x } else { z with laneC := x }

/-- Free space of a lane: entries of A and B, words of C (R259, R291). -/
def Easel.laneFree (z : Easel) (l : Nat) : Nat :=
  if l = 0 then 128 - z.laneA.length else if l = 1 then 256 - z.laneB.length
  else 1024 - z.laneC.foldl (fun a e => a + e.words.length) 0

/-- Has a lane room for a frame of n words (R266)? -/
def Easel.laneRoom (z : Easel) (l n : Nat) : Bool := if l ≤ 1 then decide (1 ≤ z.laneFree l) else decide (n ≤ z.laneFree l)

/-- The room level of a lane (R508). -/
def Easel.roomLevel (z : Easel) (l : Nat) : Nat :=
  let free := z.laneFree l
  let cap := if l = 0 then 128 else if l = 1 then 256 else 1024
  let room := if l ≤ 1 then decide (1 ≤ free) else decide (259 ≤ free)
  if cap ≤ 2 * free then 3 else if room && decide (cap ≤ 4 * free) then 2 else if room then 1 else 0

/-- A frame is rejected (R266): the lane's counter, its source, and REJ of the status byte. DEDUCED (assumption 78). -/
def Chip.frameRejected (c : Chip) (lane : Nat) : Chip :=
  let f := if lane = 0 then EZ_CNT0_REJ_A else if lane = 1 then EZ_CNT0_REJ_B else EZ_CNT1_REJ_C
  let c := (c.bump f).raise (16 + lane)
  { c with host := { c.host with rej := true } }

/-- A device event frame or a packet arrives (R266): true when it is accepted. -/
def Chip.frameAccept (c : Chip) (lane : Nat) (words : List Word) (ump : Bool) : Bool × Chip :=
  if c.ez.laneRoom lane words.length then
    let (st, c) := c.nextStamp
    let e : LaneEntry := { words := words, ump := ump, stamp := st, tb := c.tbLow, posted := c.host.posted }
    (true, c.updEz fun z => z.setLane lane (z.lane lane ++ [e]))
  else (false, c.frameRejected lane)

/-- HRDY (R517): every lane that RDYLANE names has room for a maximum frame. -/
def Chip.hrdy (c : Chip) : Bool :=
  (List.range 3).all fun l => c.fld HST_CFG_RDYLANE / 2 ^ l % 2 = 0 || decide (1 ≤ c.ez.roomLevel l)

/-! ### Detectors (R286) -/

/-- Serve a detector entry; a PART that names no part discards it with reason 0x08 (R286). -/
def Chip.serveDet (c : Chip) (d : DetEv) : Chip :=
  match d.evs with
  | [] => c
  | e :: _ => if c.partExists e.part then c.forL d.evs fun e c => c.serveEv e else c.discard (0x20 + d.chan) 8

/-! ### Classes (R260) -/

/-- A class code; 3 acts as 2. -/
def clsOf (n : Nat) : Nat := min n 2

/-- The less urgent of an ingress class and the part's class (R260). -/
def Chip.cls (c : Chip) (ingress part : Nat) : Nat :=
  if part = 0 then clsOf ingress else max (clsOf ingress) (clsOf (c.fld (PAL_PCFG_CLASS part)))

end Sys2Proof.Machine
end

