-- ==== Sys2Proof/Machine/Midi.lean ====
section
/-! DEFINITION. The MIDI side of the easel (chapter "Event ingress and the easel", R268 to R279, R285, R287, R288): the
parser, channel messages of both MIDI versions, MPE zones, jitter reduction, and the MIDI outputs; and the service slot of
R261, which takes from every queue. -/

namespace Sys2Proof.Machine

/-! ### Channel messages -/

/-- A channel voice message of either version: values are Q1.23 as a part word takes them, velocities 16 bits. -/
inductive ChanMsg where
  | noteOn (key vel : Nat) (offset : Int)
  | noteOff (key vel : Nat)
  | poly (key : Nat) (v : Word)
  | cc (n : Nat) (v : Word) (v7 : Nat)
  | mode (n : Nat)
  | program (prog : Nat) (bank : Option Nat)
  | press (v : Word)
  | bend (v : Word)
  | perNote (key op word : Nat) (v : Word)
  | unsupported
  deriving DecidableEq, Repr

/-- scale7to16's rule on 14 bits (R274): its `<< 3` is the shift of 9 less the repeat shift of 6, so that 14 bits take
2 − 13, a shift right by 11. DEDUCED (assumption 31). -/
def scale14to16 (v : Nat) : Nat := if v ≤ 8192 then v * 4 else v * 4 ||| v % 8192 / 2048

/-- A MIDI 1.0 channel message (R274). -/
def msg1 (status d0 d1 : Nat) : ChanMsg :=
  let v : Word := BitVec.ofNat 32 (scale7to16 d1 * 128)
  match status / 16 with
  | 8 => .noteOff d0 (scale7to16 d1)
  | 9 => if d1 = 0 then .noteOff d0 0x8000 else .noteOn d0 (scale7to16 d1) 0
  | 10 => .poly d0 v
  | 11 => if 120 ≤ d0 then .mode d0 else .cc d0 v d1
  | 12 => .program d0 none
  | 13 => .press (BitVec.ofNat 32 (scale7to16 d0 * 128))
  | 14 => .bend (BitVec.ofInt 32 (((d0 + 128 * d1 : Nat) - 8192 : Int) * 1024))
  | _ => .unsupported

/-- A MIDI 2.0 channel voice message (R269). A per-note controller of index 128 or more is none that PNCMAP can name: its code lies
beyond a byte. -/
def msg2 (w0 w1 : Word) : ChanMsg :=
  let key := fieldOf w0 8 7
  let idx := fieldOf w0 0 8
  let q := w1.toNat
  let v : Word := w1 >>> 9
  match fieldOf w0 20 4 with
  | 0x0 =>
    if idx = 3 then .perNote key 3 0 (BitVec.ofInt 32 (clampInt (-0x800000) 0x7FFFFF ((q - key * 2 ^ 25 : Int) / 512)))
    else if idx = 74 then .perNote key 3 4 v
    else .perNote key 0x12 (if idx < 128 then idx else 256 + idx) v
  | 0x1 => .perNote key 0x12 (128 + idx) v
  | 0x6 => .perNote key 0x11 0 (BitVec.ofInt 32 ((q - 2 ^ 31 : Int) / 256))
  | 0x8 => .noteOff key (fieldOf w1 16 16)
  | 0x9 =>
    .noteOn key (fieldOf w1 16 16)
      (if fieldOf w0 0 8 = 3 then clampInt (-32768) 32767 ((fieldOf w1 0 16 : Int) - key * 512) else 0)
  | 0xA => .perNote key 3 3 v
  | 0xB => if 120 ≤ key then .unsupported else .cc key v (q / 2 ^ 25)
  | 0xC =>
    .program (fieldOf w1 24 7) (if w0.getLsbD 0 then some (fieldOf w1 8 7 * 128 + fieldOf w1 0 7) else none)
  | 0xD => .press v
  | 0xE => .bend (BitVec.ofInt 32 ((q - 2 ^ 31 : Int) / 256))
  | 0xF => if w0.getLsbD 1 then .perNote key 0x13 0 0 else .perNote key 0 0 0
  | _ => .unsupported

/-! ### Zones and the channel map -/

/-- The EZ_MPE index of a source of the channel map (R278). -/
def mpeIdx (src : Nat) : Nat := if src < 4 then src else src - 12

/-- LZ of a source; 15 acts as 14 (R297). -/
def Chip.zoneLz (c : Chip) (j : Nat) : Nat := min 14 (c.fld (EZ_MPE_LZ j))

/-- The master channel of the zone in which a channel is a member (R278). -/
def Chip.zoneMaster (c : Chip) (j ch : Nat) : Option Nat :=
  if 1 ≤ ch ∧ ch ≤ c.zoneLz j then some 0
  else if ch ≤ 14 ∧ 15 - c.fld (EZ_MPE_UZ j) ≤ ch then some 15
  else none

/-- The parts that a channel event reaches (R67): the entries that match its source, its channel and its note. -/
def Chip.reach (c : Chip) (src ch : Nat) (key : Option Nat) : List Nat :=
  let hits := c.pal.chanMap.filter fun e => decide (e.source = src) && decide (e.channel = ch) &&
    (match key with
     | some k => decide (e.keyLo ≤ k) && decide (k ≤ e.keyHi)
     | none => true)
  (hits.map fun e => e.part).eraseDups

/-- The events of one message for every part it reaches; a message that reaches none is discarded (R294 reason 0x04). -/
def Chip.toParts (c : Chip) (src ch : Nat) (key : Option Nat) (evs : List Ev) : List Ev × Chip :=
  match c.reach src ch key with
  | [] => ([], c.discard ((evs.head?.map fun e => e.src).getD 0) 4)
  | ps => (ps.flatMap fun p => evs.map fun e => { e with part := p }, c)

/-- The state of a channel of a source. -/
def Chip.chanOf (c : Chip) (j ch : Nat) : ChanSt := tabGet c.ez.chans {} (16 * j + ch)

/-- Store the state of a channel of a source. -/
def Chip.setChan (c : Chip) (j ch : Nat) (x : ChanSt) : Chip :=
  c.updEz fun z => { z with chans := tabSet z.chans {} (16 * j + ch) x }

/-- RPN 6 sizes its own zone and shrinks the other (R278). -/
def Chip.zoneConfig (c : Chip) (j ch size : Nat) : Chip :=
  let n := min 14 size
  if ch = 0 then (c.setFld (EZ_MPE_LZ j) n).setFld (EZ_MPE_UZ j) (min (c.fld (EZ_MPE_UZ j)) (14 - n))
  else (c.setFld (EZ_MPE_UZ j) n).setFld (EZ_MPE_LZ j) (min (c.zoneLz j) (14 - n))

/-- The controllers of R277: the RPN state, and what data entry does. PRESUMED (assumption 11). DEDUCED (assumption 31). -/
def Chip.rpnCtl (c : Chip) (src ch : Nat) (ev : Ev) (n v7 : Nat) : List Ev × Chip :=
  let j := mpeIdx src
  let x := c.chanOf j ch
  match n with
  | 98 => ([], c.setChan j ch { x with nrpn := true, rpn := x.rpn / 128 * 128 + v7 })
  | 99 => ([], c.setChan j ch { x with nrpn := true, rpn := v7 * 128 + x.rpn % 128 })
  | 100 => ([], c.setChan j ch { x with nrpn := false, rpn := x.rpn / 128 * 128 + v7 })
  | 101 => ([], c.setChan j ch { x with nrpn := false, rpn := v7 * 128 + x.rpn % 128 })
  | 6 =>
    let c := c.setChan j ch { x with dataMsb := v7 }
    match c.zoneMaster j ch with
    | some m =>
      if x.nrpn = false ∧ x.rpn = 0 then
        c.toParts src m none [{ ev with op := 0x14, value := BitVec.ofNat 32 v7 }]
      else ([], c.discard ev.src 5)
    | none =>
      if x.nrpn = false ∧ x.rpn = 6 ∧ (ch = 0 ∨ ch = 15) ∧ c.is (EZ_MPE_MCM j) = true then ([], c.zoneConfig j ch v7)
      else ([], c.discard ev.src 5)
  | _ => ([], c)

/-- Per-note events on the keys that a member channel has sounding (R279). -/
def Chip.onKeys (c : Chip) (src m : Nat) (keys : List Nat) (ev : Ev) : List Ev × Chip :=
  keys.foldl (fun a k =>
    let (evs, c) := a.2.toParts src m (some k) [{ ev with key := k }]
    (a.1 ++ evs, c)) ([], c)

/-- Control Change 121 clears the stored state of a member channel, or of every member of a master's zone (R274, R279).
DEDUCED (assumption 31). -/
def Chip.clearMpe (c : Chip) (j ch : Nat) : Chip :=
  c.forN 16 fun k c =>
    if k = ch ∨ c.zoneMaster j k = some ch then
      c.setChan j k { c.chanOf j k with keys := [], bend := 0, press := 0, cc74 := 0 }
    else c

/-- The events of a channel message (R269, R274 to R279); `ev` gives source, time and arrival. DEDUCED (assumption 31). -/
def Chip.mapMsg (c : Chip) (src ch : Nat) (ev : Ev) (m : ChanMsg) : List Ev × Chip :=
  let j := mpeIdx src
  let x := c.chanOf j ch
  let member := c.zoneMaster j ch
  let mc := member.getD ch
  match m with
  | .noteOn key vel offset =>
    let on : Ev := { ev with op := 2, key := key, vel16 := BitVec.ofNat 16 vel }
    if member.isSome then
      let keys := (x.keys.filter fun k => decide (k ≠ key)) ++ [key]
      let c := c.setChan j ch { x with keys := keys.drop (keys.length - 4) }
      c.toParts src mc (some key)
        [{ on with word := 1, value := BitVec.ofInt 32 x.bend }
        , { ev with op := 3, key := key, word := 3, value := x.press.signExtend 32, follows := true }
        , { ev with op := 3, key := key, word := 4, value := x.cc74.signExtend 32, follows := true }]
    else c.toParts src mc (some key) [{ on with pitch := BitVec.ofInt 32 ((key * 65536 : Nat) + offset * 128) }]
  | .noteOff key vel =>
    let c := if member.isSome then c.setChan j ch { x with keys := x.keys.filter fun k => decide (k ≠ key) } else c
    c.toParts src mc (some key) [{ ev with op := 1, key := key, vel16 := BitVec.ofNat 16 vel }]
  | .poly key v => c.toParts src mc (some key) [{ ev with op := 3, key := key, word := 3, value := v }]
  | .perNote key op word v => c.toParts src mc (some key) [{ ev with op := op, key := key, word := word, value := v }]
  | .press v =>
    if member.isSome then
      (c.setChan j ch { x with press := wordQ v }).onKeys src mc x.keys { ev with op := 3, word := 3, value := v }
    else c.toParts src mc none [{ ev with op := 0x10, key := 120, value := v }]
  | .bend v =>
    if member.isSome then
      (c.setChan j ch { x with bend := v.toInt }).onKeys src mc x.keys { ev with op := 0x11, value := v }
    else c.toParts src mc none [{ ev with op := 0x10, key := 121, value := v }]
  | .cc n v v7 =>
    if n = 6 ∨ n = 38 ∨ (98 ≤ n ∧ n ≤ 101) then c.rpnCtl src ch ev n v7
    else if n = 74 ∧ member.isSome then
      (c.setChan j ch { x with cc74 := wordQ v }).onKeys src mc x.keys { ev with op := 3, word := 4, value := v }
    else
      let c := if n = 0 then c.setChan j ch { x with bank := v7 * 128 + x.bank % 128 }
        else if n = 32 then c.setChan j ch { x with bank := x.bank / 128 * 128 + v7 } else c
      c.toParts src mc none [{ ev with op := 0x10, key := n, value := v }]
  | .mode 120 => c.toParts src mc none [{ ev with op := 9 }]
  | .mode 121 => (c.clearMpe j ch).toParts src mc none [{ ev with op := 10, value := 0 }]
  | .mode 123 => c.toParts src mc none [{ ev with op := 8 }]
  | .mode _ => ([], c.discard ev.src 5)
  | .program p bank =>
    c.toParts src mc none [{ ev with op := 4, word := 53, value := BitVec.ofNat 32 (p + 128 * bank.getD x.bank) }]
  | .unsupported => ([], c.discard ev.src 5)

/-! ### Universal MIDI Packets -/

/-- Length of a packet in words by its message type (R516). -/
def umpLen (w : Word) : Nat :=
  match fieldOf w 28 4 with
  | 0x0 | 0x1 | 0x2 | 0x6 | 0x7 => 1
  | 0x3 | 0x4 | 0x8 | 0x9 | 0xA => 2
  | 0xB | 0xC => 3
  | _ => 4

/-- A channel voice packet's message (R268). PRESUMED (assumption 11). -/
def umpMsg (words : List Word) : ChanMsg :=
  let w0 := words.getD 0 0
  if fieldOf w0 28 4 = 2 then msg1 (fieldOf w0 16 8) (fieldOf w0 8 7) (fieldOf w0 0 7) else msg2 w0 (words.getD 1 0)

/-- Does the packet carry a channel voice message? -/
def umpVoice (w : Word) : Bool := decide (fieldOf w 28 4 = 2 ∨ fieldOf w 28 4 = 4)

/-- A JR Clock packet that arrived at TB[31:0] = tb sets the group's anchor (R270). -/
def Chip.jrClock (c : Chip) (group time : Nat) (tb : Word) : Chip :=
  if c.is EZ_CFG_JR_EN then c.updEz fun z => { z with anchors := tabSet z.anchors none group (some (time, tb)) } else c

/-- The timestamp that a JR Timestamp gives (R270). -/
def Chip.jrTs (c : Chip) (k : Word) (anchor time : Nat) : Word :=
  let dj : Int := (BitVec.ofInt 16 ((time : Int) - anchor)).toInt
  k + BitVec.ofInt 32 (dj * c.fs / 31250) + BitVec.ofNat 32 (c.fld EZ_CFG_JRDLY)

/-- A JR Timestamp waits for the group's next channel voice packet in the lane (R270). -/
def Chip.jrStamp (c : Chip) (lane group time : Nat) : Chip :=
  match c.is EZ_CFG_JR_EN, (tabGet c.ez.anchors none group : Option (Nat × Word)) with
  | true, some a =>
    c.updEz fun z => { z with jr := tabSet z.jr none (16 * lane + group) (some (c.jrTs a.2 a.1 time).toNat) }
  | _, _ => c

/-- The timestamp that waits for a packet, which takes it while JR_EN = 1 (R270). -/
def Chip.jrTake (c : Chip) (lane : Nat) (w : Word) : Option Word × Chip :=
  let k := 16 * lane + fieldOf w 24 4
  if umpVoice w && c.is EZ_CFG_JR_EN then
    ((tabGet c.ez.jr none k).map fun t => BitVec.ofNat 32 t, c.updEz fun z => { z with jr := tabSet z.jr none k none })
  else (none, c)

/-- The events of a UMP packet, with what the splitter keeps of it (R268 to R270). -/
def Chip.umpEvents (c : Chip) (lane : Nat) (words : List Word) (ts : Option Word) (stamp : Nat) (tb : Word) : List Ev × Chip :=
  let w0 := words.getD 0 0
  let ev : Ev := { op := 0, part := 0, timed := ts.isSome, ts := ts.getD 0, src := 0x10 + lane, host := true
                   stamp := stamp, tb := tb }
  if umpVoice w0 then c.mapMsg (0x10 + fieldOf w0 24 4) (fieldOf w0 16 4) ev (umpMsg words)
  else ([], c)

/-- The splitter takes a packet of message type 0x0 that arrived at tb (R268, R270). -/
def Chip.umpUtility (c : Chip) (lane : Nat) (w tb : Word) : Chip :=
  match fieldOf w 20 4 with
  | 0 => c
  | 1 => c.jrClock (fieldOf w 24 4) (fieldOf w 0 16) tb
  | 2 => c.jrStamp lane (fieldOf w 24 4) (fieldOf w 0 16)
  | _ => c.discard (0x10 + lane) 2

/-- Is a packet of a type that the easel takes (R268)? -/
def umpTaken (w : Word) : Bool := decide (fieldOf w 28 4 = 0) || umpVoice w

/-- A packet arrives in a lane (R266, R268, R516): true when it is accepted. One of a type that the easel does not take is discarded
on receipt. DEDUCED (assumption 30). -/
def Chip.umpAccept (c : Chip) (lane : Nat) (words : List Word) : Bool × Chip :=
  if umpTaken (words.getD 0 0) then c.frameAccept lane words true else (true, c.discard (0x10 + lane) 2)

/-- Would the timed events among these overfill the timed store (R283)? -/
def Chip.blockedBy (c : Chip) (evs : List Ev) : Bool :=
  let n := (evs.filter fun e => c.toStore e).length
  decide (0 < n) && decide (1024 < c.ez.store.length + n)

/-- UMP_PACKET as one packet mapped and served at once, or not at all while the timed store has no room for it.
DEDUCED (assumption 30). -/
def Chip.umpServe (c : Chip) (lane : Nat) (words : List Word) : Chip :=
  let w0 := words.getD 0 0
  if umpVoice w0 then
    let (ts, c) := c.jrTake lane w0
    let (st, c) := c.nextStamp
    let (evs, d) := c.umpEvents lane words ts st c.tbLow
    if c.blockedBy evs then c else d.forL evs fun e c => c.serveEv e
  else if fieldOf w0 28 4 = 0 then c.umpUtility lane w0 c.tbLow
  else c.discard (0x10 + lane) 2

/-! ### Accepting host frames -/

/-- Words of the device event frame that starts with these (R515, R516). -/
def frameLen (lane : Nat) (ws : List Word) : Nat :=
  if lane = 2 ∧ fieldOf (ws.getD 0 0) 28 4 = 6 then 4 + fieldOf (ws.getD 2 0) 24 8 else 3

/-- One frame or packet of a host write reaches its last HSCK edge (R266): true when it is not rejected. A `later` frame of a
write that has had one rejected is rejected with it; a packet of a type that the easel does not take cannot be rejected (R516). -/
def Chip.hostFrame (c : Chip) (lane : Nat) (ump later : Bool) (words : List Word) : Bool × Chip :=
  let rejecting := later && c.host.rejecting
  if ump && !umpTaken (words.getD 0 0) then
    (true, { (c.umpAccept lane words).2 with host := { c.host with rejecting := rejecting } })
  else if rejecting then (false, c.frameRejected lane)
  else
    let (ok, c) := if ump then c.umpAccept lane words else c.frameAccept lane words false
    (ok, { c with host := { c.host with rejecting := !ok } })

/-! ### The MIDI receivers -/

/-- A counter of EZ_MIDIERR advances (R272, R289). -/
def Chip.midiErr (c : Chip) (f : Field) : Chip := (c.bump f).raiseIf (decide (c.fld f ≠ 255)) 19

/-- Data bytes of a message by its status (R272). -/
def midiNeed (status : Nat) : Nat :=
  if status < 0xC0 ∨ (0xE0 ≤ status ∧ status < 0xF0) ∨ status = 0xF2 then 2
  else if status < 0xE0 ∨ status = 0xF1 ∨ status = 0xF3 then 1 else 0

/-- A receiver's parser. -/
def Chip.midiOf (c : Chip) (i : Nat) : MidiIn := tabGet c.ez.midi {} i

/-- Store a receiver's parser. -/
def Chip.setMidi (c : Chip) (i : Nat) (x : MidiIn) : Chip := c.updEz fun z => { z with midi := tabSet z.midi {} i x }

/-- The events of a message of a port that byte x completes wait for the easel's service; they arrived with that byte (R13, R261,
R274). -/
def Chip.midiMsg (c : Chip) (i : Nat) (x : RxByte) (status d0 d1 : Nat) : Chip :=
  if 0xF0 ≤ status then (if status = 0xF2 then c.tempoExternal i 0xF2 (d0 + 128 * d1) else c)
  else
    let ev : Ev := { op := 0, part := 0, src := i, stamp := x.stamp, tb := x.tb }
    let (evs, c) := c.mapMsg i (status % 16) ev (msg1 status d0 d1)
    c.updEz fun z => { z with msgs := z.msgs ++ evs }

/-- A partial message and the running status are discarded (R272, R285). -/
def MidiIn.cleared (x : MidiIn) : MidiIn := { x with status := 0, data := [], running := 0, sysex := false }

/-- A status byte 0x80–0xF7 (R272). DEDUCED (assumption 31). -/
def Chip.midiStatus (c : Chip) (i b : Nat) : Chip :=
  let x := c.midiOf i
  if b = 0xF7 then c.setMidi i { x with sysex := false }
  else
    let c := if x.status ≠ 0 then c.midiErr (EZ_MIDIERR_TRUNC i) else c
    let x := { x with status := 0, data := [], sysex := false }
    if b < 0xF0 then c.setMidi i { x with status := b, running := b }
    else
      let c := if b = 0xF4 ∨ b = 0xF5 then c.midiErr (EZ_MIDIERR_UNDEF i) else c
      c.setMidi i { x with running := 0, sysex := decide (b = 0xF0), status := if midiNeed b = 0 then 0 else b }

/-- A data byte (R272). -/
def Chip.midiData (c : Chip) (i : Nat) (rx : RxByte) : Chip :=
  let b := rx.byte.toNat
  let x := c.midiOf i
  if x.sysex then c
  else if x.status = 0 ∧ x.running = 0 then c.midiErr (EZ_MIDIERR_ORPHAN i)
  else
    let status := if x.status = 0 then x.running else x.status
    let data := x.data ++ [b]
    if data.length < midiNeed status then c.setMidi i { x with status := status, data := data }
    else (c.setMidi i { x with status := 0, data := [] }).midiMsg i rx status (data.getD 0 0) (data.getD 1 0)

/-- A realtime byte (R272). -/
def Chip.midiRealtime (c : Chip) (i b : Nat) : Chip :=
  match b with
  | 0xF9 | 0xFD => c.midiErr (EZ_MIDIERR_UNDEF i)
  | 0xFE => if c.is (EZ_MIDICFG_ASENSE i) then c.setMidi i { c.midiOf i with sense := true } else c
  | 0xFF => c
  | b => c.tempoExternal i b 0

/-- The parser takes a byte from the receive queue (R272). -/
def Chip.midiParse (c : Chip) (i : Nat) (x : RxByte) : Chip :=
  if x.bad then (c.setMidi i (c.midiOf i).cleared).midiErr (EZ_MIDIERR_FRAME i)
  else if 0xF8 ≤ x.byte.toNat then c.midiRealtime i x.byte.toNat
  else if 0x80 ≤ x.byte.toNat then c.midiStatus i x.byte.toNat
  else c.midiData i x

/-- The parser takes everything that waits in a receive queue; at the mark of a first drop it starts afresh (R285). -/
def Chip.midiDrain (c : Chip) (i : Nat) : Chip :=
  let q := (c.midiOf i).rx
  let c := c.setMidi i { c.midiOf i with rx := [], dropped := false }
  c.forL q fun e c => match e with
    | some x => c.midiParse i x
    | none => c.setMidi i (c.midiOf i).cleared

/-- The drop counter of a port (R296). -/
def dropCnt (i : Nat) : Field :=
  match i with
  | 0 => EZ_MIDIDROP_MI0
  | 1 => EZ_MIDIDROP_MI1
  | 2 => EZ_MIDIDROP_MI2
  | _ => EZ_MIDIDROP_MI3

/-- Does an output copy an input (R287)? -/
def Chip.thruOn (c : Chip) (o i : Nat) : Bool :=
  c.is (EZ_MO_EN o) && c.is (EZ_MO_THRU o) && decide (c.fld (EZ_MO_SRC o) = i)
    && decide (c.fld (EZ_MO_FAST o) = c.fld (EZ_MIDICFG_FAST i))

/-- A byte of input i passes through to the outputs that copy it (R287). -/
def Chip.thru (c : Chip) (i : Nat) (b : Byte) : Chip :=
  c.forN 2 fun o c =>
    if c.thruOn o i then
      let x : MidiOut := tabGet c.ez.outs {} o
      c.updEz fun z => { z with outs := tabSet z.outs {} o { x with thru := x.thru ++ [b], thruSrc := i } }
    else c

/-- A receiver takes a byte at its stop bit (R271, R285, R287). -/
def Chip.midiByte (c : Chip) (i : Nat) (b : Byte) (bad : Bool) : Chip :=
  if c.is (EZ_MIDICFG_EN i) = false then c
  else
    let c := if bad then c else c.thru i b
    let x := c.midiOf i
    let (st, c) := c.nextStamp
    let rx : RxByte := { byte := b, bad := bad, stamp := st, tb := c.tbLow }
    if c.ez.halted = false then (c.setMidi i { x with rx := x.rx ++ [some rx] }).midiDrain i
    else if 256 ≤ (x.rx.filter fun e => e.isSome).length then
      let c := c.setMidi i { x with rx := if x.dropped then x.rx else x.rx ++ [none], dropped := true }
      (c.bump (dropCnt i)).raise 20
    else c.setMidi i { x with rx := x.rx ++ [some rx] }

/-- 300 ms without a byte on an armed port (R273). -/
def Chip.senseTimeout (c : Chip) (i : Nat) : Chip :=
  let x := c.midiOf i
  if x.sense = false then c
  else
    let c := c.setMidi i { x with sense := false }
    let ps := ((c.pal.chanMap.filter fun e => decide (e.source = i)).map fun e => e.part).eraseDups
    c.forL ps fun p c =>
      let (st, c) := c.nextStamp
      c.updEz fun z => { z with msgs := z.msgs ++ [{ op := 8, part := p, src := i, stamp := st, tb := c.tbLow }] }

/-! ### The service slot (R261) -/

/-- An event and those that go with it in the same sample (R279, R286). DEDUCED (assumption 30). -/
def unitOf (l : List Ev) (e : Ev) : List Ev :=
  e :: l.filter fun f => f.follows && decide (f.stamp = e.stamp) && decide (f.part = e.part)

/-- What is left of waiting events when one is taken with those that go with it. -/
def dropUnit (l : List Ev) (e : Ev) : List Ev :=
  (l.erase e).filter fun f => !(f.follows && decide (f.stamp = e.stamp) && decide (f.part = e.part))

/-- A waiting event: a frame of a lane, an event that the splitter made of a lane's packet, an event of a parser, or an entry of the
detector queue. -/
inductive Waiting where
  | frame (l : Nat) (e : LaneEntry)
  | ump (l : Nat) (e : LaneEntry) (ev : Ev)
  | msg (e : Ev)
  | det (d : DetEv)
  deriving DecidableEq, Repr

/-- The order of arrival of a waiting event. -/
def Waiting.stamp : Waiting → Nat
  | .frame _ e => e.stamp
  | .ump _ e _ => e.stamp
  | .msg e => e.stamp
  | .det d => d.stamp

/-- The class in which a waiting event is served (R260). DEDUCED (assumption 30). -/
def Chip.waitClass (c : Chip) : Waiting → Nat
  | .frame l e =>
    let w0 := e.words.getD 0 0
    if fieldOf w0 28 4 = 6 then 2 else c.cls l (fieldOf w0 19 6)
  | .ump l _ ev => c.cls l ev.part
  | .msg e => c.cls (c.fld (EZ_MIDICFG_CLASS e.src)) e.part
  | .det d => c.cls d.cls ((d.evs.map fun e => e.part).headD 0)

/-- The events that serving a waiting event would make: a NOP frame makes none. -/
def Chip.waitEvents (c : Chip) : Waiting → List Ev
  | .frame l e =>
    if (c.frameReject l e.words).isSome ∨ fieldOf (e.words.getD 0 0) 28 4 = 0 then [] else [frameEv l e.words e.stamp e.tb]
  | .ump _ e ev => unitOf e.evs ev
  | .msg e => unitOf c.ez.msgs e
  | .det d => d.evs

/-- A timed event that the full store cannot take stops its queue (R283). -/
def Chip.blocked (c : Chip) (w : Waiting) : Bool := c.blockedBy (c.waitEvents w)

/-- The entries of a queue that the easel can take: those before the first blocked one. -/
def Chip.open_ (c : Chip) (q : List Waiting) : List Waiting := q.takeWhile fun w => !c.blocked w

/-- A lane's entries whose earlier writes have landed (R513). -/
def Chip.landedIn (c : Chip) (l : Nat) : List LaneEntry := (c.ez.lane l).takeWhile fun e => decide (e.posted ≤ c.host.landed)

/-- The splitter takes a packet of a lane: one of message type 0x0 acts and leaves the lane; the timestamp that waits for a channel
voice packet goes with it, and it leaves the lane if it makes no event. -/
def Chip.split (c : Chip) (lane : Nat) (e : LaneEntry) : Chip :=
  let w0 := e.words.getD 0 0
  let gone (c : Chip) : Chip := c.updEz fun z => z.setLane lane ((z.lane lane).erase e)
  if umpVoice w0 then
    let (ts, c) := c.jrTake lane w0
    let (evs, c) := c.umpEvents lane e.words ts e.stamp e.tb
    if evs = [] then gone c
    else c.updEz fun z => z.setLane lane ((z.lane lane).map fun f => if f = e then { f with split := true, ts := ts, evs := evs } else f)
  else gone (c.umpUtility lane w0 e.tb)

/-- The splitter takes the packets that have arrived, in the order of arrival, ahead of their service (R261), each once the writes
before it have landed (R513). DEDUCED (assumption 30). -/
def Chip.splitAll (c : Chip) : Chip :=
  let todo := [0, 1, 2].flatMap fun l => (c.landedIn l).filterMap fun e => if e.ump && !e.split then some (l, e) else none
  c.forL (sortBy (fun x => x.2.stamp) todo) fun x c => c.split x.1 x.2

/-- The events that wait, those that go with another aside: of lane entries only once the writes before them have landed (R513). -/
def Chip.waiting (c : Chip) : List Waiting :=
  let heads (l : List Ev) : List Ev := l.filter fun e => !e.follows
  let lane (l : Nat) : List Waiting :=
    c.open_ ((c.landedIn l).flatMap fun e => if e.ump then (heads e.evs).map fun v => .ump l e v else [.frame l e])
  lane 0 ++ lane 1 ++ lane 2 ++ (heads c.ez.msgs).map .msg ++ c.open_ (c.ez.dets.map .det)

/-- The event that the service slot takes: of the most urgent class, the oldest (R261). -/
def Chip.nextWaiting (c : Chip) : Option Waiting :=
  firstMin (fun w => (c.waitClass w * 2 ^ 64 + w.stamp : Nat)) c.waiting

/-- Serve a waiting event with those that go with it; a lane's space becomes free with a packet's last event (R261, R267). -/
def Chip.serve (c : Chip) : Waiting → Chip
  | .frame l e => (c.updEz fun z => z.setLane l ((z.lane l).erase e)).serveFrame l e.words e.stamp e.tb
  | .ump l e ev =>
    let rest := dropUnit e.evs ev
    let c := c.updEz fun z => z.setLane l (if rest = [] then (z.lane l).erase e
      else (z.lane l).map fun f => if f = e then { f with evs := rest } else f)
    c.forL (unitOf e.evs ev) fun e c => c.serveEv e
  | .msg e =>
    let evs := unitOf c.ez.msgs e
    (c.updEz fun z => { z with msgs := dropUnit z.msgs e }).forL evs fun e c => c.serveEv e
  | .det d => (c.updEz fun z => { z with dets := z.dets.erase d }).serveDet d

/-- One service slot of the easel (R261): entries that came back go ahead of new ingress (R551). -/
def Chip.easelService (c : Chip) : Chip :=
  if c.easelHeld then c
  else if c.returned ≠ [] then c.entryReturn
  else
    let c := c.splitAll
    match c.nextWaiting with
    | some w => c.serve w
    | none => c

/-- A device event frame of one operation, as the easel takes it from lane A (lane C for BULK, R264) with every earlier
event and every returned entry served (R551). DEDUCED (assumption 40). -/
def Chip.rowFrame (c : Chip) (op : Nat) (w0 : Word) (rest : List Word) : Chip :=
  if c.easelHeld then c
  else
    let c := c.serveReturned
    let w0 := (w0 &&& 0x0FFFFFFF) ||| BitVec.ofNat 32 (op * 2 ^ 28)
    let lane := if op = 6 then 2 else 0
    let (st, c) := c.nextStamp
    if c.blocked (.frame lane { words := w0 :: rest, ump := false, stamp := st, tb := c.tbLow }) then c
    else c.serveFrame lane (w0 :: rest) st c.tbLow

/-! ### MIDI outputs -/

/-- A MIDI output. -/
def Chip.moOf (c : Chip) (o : Nat) : MidiOut := tabGet c.ez.outs {} o

/-- Store a MIDI output; EZ_MOSTAT reports the free bytes of its host queue (R299). -/
def Chip.setMo (c : Chip) (o : Nat) (x : MidiOut) : Chip :=
  (c.updEz fun z => { z with outs := tabSet z.outs {} o x }).setFld (if o = 0 then EZ_MOSTAT_FREE0 else EZ_MOSTAT_FREE1)
    (64 - x.host.length)

/-- A write of EZ_MOTX (R288). -/
def Chip.motxWrite (c : Chip) (o : Nat) (b : Byte) : Chip :=
  let x := c.moOf o
  if 64 ≤ x.host.length then c.set1 (if o = 0 then EZ_MOSTAT_OVF0 else EZ_MOSTAT_OVF1)
  else c.setMo o { x with host := x.host ++ [b] }

/-- Is a byte a realtime byte? -/
def isRealtime (b : Byte) : Bool := decide (0xF8 ≤ b.toNat)

/-- Is a byte a status byte other than realtime? -/
def isStatus (b : Byte) : Bool := decide (0x80 ≤ b.toNat ∧ b.toNat < 0xF8)

/-- Bytes of the first message of a list after its status byte, while it needs n data bytes more: none while it is
incomplete. A status byte ends it (R272). -/
def msgTail : Nat → List Byte → Option Nat
  | 0, _ => some 0
  | _ + 1, [] => none
  | n + 1, b :: r =>
    if isRealtime b then (msgTail (n + 1) r).map (· + 1)
    else if isStatus b then some 0 else (msgTail n r).map (· + 1)

/-- Bytes of a system exclusive message after its 0xF0: none while it is incomplete. -/
def sysexTail : List Byte → Option Nat
  | [] => none
  | b :: r => if isStatus b then some (if b = 0xF7 then 1 else 0) else (sysexTail r).map (· + 1)

/-- Bytes of the first whole message of the host queue (R272, R288). -/
def hostMsg (running : Nat) : List Byte → Option Nat
  | [] => none
  | b :: r =>
    if isRealtime b then some 1
    else if b = 0xF0 then (sysexTail r).map (· + 1)
    else if isStatus b then (msgTail (midiNeed b.toNat) r).map (· + 1)
    else if running = 0 then some 1 else (msgTail (midiNeed running - 1) r).map (· + 1)

/-- Running status after a byte (R272). DESIGN CHOICE (assumption 32). -/
def runAfter (running : Nat) (b : Byte) : Nat :=
  if isRealtime b then running else if isStatus b then (if b.toNat < 0xF0 then b.toNat else if b = 0xF7 then running else 0)
  else running

/-- Send the next thru byte: `left` data bytes of its message remain. -/
def MidiOut.sendThru (x : MidiOut) (b : Byte) (rest : List Byte) : MidiOut :=
  let run := runAfter x.thruRunning b
  let sysex := decide (b = 0xF0) || (x.sysex && !isStatus b)
  let left := if isStatus b then midiNeed b.toNat
    else if x.cur = 1 then x.left - 1 else if run = 0 then 0 else midiNeed run - 1
  { x with thru := rest, thruRunning := run, sysex := sysex, left := left, cur := if sysex || decide (left ≠ 0) then 1 else 0
           last := some b }

/-- Send the next byte of the host's message. -/
def MidiOut.sendHost (x : MidiOut) (left : Nat) : MidiOut :=
  match x.host with
  | b :: r =>
    { x with host := r, running := runAfter x.running b, left := left, cur := if left = 0 then 0 else 2, last := some b }
  | [] => { x with cur := 0 }

/-- The realtime bytes that may go out between any two bytes (R287): one of the clock, one of the thru stream, and one that stands
first in the host queue with no host message under way. Each with the output once it is sent. DESIGN CHOICE (assumption 32). -/
def MidiOut.realtime (x : MidiOut) (gen : Bool) : List MidiOut :=
  (match x.clock with
    | b :: r => [{ x with clock := r, last := some b }]
    | [] => [])
  ++ (match x.thru.find? isRealtime with
    | some b => [{ x with thru := x.thru.erase b, last := some b }]
    | none => [])
  ++ (match x.host with
    | b :: r => if gen && isRealtime b && decide (x.cur ≠ 2) then [{ x with host := r, last := some b }] else []
    | [] => [])

/-- The next byte of an output's merge (R287, R288). Which of two streams goes first at a message boundary, and which of several
realtime bytes, is left open (assumption 2). DESIGN CHOICE (assumption 32). -/
def MidiOut.next (x : MidiOut) (gen thruFirst : Bool) (pick : Nat) : MidiOut :=
  match (x.realtime gen)[pick % max 1 (x.realtime gen).length]? with
  | some y => y
  | none =>
    let inThru := decide (x.cur = 1) && (match x.thru with | b :: _ => !isStatus b || (x.sysex && decide (b = 0xF7)) | [] => true)
    if inThru then (match x.thru with | b :: r => x.sendThru b r | [] => { x with last := none })
    else if x.cur = 2 then x.sendHost (x.left - 1)
    else
      let x := { x with cur := 0, left := 0, sysex := false }
      match x.thru, (if gen then hostMsg x.running x.host else none) with
      | b :: r, none => x.sendThru b r
      | b :: r, some n => if thruFirst then x.sendThru b r else x.sendHost (n - 1)
      | [], some n => x.sendHost (n - 1)
      | [], none => { x with last := none }

/-- A thru message of an input that the output copies no more has ended where its bytes end (R287). -/
def Chip.thruEnds (c : Chip) (o : Nat) (x : MidiOut) : MidiOut :=
  if x.cur = 1 ∧ x.thru = [] ∧ c.thruOn o x.thruSrc = false then { x with cur := 0, left := 0, sysex := false, thruRunning := 0 }
  else x

/-- A MIDI output sends its next byte; an idle or disabled output sends none (R287). -/
def Chip.midiOut (c : Chip) (o : Nat) : Chip :=
  let x := c.thruEnds o (c.moOf o)
  if c.is (EZ_MO_EN o) then
    c.setMo o (x.next (c.is (EZ_MO_GEN o)) (Config.freeBool c.ctr (820000 + o)) (Config.freeWord c.ctr (820002 + o)).toNat)
  else c.setMo o { x with last := none }

/-! ### Meanings -/

/-- HOST_FRAME_ACCEPT (R266): the words are one frame or packet; fewer or more words are none. `later` says that it is not the
first of its write. -/
def execHostFrameAccept (lane : Fin 3) (ump later : Bool) (words : List Word) : State → Host.Outcome State Fault Refusal :=
  act fun c =>
    if words.length = (if ump then umpLen (words.getD 0 0) else frameLen lane words) then (c.hostFrame lane ump later words).2
    else c

/-- EASEL_SERVICE (R261). -/
def execEaselService : State → Host.Outcome State Fault Refusal := actFree fun c => c.easelService

/-- FRAME_NOP (R263). -/
def execFrameNop (w0 w1 w2 : Word) : State → Host.Outcome State Fault Refusal := act fun c => c.rowFrame 0 w0 [w1, w2]

/-- NOTE_ON (R311). -/
def execNoteOn (w0 w1 w2 : Word) : State → Host.Outcome State Fault Refusal := act fun c => c.rowFrame 2 w0 [w1, w2]

/-- NOTE_OFF (R319). -/
def execNoteOff (w0 w1 w2 : Word) : State → Host.Outcome State Fault Refusal := act fun c => c.rowFrame 1 w0 [w1, w2]

/-- NOTE_CTL (R265). -/
def execNoteCtl (w0 w1 w2 : Word) : State → Host.Outcome State Fault Refusal := act fun c => c.rowFrame 3 w0 [w1, w2]

/-- PART_WORD (R265). -/
def execPartWord (w0 w1 w2 : Word) : State → Host.Outcome State Fault Refusal := act fun c => c.rowFrame 4 w0 [w1, w2]

/-- VOICE_WORD (R265). -/
def execVoiceWord (w0 w1 w2 : Word) : State → Host.Outcome State Fault Refusal := act fun c => c.rowFrame 5 w0 [w1, w2]

/-- BULK (R265). -/
def execBulk (w0 w1 w2 : Word) (data : List Word) : State → Host.Outcome State Fault Refusal :=
  act fun c => c.rowFrame 6 w0 (w1 :: w2 :: data)

/-- CANCEL (R324). -/
def execCancel (w0 w1 w2 : Word) : State → Host.Outcome State Fault Refusal := act fun c => c.rowFrame 7 w0 [w1, w2]

/-- ALL_OFF (R319). -/
def execAllOff (w0 w1 w2 : Word) : State → Host.Outcome State Fault Refusal := act fun c => c.rowFrame 8 w0 [w1, w2]

/-- ALL_SOUND_OFF (R319). -/
def execAllSoundOff (w0 w1 w2 : Word) : State → Host.Outcome State Fault Refusal := act fun c => c.rowFrame 9 w0 [w1, w2]

/-- SUSTAIN (R276). -/
def execSustain (w0 w1 w2 : Word) : State → Host.Outcome State Fault Refusal := act fun c => c.rowFrame 10 w0 [w1, w2]

/-- TIMED_STORE_RELEASE (R280). -/
def execTimedStoreRelease : State → Host.Outcome State Fault Refusal :=
  act fun c => if c.easelHeld then c else c.serveReturned.storeRelease

/-- UMP_PACKET (R268). -/
def execUmpPacket (lane : Fin 3) (words : List Word) : State → Host.Outcome State Fault Refusal :=
  act fun c => if c.easelHeld then c else c.serveReturned.umpServe lane words

/-- JR_CLOCK (R270). -/
def execJrClock (group : BitVec 4) (time : BitVec 16) : State → Host.Outcome State Fault Refusal :=
  act fun c => c.jrClock group.toNat time.toNat c.tbLow

/-- JR_TIMESTAMP (R270). -/
def execJrTimestamp (lane : Fin 3) (group : BitVec 4) (time : BitVec 16) : State → Host.Outcome State Fault Refusal :=
  act fun c => c.jrStamp lane group.toNat time.toNat

/-- MIDI_BYTE (R272). -/
def execMidiByte (port : Fin 4) (b : Byte) (bad : Bool) : State → Host.Outcome State Fault Refusal :=
  actFree fun c => c.midiByte port b bad

/-- ACTIVE_SENSING_TIMEOUT (R273). -/
def execActiveSensingTimeout (port : Fin 4) : State → Host.Outcome State Fault Refusal := act fun c => c.senseTimeout port

/-- MOTX_WRITE (R288). -/
def execMotxWrite (o : Fin 2) (b : Byte) : State → Host.Outcome State Fault Refusal := act fun c => c.motxWrite o b

/-- MIDI_OUT_BYTE (R287). -/
def execMidiOutByte (o : Fin 2) : State → Host.Outcome State Fault Refusal := actFree fun c => c.midiOut o

end Sys2Proof.Machine
end

