-- ==== Sys2Proof/Machine/Canvas.lean ====
section
/-! DEFINITION. The canvas (chapter "The canvas mix fabric", R337 to R352): what voices, held tails, glazes and bus slots
contribute, how buses close, the chip canvas, and the ends of fades and ramps. -/

namespace Sys2Proof.Machine

/-! ### Voice outputs -/

/-- A product of Q1.23 values that cannot saturate the other way: truncated, then saturated (R338). -/
def scaleQ (v : Q) (num den : Nat) : Q := satQ (v.toInt * num / den)

/-- A voice output port of a slot for sample n (R81, R255), before any fade. -/
def SlotSt.voiceOut (x : SlotSt) (t : Content) (n p : Nat) : Q :=
  let v := wireVal t.wires x 9 p n
  if routed t.routes 72 then mulQ v ((tabGet x.dests {} 72).at n) else v

/-- A matrix destination that goes to the canvas: pan 73, sends 74 and 75; 0 with no route (R253). -/
def SlotSt.destAt (x : SlotSt) (t : Content) (n d : Nat) : Q := if routed t.routes d then (tabGet x.dests {} d).at n else 0

/-- Has a fade begun by sample n? -/
def fadeOn (f : Option Fade) (n : Nat) : Bool := match f with
  | some f => decide (f.start ≤ n)
  | none => false

/-- A voice output port as the canvas takes it: with the glaze gain of R318. -/
def SlotSt.portOut (x : SlotSt) (t : Content) (n p : Nat) : Q :=
  let v := x.voiceOut t n p
  match x.glaze with
  | some f => if f.start ≤ n then mulQ v (glazeGain (n - f.start + 1) f.n) else v
  | none => v

/-! ### Pan, sends and routing (R337 to R340) -/

/-- The pan gains (R339): `c` and `s` are the constant-power ones. DESIGN CHOICE (assumption 41). -/
def panGains (law : Bool) (q c s : Q) : Q × Q :=
  if law then (c, s)
  else (satQ (min 0x800000 (0x800000 - q.toInt)), satQ (min 0x800000 (0x800000 + q.toInt)))

/-- The part gain (R337). -/
def partGain (w61 : Word) (v : Q) : Q := if w61.getLsbD 31 then mulQ v (wordQ w61) else v

/-- The contributions of one member: (bus·2 + side, value), in the order of R338's table. -/
def memberContrib (ctr site : Nat) (rt : Route) (p0 p1 p2 p3 pan sa sb : Q) : List (Nat × Int) :=
  let law := rt.dest.getLsbD 29
  let phase : Word := BitVec.ofInt 32 ((pan.toInt + 0x800000) * 64)
  let g := panGains law pan (if law then sineQ ctr site (phase + 0x40000000) else 0) (if law then sineQ ctr (site + 1) phase else 0)
  let m := satQ ((p0.toInt + p1.toInt) / 2)
  let l := partGain rt.word61 (mulQ (if law then m else p0) g.1)
  let r := partGain rt.word61 (mulQ (if law then m else p1) g.2)
  let bus (lo : Nat) (a b : Q) : List (Nat × Int) := [(2 * fieldOf rt.dest lo 4, a.toInt), (2 * fieldOf rt.dest lo 4 + 1, b.toInt)]
  bus 0 l r ++ bus 8 (mulQ l sa) (mulQ r sa) ++ bus 16 (mulQ l sb) (mulQ r sb)
    ++ (if rt.dest.getLsbD 28 then bus 24 (partGain rt.word61 p2) (partGain rt.word61 p3) else [])

/-- The routing of a slot's member for sample n (R337, R340): the latched words from the start of its fade on. `now` takes the
page of the sample in course, the other case that of the sample before. -/
def Chip.memberRoute (c : Chip) (x : SlotSt) (n : Nat) (now : Bool) : Route :=
  if x.latched && (fadeOn x.glaze n || fadeOn x.ramp n) then x.route
  else
    let p := c.part x.part
    let pg := if now then p.front else p.prev
    { dest := tabGet pg 0 60, word61 := tabGet pg 0 61 }

/-- What a held tail adds in glaze sample j (R314): value × (Ng − j) ÷ Ng, truncated. -/
def Tail.at (f : Tail) (n : Nat) (v : Q) : Q :=
  if f.start ≤ n ∧ n < f.start + f.ng then scaleQ v (f.ng - (n - f.start + 1)) f.ng else 0

/-- The contributions of a held tail for sample n. -/
def Tail.contrib (f : Tail) (ctr site n : Nat) : List (Nat × Int) :=
  if f.ready ∧ f.start ≤ n ∧ n < f.start + f.ng then
    memberContrib ctr site f.route (f.at n f.v0) (f.at n f.v1) (f.at n f.v2) (f.at n f.v3) f.pan f.sendA f.sendB
  else []

/-- The contributions of what occupies a slot for sample n: a voice's member, or a bus slot's returns (R346). -/
def Chip.slotContrib (c : Chip) (t : Content) (key n : Nat) (now : Bool) : List (Nat × Int) :=
  let x := c.slot key
  if x.occupied = false ∨ n < x.first then []
  else if x.isBus then
    let w := tabGet (if now then x.front else x.prev) 0 60
    let bus (lo a b : Nat) : List (Nat × Int) :=
      [(2 * fieldOf w lo 4, (x.portOut t n a).toInt), (2 * fieldOf w lo 4 + 1, (x.portOut t n b).toInt)]
    (if w.getLsbD 20 then bus 16 0 1 else []) ++ (if w.getLsbD 28 then bus 24 2 3 else [])
  else if fadeOn x.ramp n then
    match x.held with
    | some f => f.contrib c.ctr (900000 + 4 * key) n
    | none => []
  else
    memberContrib c.ctr (900000 + 4 * key) (c.memberRoute x n now) (x.portOut t n 0) (x.portOut t n 1) (x.portOut t n 2)
      (x.portOut t n 3) (x.destAt t n 73) (x.destAt t n 74) (x.destAt t n 75)

/-- A glaze slot's contributions for sample n, from its first glaze sample on. -/
def Chip.glazeContrib (c : Chip) (t : Content) (key n : Nat) (now : Bool) : List (Nat × Int) :=
  if fadeOn (c.slot key).glaze n then c.slotContrib t key n now else []

/-- The contributions of a block for sample n in the order of R341, before any block fade. -/
def Chip.blockContrib (c : Chip) (k n : Nat) (now : Bool) : List (Nat × Int) :=
  match (c.blk k).content with
  | none => []
  | some t =>
    ((List.range c.slotCount).flatMap fun s =>
      let key := 40 * k + s
      c.slotContrib t (if now then key else tabGet c.late key key) n now
        ++ (tabGet c.tails [] key).flatMap fun f => f.contrib c.ctr (900002 + 4 * key) n)
      ++ c.glazeContrib t (40 * k + 16) n now ++ c.glazeContrib t (40 * k + 17) n now

/-- A contribution scaled by num ÷ den, truncated (R350). -/
def scaleContrib (num den : Nat) (l : List (Nat × Int)) : List (Nat × Int) := l.map fun p => (p.1, p.2 * num / den)

/-- The contributions that a live fade with j = 1 in sample t, if one runs, lets through in sample n (R350). -/
def liveScale (t : Option Nat) (n : Nat) (l : List (Nat × Int)) : List (Nat × Int) :=
  match t with
  | some t => scaleContrib (64 - (n + 1 - t)) 64 l
  | none => l

/-- The contributions of a block for sample n under its fade (R350, R351); a held fade starts from those of the last close. -/
def Chip.fadedContrib (c : Chip) (k n : Nat) : List (Nat × Int) :=
  match (tabGet c.cnv.fades none k : Option BlockFade) with
  | none => c.blockContrib k n false
  | some f =>
    let j := n + 1 - f.start
    if f.heldKind then
      if (c.blk k).st = .failed then scaleContrib (32 - j) 32 (tabGet c.cnv.lastContrib [] k)
      else liveScale f.was n (c.blockContrib k n false)
    else scaleContrib (64 - j) 64 (c.blockContrib k n false)

/-! ### Closing the buses (R341 to R343) -/

/-- A saturating addition to a bus; the second part collects the buses that saturated (R341). -/
def busAdd (a : Tab Int × Word) (p : Nat × Int) : Tab Int × Word :=
  let s := tabGet a.1 0 p.1 + p.2
  (tabSet a.1 0 p.1 (sat32 s), if s = sat32 s then a.2 else a.2 ||| (1#32 <<< (p.1 / 2)))

/-- The gain at a close of a ramp, and the ramp after it (R343). -/
def GainRamp.close (g : GainRamp) : Q × GainRamp :=
  let j := min (g.j + 1) g.r
  (if j = g.r then g.gt else satQ (g.g0.toInt + (g.gt.toInt - g.g0.toInt) * j / g.r), { g with j := j })

/-- The gain in force. -/
def GainRamp.now (g : GainRamp) : Q := if g.j = g.r then g.gt else satQ (g.g0.toInt + (g.gt.toInt - g.g0.toInt) * g.j / g.r)

/-- The gain register of an index: region buses 0–63, chip buses 64–95. -/
def gainReg (i : Nat) : Nat := if i < 64 then CNV_RBG i else CNV_CBG (i - 64)

/-- Gain writes that landed since the last boundary start their ramps (R343). -/
def Chip.startRamps (c : Chip) : Chip :=
  let ramps := c.cnv.gainPend.foldl (fun t i =>
    let g : GainRamp := tabGet t {} i
    let w := c.reg (gainReg i)
    tabSet t {} i { g0 := g.now, gt := wordQ w, r := 2 ^ min 10 (fieldOf w 24 4), j := 0 }) c.cnv.ramps
  { c with cnv := { c.cnv with ramps := ramps, gainPend := [] } }

/-- Close the ramp of a gain register: its gain. -/
def Chip.closeRamp (c : Chip) (i : Nat) : Q × Chip :=
  let (g, x) := (tabGet c.cnv.ramps {} i : GainRamp).close
  (g, { c with cnv := { c.cnv with ramps := tabSet c.cnv.ramps {} i x } })

/-- The region canvas closes sample n for region r (R341, R342); a region out of service contributes 0 (R561). -/
def Chip.closeRegion (c : Chip) (r n : Nat) : Chip :=
  let step (a : (Tab Int × Word) × Tab (List (Nat × Int))) (b : Nat) : (Tab Int × Word) × Tab (List (Nat × Int)) :=
    let k := blkKey r b
    if (c.blk k).content.isNone ∧ (tabGet c.cnv.fades none k : Option BlockFade).isNone then (a.1, tabSet a.2 [] k [])
    else
      let l := c.fadedContrib k n
      let kept : Bool := match (tabGet c.cnv.fades none k : Option BlockFade) with
        | some f => f.heldKind && decide ((c.blk k).st = .failed)
        | none => false
      (l.foldl busAdd a.1, if kept = true then a.2 else tabSet a.2 [] k l)
  let ((acc, ovf), last) := (List.range 24).foldl step (([], 0), c.cnv.lastContrib)
  let c := if ovf = 0 then c else c.setReg (CNV_ROVF r) (c.reg (CNV_ROVF r) ||| ovf)
  let c : Chip := { c with cnv := { c.cnv with lastContrib := last } }
  c.forN 16 fun b c =>
    let (g, c) := c.closeRamp (16 * r + b)
    let val (side : Nat) : Int := if c.is (RGNn_FAULT_OOS r) then 0 else sat32 (tabGet acc 0 (2 * b + side) * g.toInt / 2 ^ 23)
    let i := 2 * (16 * r + b)
    { c with cnv := { c.cnv with busVal := tabSet (tabSet c.cnv.busVal 0 i (val 0)) 0 (i + 1) (val 1) } }

/-- A CNV register in force (R349). -/
def Chip.cnvReg (c : Chip) (a : Nat) : Word := tabGet c.cnv.shadow (regReset a) a

/-- CNV routing and map registers take effect at the boundary, and so do the writes that clear CNV_ROVF and CNV_COVF (R349). -/
def Chip.cnvShadow (c : Chip) : Chip :=
  let c := c.forL c.cnv.w1c fun p c => c.setReg p.1 (c.reg p.1 &&& ~~~p.2)
  { c with cnv := { c.cnv with w1c := [], shadow := c.regs.filter fun p => decide (0x4200 ≤ p.1 ∧ p.1 < 0x4300 ∨ 0x4380 ≤ p.1 ∧ p.1 < 0x4400) } }

/-- The chip canvas forms its buses from the region bus values (R347). -/
def Chip.chipCanvas (c : Chip) : Chip :=
  let adds := (List.range 64).flatMap fun i =>
    let w := c.cnvReg (CNV_RBD i)
    if w.getLsbD 4 then
      let k := 2 * fieldOf w 0 4
      [(k, tabGet c.cnv.busVal 0 (2 * i)), (k + 1, tabGet c.cnv.busVal 0 (2 * i + 1))]
    else []
  let add (a : Tab Int × Word) (p : Nat × Int) : Tab Int × Word :=
    let s := tabGet a.1 0 p.1 + p.2
    (tabSet a.1 0 p.1 (sat32 s), if s = sat32 s then a.2 else a.2 ||| (1#32 <<< p.1))
  let (acc, ovf) := adds.foldl add ([], 0)
  let step (k : Nat) (a : Word × Chip) : Word × Chip :=
    let (g, c) := a.2.closeRamp (64 + k)
    let v := tabGet acc 0 k * g.toInt / 2 ^ 23
    let q := satQ v
    (if q.toInt = v then a.1 else a.1 ||| (1#32 <<< k), { c with cnv := { c.cnv with chip := tabSet c.cnv.chip 0 k q } })
  let (ovf, c) := (List.range 32).foldl (fun a k => step k a) (ovf, c)
  if ovf = 0 then c else c.setReg CNV_COVF (c.reg CNV_COVF ||| ovf)

/-! ### Block inputs of bus slots (R344, R345) -/

/-- What a bus block reads of an input channel: 0 while the channel is delivered at Fd (R398). -/
def Chip.aiEngine (c : Chip) (k : Nat) : Q := if c.is (AI_CFG_ORATE k) then 0 else (c.aiOf k).engine

/-- The two values of a source code for a bus slot of region r, and whether a bus saturated (R344, R345). -/
def Chip.busSource (c : Chip) (r code : Nat) : Q × Q × Bool :=
  if code < 16 then
    let i := 2 * (16 * r + code)
    let a := tabGet c.cnv.busVal 0 i
    let b := tabGet c.cnv.busVal 0 (i + 1)
    (satQ a, satQ b, decide ((satQ a).toInt ≠ a) || decide ((satQ b).toInt ≠ b))
  else if code < 24 then (c.aiEngine (2 * (code - 16)), c.aiEngine (2 * (code - 16) + 1), false)
  else if 32 ≤ code ∧ code < 48 then
    let q := (code - 32) / 8
    let j := 2 * ((code - 32) % 8)
    (c.saEngine q j, c.saEngine q (j + 1), false)
  else (0, 0, false)

/-- The block inputs of a bus slot for the sample that begins (R345). -/
def Chip.busInputs (c : Chip) (k key : Nat) : Chip :=
  let x := c.slot key
  let w := tabGet x.front 0 60
  let r := k / 24
  let mark (code : Nat) (b : Bool) (c : Chip) : Chip :=
    if b then c.setReg (CNV_ROVF r) (c.reg (CNV_ROVF r) ||| (1#32 <<< code)) else c
  let s1 := c.busSource r (fieldOf w 0 6)
  let s2 := c.busSource r (fieldOf w 8 6)
  let c := c.setSlot key (x.pushOuts 8 c.clk.smp [s1.1, s1.2.1, s2.1, s2.2.1])
  mark (fieldOf w 8 6) s2.2.2 (mark (fieldOf w 0 6) s1.2.2 c)

/-- The block inputs of every bus slot. -/
def Chip.allBusInputs (c : Chip) : Chip :=
  c.forN 96 fun k c =>
    if (c.blk k).bus then c.forN c.slotCount fun s c =>
      if (c.slot (40 * k + s)).isBus then c.busInputs k (40 * k + s) else c
    else c

/-! ### Held values -/

/-- The values of a member at the sample before its tail or ramp (R91, R314): ports, pan and sends. -/
def Tail.fill (f : Tail) (x : SlotSt) (t : Content) (n : Nat) : Tail :=
  { f with ready := true, v0 := x.portOut t n 0, v1 := x.portOut t n 1, v2 := x.portOut t n 2, v3 := x.portOut t n 3
           pan := x.destAt t n 73, sendA := x.destAt t n 74, sendB := x.destAt t n 75 }

/-- A tail that takes a new victim while another still ramps: the sum of the contribution last added and the new value; the
routing stays the first one's (R314, R340). DEDUCED (assumption 37). -/
def Tail.merge (old new : Tail) (n : Nat) : Tail :=
  if old.start ≤ n ∧ n < old.start + old.ng ∧ old.ready then
    { new with v0 := satQ ((old.at n old.v0).toInt + new.v0.toInt), v1 := satQ ((old.at n old.v1).toInt + new.v1.toInt)
               v2 := satQ ((old.at n old.v2).toInt + new.v2.toInt), v3 := satQ ((old.at n old.v3).toInt + new.v3.toInt)
               route := old.route }
  else new

/-- Tails and ramps that start in sample n + 1 take the values of sample n, which has just closed. -/
def Chip.fillTails (c : Chip) (n : Nat) : Chip :=
  let c := c.forL c.tails fun p c =>
    match (c.blk (p.1 / 40)).content with
    | none => c
    | some t =>
      let x := c.slot (tabGet c.late p.1 p.1)
      let l := (p.2.foldl (fun (acc : List Tail) f =>
        if f.ready then acc ++ [f]
        else if f.start = n + 1 then
          let g := f.fill x t n
          [acc.foldl (fun g o => Tail.merge o g n) g]
        else acc ++ [f]) [])
      { c with tails := tabSet c.tails [] p.1 l }
  { c with slots := c.slots.map fun p => match p.2.held, (c.blk (p.1 / 40)).content with
      | some f, some t => if f.ready = false ∧ f.start = n + 1 then
          (p.1, { p.2 with held := some { f.fill p.2 t n with route := p.2.route } }) else p
      | _, _ => p }

/-- The loudness of voices takes the sample that has just closed (R307). -/
def Chip.loudness (c : Chip) (n : Nat) : Chip :=
  { c with slots := c.slots.map fun p =>
      match p.2.voice, (c.blk (p.1 / 40)).content with
      | some v, some t =>
        if p.2.first ≤ n ∧ p.1 % 40 < 16 then
          let a := max (p.2.portOut t n 0).toInt.natAbs (p.2.portOut t n 1).toInt.natAbs
          (p.1, { p.2 with voice := some { v with loud := (a :: v.loud).take 32 } })
        else p
      | _, _ => p }

/-! ### Ends of fades -/

/-- A glaze has reached j = Ng (R106, R107, R318): its slots or its glaze context are free. A glaze in place
that a ramp of R91 has taken over ends with the ramp. DESIGN CHOICE (assumption 13). DEDUCED (assumption 97). -/
def Chip.glazeEnd (c : Chip) (r b s : Nat) : Chip :=
  let key := slotKey r b s
  let x := c.slot key
  match x.glaze with
  | none => c
  | some f =>
    if c.clk.smp < f.start + f.n then c
    else if 16 ≤ s then (c.glazeFree key).blkNorm (key / 40)
    else if x.mates = [] ∨ x.ramp.isSome then c
    else (c.forL x.mates fun k c => (c.dropContextRings k).updSlot k SlotSt.emptied).blkNorm (key / 40)

/-- A held tail has reached j = Ng (R314). -/
def Chip.tailEnd (c : Chip) (r b s : Nat) : Chip :=
  let key := slotKey r b s
  let l := tabGet c.tails [] key
  let c : Chip := { c with tails := tabSet c.tails [] key (l.filter fun f => decide (c.clk.smp < f.start + f.ng)) }
  c.blkNorm (key / 40)

/-- A ramp of R91 has ended: the voice's slots are free. -/
def Chip.budgetRampEnd (c : Chip) (r b s : Nat) : Chip :=
  let key := slotKey r b s
  let x := c.slot key
  match x.ramp with
  | none => c
  | some f =>
    if c.clk.smp < f.start + f.n ∨ x.mates = [] then c
    else (c.forL x.mates fun k c => (c.dropContextRings k).updSlot k SlotSt.emptied).blkNorm (key / 40)

/-- A write of CNV_RBG or CNV_CBG (R343, R356). -/
def Chip.gainWrite (c : Chip) (i : Nat) (v : Word) : Chip :=
  let c := c.setReg (gainReg i) (v &&& 0x0FFFFFFF)
  { c with cnv := { c.cnv with gainPend := if i ∈ c.cnv.gainPend then c.cnv.gainPend else c.cnv.gainPend ++ [i] } }

/-! ### Meanings -/

/-- BUS_GAIN_WRITE (R343). -/
def execBusGainWrite (i : Fin 96) (v : Word) : State → Host.Outcome State Fault Refusal := act fun c => c.gainWrite i v

/-- GLAZE_END (R106). -/
def execGlazeEnd (r : Fin 4) (b : Fin 24) (s : Fin 18) : State → Host.Outcome State Fault Refusal :=
  act fun c => c.glazeEnd r b s

/-- TAIL_END (R314). -/
def execTailEnd (r : Fin 4) (b : Fin 24) (s : Fin 16) : State → Host.Outcome State Fault Refusal :=
  act fun c => c.tailEnd r b s

/-- BUDGET_RAMP_END (R91). -/
def execBudgetRampEnd (r : Fin 4) (b : Fin 24) (s : Fin 16) : State → Host.Outcome State Fault Refusal :=
  act fun c => c.budgetRampEnd r b s

end Sys2Proof.Machine
end

