-- ==== Sys2Proof/Machine/Sample.lean ====
section
/-! DEFINITION. The sample boundary (R30): the canvas closes, voices end, pages swap, selected entries take effect, part LFOs
advance, and every region supervisor scans its ready list (R95, R99 to R101, R104, R117, R118, R240, R245, R314, R315, R321 to
R323, R342, R347). -/

namespace Sys2Proof.Machine

/-! ### Voices that end -/

/-- The voices whose END generators are all complete end (R240); a glaze in place or a ramp of R91 is left to its own end. -/
def Chip.endVoices (c : Chip) : Chip :=
  c.forL c.voicesIn fun p c =>
    let x := c.slot p.1
    match (c.blk (p.1 / 40)).content with
    | some t =>
      if (p.2.st = .gated ∨ p.2.st = .release) ∧ x.first ≤ c.clk.smp ∧ x.ramp.isNone = true ∧ x.glaze.isNone = true
          ∧ endComplete t.contour x.gens = true then
        (c.tell p.1).retire p.1
      else c
    | none => c

/-! ### Pages -/

/-- Every front copy takes its back copy (R95); the pages of the sample before stay for its late passes (R96). A glaze keeps its
frozen page (R102). DEDUCED (assumption 34). -/
def Chip.swapPages (c : Chip) : Chip :=
  { c with
      slots := c.slots.map fun p =>
        if 16 ≤ p.1 % 40 then (if 18 ≤ p.1 % 40 then (p.1, { p.2 with prev := p.2.front }) else p)
        else (p.1, { p.2 with prev := p.2.front, front := p.2.back })
      parts := c.parts.map fun p => (p.1, { p.2 with prev := p.2.front, front := p.2.back }) }

/-- The palette unit makes the writes of the events served in the sample before (R265, R277). -/
def Chip.applyPalette (c : Chip) : Chip :=
  let c := c.forL c.ez.palQ fun w c =>
    let i := 64 * w.page + w.word
    c.paramWrite i ((c.paramRead i &&& ~~~w.mask) ||| (w.value &&& w.mask))
  c.updEz fun z => { z with palQ := [] }

/-! ### Part LFOs -/

/-- The part LFOs compute the value of the sample that begins (R245); `noted` are the parts of note-ons dispatched for it. -/
def Chip.partLfos (c : Chip) (noted : List Nat) : Chip :=
  { c with parts := c.parts.map fun p =>
      if p.2.exists_ = false then p
      else
        let step (t : Tab PartLfo) (q : Nat) : Tab PartLfo :=
          let l : PartLfo := tabGet t {} q
          let mode := tabGet p.2.front 0 (56 + q)
          let n := partLfoStep c.ctr (500000 + 16 * (4 * p.1 + q)) c.fs c.tempo.len mode
            (tabGet p.2.front 0 (fieldOf mode 16 6)) (decide (p.1 ∈ noted)) l
          tabSet t {} q { n with last := l.val }
        (p.1, { p.2 with lfos := (List.range 4).foldl step p.2.lfos }) }

/-! ### Dispatch: effects -/

/-- Free glaze contexts of a block, ascending. -/
def Chip.freeGlaze (c : Chip) (k : Nat) : List Nat :=
  [40 * k + 16, 40 * k + 17].filter fun g => !(c.slot g).occupied

/-- Give a slot a held tail (R314). -/
def Chip.addTail (c : Chip) (key : Nat) (f : Tail) : Chip :=
  { c with tails := tabSet c.tails [] key (tabGet c.tails [] key ++ [f]) }

/-- Held tails for members of a voice that a dispatch for sample n has just replaced. -/
def Chip.tailMembers (c : Chip) (ms : List Nat) (route : Nat → Route) (n ng : Nat) : Chip :=
  c.forL ms fun k c => c.addTail k { start := n, ng := ng, route := route k }

/-- The glaze time of the voice at a base slot (R302), which is 5 ms once its part is destroyed (R303). -/
def Chip.glzOf (c : Chip) (base : Nat) : Nat :=
  match (c.slot base).voice with
  | some v => v.glz
  | none => 50

/-- A glaze steal takes effect in sample n (R104, R105): members 0 and 1 move to glaze slots with their frozen pages, and
members 2 and 3 leave held tails. DEDUCED (assumption 26). -/
def Chip.stealGlaze (c : Chip) (base n : Nat) : Chip :=
  let ms := (c.slot base).mates
  let units := c.glzOf base
  let c := (c.latch ms).advanceGen ms
  let g := c.freeGlaze (base / 40)
  let g0 := g.headD 0
  let x := c.slot base
  let routes := fun k => (c.slot k).route
  let pt := c.part x.part
  let ng := c.glazeLen units
  let d := c.moveVoice base fun i k => if i < 2 then (g0 + i, .glaze i (decide (2 ≤ ms.length))) else (k + 18, .member g0 i)
  let d := d.forN (min 2 ms.length) fun i d => d.updSlot (g0 + i) fun y =>
    { y with glaze := some { start := n, n := ng }, front := y.prev, partPage := pt.front
             partLfo := (List.range 4).foldl (fun t q => tabSet t 0 q (tabGet pt.lfos {} q : PartLfo).val) [] }
  d.tailMembers (ms.drop 2) routes n ng

/-- A tail steal takes effect in sample n (R314). DEDUCED (assumption 37). -/
def Chip.stealTail (c : Chip) (base n : Nat) : Chip :=
  let ms := (c.slot base).mates
  let c := (c.latch ms).advanceGen ms
  let routes := fun k => (c.slot k).route
  (c.retire base).tailMembers ms routes n (c.glazeLen (c.glzOf base))

/-- A voice that has begun a glaze in place by the dispatch of a steal that named it leaves held tails; its end is not repeated
(R315). DEDUCED (assumption 37). -/
def Chip.glazeToTails (c : Chip) (base n : Nat) : Chip :=
  let ms := (c.slot base).mates
  let routes := fun k => (c.slot k).route
  (c.retire base).tailMembers ms routes n (c.glazeLen (c.glzOf base))

/-- The ramp of R91 of a voice whose slots a new voice takes runs on as held tails. DEDUCED (assumption 37). -/
def Chip.rampToTails (c : Chip) (base : Nat) : Chip :=
  let x := c.slot base
  let fs := x.mates.map fun k => (k, (c.slot k).held)
  let ready := match x.held with
    | some f => f.ready
    | none => true
  let c := if ready then c.forL x.mates fun k c => (c.dropContextRings k).updSlot k SlotSt.emptied else c.retire base
  c.forL fs fun p c => match p.2 with
    | some f => c.addTail p.1 f
    | none => c

/-- A glaze reservation is used or released (R104, R315). -/
def Chip.releaseGlaze (c : Chip) (k link : Nat) : Chip :=
  c.updBlk k fun b => { b with glzRes := b.glzRes - glazeNeed link }

/-- The voice of a note-on entry starts in sample n (R101, R104, R305, R307, R315); in a block that drains its glaze begins with it.
DESIGN CHOICE (assumption 119). -/
def Chip.startVoice (c : Chip) (e : Entry) (n : Nat) : Chip :=
  let base := slotKey e.region e.block e.slot
  let k := base / 40
  match (c.slot base).pend, (c.blk k).content with
  | some v, some t =>
    let x := c.slot base
    let victim : Bool := match x.voice with
      | some w => decide (w.gen = e.gen) && x.ramp.isNone && x.glaze.isNone
      | none => false
    let c := if e.kind = 1 then c.releaseGlaze k v.link else c
    let c := if x.ramp.isSome then c.rampToTails base
      else if e.kind = 0 then c
      else if x.glaze.isSome then c.glazeToTails base n
      else if victim = false then c
      else if e.kind = 1 ∧ glazeNeed v.link ≤ (c.freeGlaze k).length then c.stealGlaze base n
      else c.stealTail base n
    let keys := (List.range v.link).map fun i => base + i
    let c := c.forN v.link fun i c => c.updSlot (base + i) fun y =>
      ({ gen := y.gen, back := y.back, front := y.front, prev := y.prev, part := e.part, role := .member base i, first := n
         gate := decide (i = 0), memberIdx := i, mates := if i = 0 then keys else [] } : SlotSt).initParts t
    let c := c.updSlot base fun y =>
      { y with voice := some { v with st := .gated, gen := y.gen, startTb := c.tbLow, startSmp := n } }
    let c := (c.updBlk k fun b => { b with lastDisp := n, st := .running, clkGated := false, gateCnt := 0 })
    if (c.blk k).draining then c.glazeInPlace base n v.glz else c
  | _, _ => c

/-- Does an entry's target still hold the generation it names? -/
def Chip.onTarget (c : Chip) (e : Entry) : Bool :=
  match (c.slot (slotKey e.region e.block e.slot)).voice with
  | some v => decide (v.gen = e.gen) && (c.slot (slotKey e.region e.block e.slot)).current
  | none => false

/-- The effect of a selected entry in sample n (R101, R104, R107). -/
def Chip.takeEntry (c : Chip) (n : Nat) (e : Entry) : Chip :=
  let base := slotKey e.region e.block e.slot
  if e.kind ≤ 2 then c.startVoice e n
  else if c.onTarget e = false then c
  else if e.kind = 3 then c.updSlot base fun x =>
    { x with gate := false, voice := x.voice.map fun v => if v.st = .gated then { v with st := .release } else v }
  else if e.kind = 6 then c.glazeInPlace base n e.aux.toNat
  else c

/-- Every entry that the scan of the sample before selected takes effect in sample n, in the order of the lists. -/
def Chip.takeSelected (c : Chip) (n : Nat) : Chip :=
  let l := sortBy (fun e => e.arrival) ((List.range 4).flatMap fun r => (c.rgn r).sel)
  let c := c.forN 4 fun r c => if (c.rgn r).sel = [] then c else c.updRgn r fun x => { x with sel := [] }
  c.forL l fun e c => c.takeEntry n e

/-! ### Dispatch: the scan -/

/-- Can a block take a dispatch (R99, R112, R120, R550, R587)? -/
def Chip.blkTakes (c : Chip) (r b : Nat) : Bool :=
  let k := c.blk (blkKey r b)
  decide (k.st = .empty ∨ k.st = .running) && !k.fenced && !k.halted && !c.placeWaits r b && k.content.isSome && c.is (BLK_CTL_EN r b)

/-- Is an entry due for the sample after the one that begins (R99)? -/
def Chip.entryDue (c : Chip) (e : Entry) : Bool := !e.timed || decide (timeDiff e.ts (c.tbLow + 1) ≤ 0)

/-- Could the scan select the entry, but for the order of its part? -/
def Chip.eligible (c : Chip) (e : Entry) : Bool := c.entryDue e && c.blkTakes e.region e.block

/-- Does entry f precede entry e in their part (R321, R323)? -/
def Entry.before (f e : Entry) : Bool :=
  decide (f.part = e.part) && decide (f.part ≠ 0) &&
    (let d := (e.seq + 65536 - f.seq) % 65536
     decide (0 < d ∧ d < 32768) || (decide (d = 0) && decide (f.arrival < e.arrival)))

/-- The entries a scan selects, in order (R99, R323): eligible ones that no earlier entry of their part holds back, one that waits for
an evicted block among them. -/
def Chip.scanned (c : Chip) : List Entry :=
  let ready := (List.range 4).flatMap fun r => (c.rgn r).ready
  let stuck := (List.range 4).flatMap (fun r => (c.rgn r).held) ++ c.returned ++ c.ez.evicts.map (fun w => w.entry)
    ++ ready.filter fun f => !c.eligible f
  sortBy (fun e => e.arrival) (ready.filter fun e => c.eligible e && !(stuck.any fun f => f.before e))

/-- The generation a slot holds once the selected entries that advance it have been applied (R322); `e` itself aside. Of two glazes
in place of one voice the first is applied. DEDUCED (assumption 120). -/
def Chip.genAfter (c : Chip) (sel : List Entry) (e : Entry) : BitVec 5 :=
  let x := c.slot (slotKey e.region e.block e.slot)
  let adv := sel.any fun f => decide (f.region = e.region) && decide (f.block = e.block) && decide (f.slot = e.slot)
    && decide (f.gen = x.gen) && x.voice.isSome && x.current && (decide (f.kind = 1 ∨ f.kind = 2) ||
      (decide (f.kind = 6) && (decide (e.kind ≠ 6) || decide (f.arrival < e.arrival))))
  if adv then genNext x.gen else x.gen

/-- An entry of kind 3–6 passes its check (R322). -/
def Chip.entryOk (c : Chip) (sel : List Entry) (e : Entry) : Bool :=
  decide (e.kind ≤ 2) || decide (c.genAfter sel e = e.gen)

/-- The writes of a selected entry, all made within the sample that begins (R99, R101, R308). -/
def Chip.entryWrites (c : Chip) (e : Entry) : Chip :=
  let base := slotKey e.region e.block e.slot
  let put (w : Nat) (v : Word) (c : Chip) : Chip := c.updSlot base fun x => { x with back := tabSet x.back 0 w v }
  match e.kind with
  | 3 => put 2 (BitVec.ofNat 32 (e.aux.toNat * 128)) c
  | 4 | 5 => put e.word e.value c
  | 6 => c
  | _ =>
    match (c.slot base).pend, (c.blk (base / 40)).content with
    | some v, some t =>
      let c := c.forN v.link fun i c => c.updSlot (base + i) fun x => { x with back := pageOf t.tmpl.page }
      put 1 (BitVec.ofNat 32 (e.aux.toNat * 128)) (put 0 e.value c)
    | _, _ => c

/-- Events that are dispatched late count once each (R282): their entries that still wait do not count again. -/
def Chip.markLate (c : Chip) (late : List Nat) : Chip :=
  let mark (l : List Entry) : List Entry := l.map fun e => if late.contains e.event then { e with late := true } else e
  if late = [] then c
  else
    let c := c.forL late fun _ c => c.countLate
    let c := c.forN 4 fun r c => c.updRgn r fun x => { x with ready := mark x.ready, held := mark x.held }
    let c := c.updEz fun z => { z with evicts := z.evicts.map fun w => { w with entry := (mark [w.entry]).headD w.entry } }
    { c with returned := mark c.returned }

/-- The scan at cycle 0 of the sample that begins (R99, R282, R322): a block whose entry it selects is ungated (R117). -/
def Chip.scan (c : Chip) : Chip :=
  let sel := c.scanned
  if sel = [] then c
  else
    let c := c.forN 4 fun r c =>
      let mine := sel.filter fun e => decide (e.region = r)
      if mine = [] then c
      else (c.updRgn r fun x =>
        { x with ready := x.ready.filter fun e => !(mine.any fun f => decide (f.arrival = e.arrival))
                 sel := mine.filter fun e => c.entryOk sel e }).readyStat r
    let c := c.updEz fun z =>
      { z with chosen := z.chosen ++ (sel.filter fun e => decide (e.tag ≠ 0)).map fun e => (e.part, e.tag) }
    let late := ((sel.filter fun e => c.entryOk sel e && e.timed && !e.late && decide (timeDiff e.ts (c.tbLow + 1) < 0)).map
      fun e => e.event).eraseDups
    let c := c.markLate late
    c.forL sel fun e c =>
      let c := c.updBlk (blkKey e.region e.block) fun b => { b with clkGated := false }
      if c.entryOk sel e then c.entryWrites e else if e.kind = 5 then c.bump EZ_CNT2_STALE else c

/-! ### Gating -/

/-- Blocks count the boundaries at which they are empty, and are clock-gated (R117, R118); a block that loads or wakes counts none.
DESIGN CHOICE (assumption 118). -/
def Chip.countEmpty (c : Chip) : Chip :=
  c.forN 96 fun k c =>
    let c := c.blkNorm k
    let b := c.blk k
    match b.st with
    | .empty => c.updBlk k fun b => { b with gateCnt := b.gateCnt + 1, clkGated := true }
    | .running => if b.gateCnt = 0 ∧ b.clkGated = false then c else c.updBlk k fun b => { b with gateCnt := 0, clkGated := false }
    | _ => c

/-! ### Stop and restart -/

/-- X and Y memory keep their words while a new engine mode divides them into other partitions (R165, R175). -/
def Chip.repartition (c : Chip) (old : Nat) : Chip :=
  let new := c.partition
  if old = new then c
  else
    let was (k : Nat) (f : SlotSt → Tab Q) (i : Nat) : Q := tabGet (f (c.slot (40 * k + i / old))) 0 (i % old)
    c.forN 96 fun k d => d.forN 16 fun s d => d.updSlot (40 * k + s) fun x =>
      let part (f : SlotSt → Tab Q) : Tab Q :=
        if 1024 ≤ s * new then [] else (List.range new).foldl (fun t i => tabSet t 0 i (was k f (s * new + i))) []
      { x with x0 := part (·.x0), y0 := part (·.y0), x1 := part (·.x1), y1 := part (·.y1) }

/-- The engine restarts in the mode that EMODE holds (R29), with the fades of its stop cleared (R350). -/
def Chip.restartEngine (c : Chip) : Chip :=
  if c.clk.restart = false ∨ c.stopped = false then c
  else
    let old := c.partition
    let was := c.mode
    let c := ((c.clr CLK_STAT_STOPPED).setFld CLK_STAT_EMODE_ACT (c.fld CLK_CFG_EMODE)).repartition old
    let c := if c.mode = was then c else c.saRerate
    let c := c.updClk fun k => { k with restart := false, started := true }
    let c : Chip := { c with pwr := { c.pwr with waitStart := false } }
    let c := c.forN 16 fun k c => c.aoApply k
    c.forL (c.cnv.fades.filterMap fun p => match p.2 with
      | some f => if f.heldKind || f.disable then none else some p.1
      | none => none) fun k c => c.clearFade k

/-! ### Block failure at the boundary (R559) -/

/-- Blocks whose held fade begins fail: the canvas holds their last contributions, and everything in them ends (R559). -/
def Chip.failBlocks (c : Chip) (n : Nat) : Chip :=
  c.forL (c.cnv.fades.filterMap fun p => match p.2 with
      | some f => if f.heldKind && decide (f.start = n) && decide ((c.blk p.1).st ≠ .failed) then some p.1 else none
      | none => none) fun k c =>
    let last := match (tabGet c.cnv.fades none k : Option BlockFade) with
      | some f => liveScale f.was (n - 1) (c.blockContrib k (n - 1) true)
      | none => []
    let c : Chip := { c with cnv := { c.cnv with lastContrib := tabSet c.cnv.lastContrib [] k last } }
    let c := c.forL (c.blkVoices k) fun v c =>
      if v.2.st = .gated ∨ v.2.st = .release then c.tell v.1 else c
    let c := c.forN 18 fun s c => ((c.dropContextRings (40 * k + s)).updSlot (40 * k + s) SlotSt.emptied)
    let c : Chip := { c with tails := tabClear c.tails (40 * k) 16 }
    let c := c.updBlk k fun b => { b with
      st := .failed, content := none, bus := false, draining := false, cache := [], refills := [], cells := [], glzRes := 0 }
    ((c.dropAffinity (k / 24) (k % 24)).returnEntries (k / 24) (k % 24)).raise (rgnSource (k / 24) 0)

/-! ### The boundary -/

/-- TB and the model's own sample count advance, or TB takes its load (R30, R32). -/
def Chip.tick (c : Chip) : Chip :=
  c.updClk fun k => { k with
    smp := k.smp + 1
    tb := if k.loadPend then c.reg CLK_TBLD_H ++ c.reg CLK_TBLD_L else k.tb + 1
    loadPend := false }

/-- Everything the sample that ends leaves behind: the canvas closes its sample before last and forms its sinks' values. -/
def Chip.closeSample (c : Chip) : Chip :=
  let n := c.clk.smp - 1
  let c := c.cnvShadow.startRamps
  let c := (c.forN 4 fun r c => c.closeRegion r n).chipCanvas
  let c := c.forN 16 fun k c => c.aoSample k (c.sinkValue (CNV_AOMAP (k / 4)) (k % 4))
  ((c.saSample.loudness n).fillTails n).dropLate

/-- The boundary that begins the next engine sample (R30). -/
def Chip.boundary (c : Chip) : Chip :=
  let c := c.closeSample.stepPhase
  let c := (c.failBlocks (c.clk.smp + 1)).showFades (c.clk.smp + 1)
  let c := (c.endVoices.tick.smpTimers.restartEngine.swapPages).applyPalette
  let n := c.clk.smp
  let noted := ((List.range 4).flatMap fun r => (c.rgn r).sel).filterMap fun e => if e.kind ≤ 2 then some e.part else none
  let c : Chip := { (c.partLfos noted) with cvNow := c.cvNew, cvNew := [] }
  let c := ((c.takeSelected n).allBusInputs).countEmpty
  if c.engineHeld then c else c.scan

/-- SAMPLE_BOUNDARY (R30); in Hold TB alone counts (R605). -/
def execSampleBoundary (s : State) : Host.Outcome State Fault Refusal :=
  if s.chip.clocked then actFree (fun c => c.boundary) s else actIf Chip.alive (fun c => c.tick) s

end Sys2Proof.Machine
end

