-- ==== Sys2Proof/Machine/Clock.lean ====
section
/-! DEFINITION. Clocks, the timebase and the engine's stop and restart (chapter "Clocks, sample rates and the timebase", R26 to
R32, R36, R37). -/

namespace Sys2Proof.Machine

/-- A read of CLK_TBL (R31). -/
def Chip.tblRead (c : Chip) (dma : Bool) : Word × Chip :=
  let hi : Word := c.clk.tb.extractLsb' 32 32
  (c.tbLow, c.updClk fun k => if dma then { k with dmaTb := hi } else { k with hostTb := hi })

/-- A write of CLK_CTL.TBLOAD = 1 (R32). -/
def Chip.tbload (c : Chip) : Chip := c.updClk fun k => { k with loadPend := true }

/-- Writing ESTOP = 1 (R29): dispatch stops, the easel holds, and every block that holds a template fades.
DEDUCED (assumption 74). -/
def Chip.estopSet (c : Chip) : Chip :=
  let c := (c.set1 CLK_CFG_ESTOP).updClk fun k => { k with restart := false }
  if c.stopped || c.clk.stopAt.isSome then c
  else
    let c := c.forN 96 fun k c => if (c.blk k).content.isSome then c.liveFade k false else c
    c.updClk fun k => { k with stopAt := some (k.smp + 1) }

/-- Writing ESTOP = 0 (R29): dispatch restarts at the next boundary, once the engine has stopped. DEDUCED (assumption 35). -/
def Chip.estopClear (c : Chip) : Chip :=
  let c := c.clr CLK_CFG_ESTOP
  if c.stopped then c.updClk fun k => { k with restart := true } else c

/-- A block is emptied of its template as the engine stops (R29). -/
def Chip.emptyBlock (c : Chip) (k : Nat) : Chip :=
  let c := c.forN 18 fun s c => (c.dropContextRings (40 * k + s)).updSlot (40 * k + s) fun x => { x.emptied with pend := none }
  let c : Chip := { c with tails := tabClear c.tails (40 * k) 16 }
  let c := c.updBlk k fun b => { b with
    st := if b.st = .running then .empty else b.st, content := none, bus := false, evicting := false, cells := []
    cache := [], refills := [], glzRes := 0 }
  c.dropAffinity (k / 24) (k % 24)

/-- Every event that the easel holds in its queues is discarded with reason 0x03 (R543, R585): the splitter and the frame check run
first, so that each event counts once and a frame that is no event keeps its own reason. DEDUCED (assumption 65). -/
def Chip.dropIngress (c : Chip) : Chip :=
  let all (c : Chip) : List (Nat × LaneEntry) := [0, 1, 2].flatMap fun l => (c.ez.lane l).map fun e => (l, e)
  let c := c.forL (sortBy (fun x => x.2.stamp) ((all c).filter fun x => x.2.ump && !x.2.split)) fun x c => c.split x.1 x.2
  let c := c.forL (all c) fun x c =>
    if x.2.ump then c.forL x.2.evs fun e c => c.discard e.src 3
    else match c.frameReject x.1 x.2.words with
      | some why => c.discard (0x10 + x.1) why
      | none => if fieldOf (x.2.words.getD 0 0) 28 4 = 0 then c else c.discard (0x10 + x.1) 3
  let c := c.forL c.ez.msgs fun e c => c.discard e.src 3
  let c := c.forL c.ez.dets fun d c => c.forL d.evs fun e c => c.discard e.src 3
  c.updEz fun z => { z with laneA := [], laneB := [], laneC := [], msgs := [], dets := [] }

/-- What a run-time load or a debug unlock does once the engine has stopped (R543, R585): the events that the easel holds, stores or
has had back are discarded with reason 0x03, every part is destroyed, and the primer is unloaded: no template stays resident
(R80). DEDUCED (assumption 65). -/
def Chip.unloadPrimer (c : Chip) : Chip :=
  let c := c.dropIngress
  let c := c.forN 63 fun i c => if (c.part (i + 1)).exists_ then c.partDestroy (i + 1) else c
  let (waits, c) := c.pullEvicts fun _ => true
  let c := c.forL c.ez.store fun e c => c.discard e.src 3
  let c := c.forL (c.returned ++ waits) fun e c => c.discard e.src 3
  let c := (c.updEz fun z => { z with store := [] }).storeStat
  let c := c.forN 96 fun k c => if (c.blk k).content.isSome then c.emptyBlock k else c
  { c with returned := [], pal := {} }

/-- The stop's fade has ended (R29): STOPPED, every handle stale and the generation of every slot that holds a voice advanced
(R304), a voice that fades there among them; every block emptied of its template. Entries that waited for a block go back to
the allocator. A template load under way completes after STOPPED and leaves its block holding the template, and requests not yet
begun stay on the load path and may run then. DEDUCED (assumption 35). DESIGN CHOICE (assumption 111). -/
def Chip.stopEnd (c : Chip) : Chip :=
  match c.clk.stopAt with
  | none => c
  | some t =>
    if c.clk.smp < t + 64 then c
    else
      let c := (c.set1 CLK_STAT_STOPPED).updClk fun k => { k with stopAt := none, restart := !c.is CLK_CFG_ESTOP }
      let c := c.forL c.voicesIn fun v c => c.tell v.1
      let c := c.forN 96 fun k c => c.returnEntries (k / 24) (k % 24)
      let c := c.forN 96 fun k c => if (c.blk k).content.isSome then c.emptyBlock k else c
      let c : Chip := { c with late := [] }
      if c.boot.loading.isSome || c.saf.unlocking then c.unloadPrimer else c

/-- A write of CLK_CFG.EMODE (R28). -/
def Chip.emodeWrite (c : Chip) (mode : Nat) : Chip :=
  if c.stopped && decide (mode < 3) then c.setFld CLK_CFG_EMODE mode else c.set1 CLK_STAT_MODE_REJ

/-- A PLL loses lock (R26): 0 EPLL, 1 XPLL, 2 APLL. The EPLL's loss while the engine runs records 0x40 (R548). -/
def Chip.lockLoss (c : Chip) (pll : Nat) : Chip :=
  match pll with
  | 0 =>
    let d := (c.clr CLK_STAT_EPLL_LOCK).raise 4
    if c.stopped then d else d.chipFault 0x40 none
  | 1 => (c.clr CLK_STAT_XPLL_LOCK).raise 5
  | _ => (c.clr CLK_STAT_APLL_LOCK).raise 6

/-- FSLOCK falls (R37): the EPLL holds its correction. The run of good group edges breaks, also at a timeout while FSLOCK = 0.
DEDUCED (assumption 39). -/
def Chip.fsFall (c : Chip) : Chip :=
  if c.is CLK_STAT_FSLOCK then ((c.clr CLK_STAT_FSLOCK).raise 7).updClk fun k => { k with fsHold := true, good := 0 }
  else c.updClk fun k => { k with good := 0 }

/-- The pull in units of 10⁻⁹ that a group edge asks of the EPLL, which the loop of bandwidth BW (0b11 acts as 0b10) finds from its
count of SAMPLES periods (R36, R42): the spec gives no arithmetic for it. DESIGN CHOICE (assumption 20). -/
def Chip.fsPull (c : Chip) : Int :=
  Config.freeInt c.ctr (732000 + min 2 (c.fld CLK_FSYNC_BW) + 4 * c.fld CLK_FSRATIO_SAMPLES * 1000000)

/-- A group edge of the frame sync (R36 to R38): the error in cycles is a signed 16-bit number. The EPLL is steered within
±1,000 ppm, and a sync that needs more does not lock. While EN = 0 nothing changes: FSLOCK, the good edges and the correction stay as
they are. DESIGN CHOICE (assumption 20). DEDUCED (assumption 39). DESIGN CHOICE (assumption 110). -/
def Chip.fsEdge (c : Chip) (err : Word) : Chip :=
  if c.is CLK_FSYNC_EN = false ∨ c.clk.fsDue = false then c
  else
    let e : BitVec 16 := err.setWidth 16
    let pull := c.fsPull
    let locked := c.is CLK_STAT_FSLOCK
    let c := ((c.setFld CLK_FSERR_ERR e.toNat).setReg CLK_FSCAP c.tbLow).updClk fun k =>
      { k with fsHold := false, fsDue := false }
    let a := e.toInt.natAbs
    if 256 < a ∧ locked then c.fsFall
    else
      let c := c.updClk fun k => { k with fsCorr := clampInt (-1000000) 1000000 pull }
      if 64 < a ∨ 1000000 < pull.natAbs then c.updClk fun k => { k with good := 0 }
      else
        let c := c.updClk fun k => { k with good := min 8 (k.good + 1) }
        if c.clk.good = 8 then c.set1 CLK_STAT_FSLOCK else c

/-- No frame edge within two expected periods (R37). DESIGN CHOICE (assumption 110). DEDUCED (assumption 39). -/
def Chip.fsTimeout (c : Chip) : Chip := if c.is CLK_FSYNC_EN then c.fsFall else c

/-! ### Meanings -/

/-- TBLOAD (R32). -/
def execTbload : State → Host.Outcome State Fault Refusal := act fun c => c.tbload

/-- TB_LOAD_APPLY (R32): the boundary at which a requested load takes effect; with none requested there is nothing to
apply. DEDUCED (assumption 36). -/
def execTbLoadApply : State → Host.Outcome State Fault Refusal :=
  actFree fun c => if c.clk.loadPend then c.boundary else c

/-- TBL_READ (R31). -/
def execTblRead (dma : Bool) : State → Host.Outcome State Fault Refusal :=
  act fun c => let (v, c) := c.tblRead dma; if dma then c else c.hostGets v false

/-- ESTOP_SET (R29). -/
def execEstopSet : State → Host.Outcome State Fault Refusal := act fun c => c.estopSet

/-- ENGINE_STOP_FADE_END (R29). -/
def execEngineStopFadeEnd : State → Host.Outcome State Fault Refusal := act fun c => c.stopEnd

/-- ESTOP_CLEAR (R29). -/
def execEstopClear : State → Host.Outcome State Fault Refusal := act fun c => c.estopClear

/-- EMODE_WRITE (R28). -/
def execEmodeWrite (mode : BitVec 2) : State → Host.Outcome State Fault Refusal := act fun c => c.emodeWrite mode.toNat

/-- PLL_LOCK_LOSS (R26). -/
def execPllLockLoss (pll : Fin 3) : State → Host.Outcome State Fault Refusal := act fun c => c.lockLoss pll

/-- FSYNC_GROUP_EDGE (R36). -/
def execFsyncGroupEdge (err : Word) : State → Host.Outcome State Fault Refusal := actFree fun c => c.fsEdge err

/-- FSYNC_TIMEOUT (R37). -/
def execFsyncTimeout : State → Host.Outcome State Fault Refusal := act fun c => c.fsTimeout

end Sys2Proof.Machine
end

