-- ==== Sys2Proof/Machine/Stream.lean ====
section
/-! DEFINITION. The stream engine's refills (chapter "Bank memory, xSPI and sample streaming", R456, R460, R461). -/

namespace Sys2Proof.Machine

/-- The stream frame that frame q of playing order is (R460): the loop's jumps follow LOOP_END. -/
def StreamRec.frameOf (z : StreamRec) (start q : Nat) : Nat :=
  let f := start + q
  if z.loopEnd = 0xFFFFFFFF ∨ f ≤ z.loopEnd then f
  else z.loopStart + (f - z.loopStart) % (z.loopEnd + 1 - z.loopStart)

/-- A sample of a stream in flash as Q1.23 (R62, R460); past FRAMES of a stream with no loop, 0. -/
def NonVol.streamSample (n : NonVol) (z : StreamRec) (f ch : Nat) : Q :=
  if z.loopEnd = 0xFFFFFFFF ∧ z.frames ≤ f then 0
  else
    let bytes := if z.format = 0 then 2 else 3
    let w := bytesWord (n.flashBytes z.port (z.offset + (f * z.channels + ch) * bytes) bytes)
    if z.format = 0 then (w.setWidth 24) <<< 8 else w.setWidth 24

/-- The 256 words of playing order from word `at_` on (R460). -/
def NonVol.chunk (n : NonVol) (z : StreamRec) (start at_ : Nat) : List Word :=
  (List.range 256).map fun i =>
    let w := at_ + i
    (n.streamSample z (z.frameOf start (w / z.channels)) (w % z.channels)).signExtend 32

/-- The operator that reads a ring. -/
def Chip.ringOp (c : Chip) (r n : Nat) : Option PhOp :=
  c.slots.findSome? fun p =>
    if keyRegion p.1 = r then (p.2.ops.find? fun o => decide (o.2.ring = some n)).map fun o => o.2 else none

/-- The ring words before the read position of a ring (R461). -/
def Chip.ringPos (c : Chip) (r n : Nat) (z : StreamRec) : Nat :=
  match c.ringOp r n with
  | some o => o.word (decide (z.channels = 2))
  | none => 0

/-- Time to underrun of a wanted chunk, in samples × 2²⁴ (R461): the words ahead at the operator's speed; an operator that has not
begun counts as at speed 1. -/
def Chip.ringTime (c : Chip) (r n : Nat) (z : StreamRec) (chunk : Nat) : Nat :=
  let ahead := (256 * chunk - c.ringPos r n z) / z.channels
  let speed := match c.ringOp r n with
    | some o => o.speed
    | none => 2 ^ 24
  if speed = 0 then 2 ^ 96 else ahead * 2 ^ 48 / speed

/-- The open rings whose stream a port serves: region, ring number, ring, stream. -/
def Chip.portRings (c : Chip) (x : Nat) : List (Nat × Nat × Ring × StreamRec) :=
  (List.range 4).flatMap fun r => (c.rm r).rings.filterMap fun p =>
    match p.2 with
    | some g => match c.pal.streams.find? fun z => decide (z.id = g.stream) with
      | some z => if z.port = x then some (r, p.1, g, z) else none
      | none => none
    | none => none

/-- The head fetch that a port serves next (R456). DEDUCED (assumption 38). -/
def Chip.nextHead (c : Chip) (x : Nat) : Option (Nat × Nat × Nat) :=
  (c.portRings x).findSome? fun (r, n, _, _) => ((c.rm r).heads.find? fun h => decide (h.1 = n)).map fun h => (r, n, h.2)

/-- The refill that a port serves next (R461): the least time to underrun, ties to the lower region, then the lower ring.
DEDUCED (assumption 38). -/
def Chip.nextRefill (c : Chip) (x : Nat) : Option (Nat × Nat × Nat) :=
  let l := (c.portRings x).filterMap fun (r, n, g, z) =>
    match firstMin (fun (k : Nat) => (k : Int)) g.want with
    | some k => some (r, n, k, c.ringTime r n z k)
    | none => none
  (firstMin (fun t => (t.2.2.2 : Int)) l).map fun (r, n, k, _) => (r, n, k)

/-- The first word of playing order that serving a wanted chunk writes (R461): the chunk's, or, where its frames all lie behind the
read position, the one at the read position. DEDUCED (assumption 38). -/
def refillFrom (pos chunk : Nat) : Nat := if 256 * chunk + 256 ≤ pos then pos else 256 * chunk

/-- Where 256 words of playing order stand in a ring of a region (R460): the address of each. -/
def ringAddrs (r n at_ : Nat) : List Nat := (List.range 256).map fun i => contentAddr r (0xC0000 + 1024 * n + (at_ + i) % 1024)

/-- A wanted chunk of a ring is served (R460, R461). Words of port B that met the writing land after it (R441).
DEDUCED (assumption 38). -/
def State.fillRing (s : State) (r n chunk : Nat) : State :=
  match tabGet (s.chip.rm r).rings none n with
  | none => s
  | some g =>
    match s.chip.pal.streams.find? fun z => decide (z.id = g.stream) with
    | none => s
    | some z =>
      let at_ := refillFrom (s.chip.ringPos r n z) chunk
      let as_ := ringAddrs r n at_
      let after := g.late.filter fun p => decide (p.1 ∈ as_)
      let ws := as_.zip (s.nv.chunk z g.start at_) ++ after
      let quarter := fun (p : Nat × Word) => (p.1 - contentAddr r (0xC0000 + 1024 * n)) / 1024
      let g := { g.filled at_ with
        late := g.late.filter fun p => decide (p.1 ∉ as_ ∧ quarter p ≠ chunk % 4), want := g.want.filter fun k => decide (k ≠ chunk) }
      let c := s.chip.updRm r fun m =>
        { m with rings := tabSet m.rings none n (some g), heads := m.heads.filter fun h => decide (h ≠ (n, chunk)) }
      { s with chip := ws.foldl (fun c p => c.stepMirror p.1 p.2) c, mem := s.mem.wrAll ws }

/-- A port serves a head fetch or, with none waiting, a refill (R456, R461); a program or an erase holds it (R458).
DEDUCED (assumption 112). -/
def State.streamRefill (s : State) (x : Nat) : State :=
  if s.chip.is (XS_STAT_FBUSY x) || s.chip.is (XS_STAT_NODEV x) then s
  else
    let s' : State := { s with chip := s.chip.xsServed x }
    match s.chip.nextHead x with
    | some (r, n, k) => s'.fillRing r n k
    | none => match s.chip.nextRefill x with
      | some (r, n, k) => s'.fillRing r n k
      | none => s

/-- STREAM_REFILL (R461). -/
def execStreamRefill (x : Fin 2) : State → Host.Outcome State Fault Refusal := actAll fun s => s.streamRefill x

end Sys2Proof.Machine
end

