-- ==== Sys2Proof/Machine/Dma.lean ====
section
/-! DEFINITION. Starting, stopping and choosing the channels of the DMA engine (chapter "DMA engine", R467, R470 to R475, R479,
R480). The moving of a burst stands with the bus that it uses. -/

namespace Sys2Proof.Machine

/-- A DMA channel. -/
def Chip.dmaOf (c : Chip) (n : Nat) : DmaChan := tabGet c.dma {} n

/-- Store a DMA channel. -/
def Chip.setDma (c : Chip) (n : Nat) (x : DmaChan) : Chip := { c with dma := tabSet c.dma {} n x }

/-- Is a channel active? -/
def Chip.dmaActive (c : Chip) (n : Nat) : Bool := decide (c.fld (DMAn_STAT_STATE n) = 1)

/-- The addresses of a side (R472): a first byte and a length, one word where its INC bit is 0. -/
def dmaRange (addr inc cnt : Nat) : Nat × Nat := if inc = 1 then (addr, 4 * cnt) else (addr, 4)

/-- Do two ranges overlap? -/
def rangesMeet (a b : Nat × Nat) : Bool := decide (a.1 < b.1 + b.2 ∧ b.1 < a.1 + a.2)

/-- The reason a start does not take, in the order of R472's table; none where it takes. DEDUCED (assumption 42). -/
def Chip.dmaRefusal (c : Chip) (n : Nat) : Option Nat :=
  let src := (c.reg (DMAn_SRC n)).toNat
  let dst := (c.reg (DMAn_DST n)).toNat
  let cnt := c.fld (DMAn_CNT_CNT n)
  let ilv := c.fld (DMAn_CFG_ILV n)
  let ways := c.fld (DMAn_CFG_WAYS n)
  let sinc := c.fld (DMAn_CFG_SINC n)
  let dinc := c.fld (DMAn_CFG_DINC n)
  let req := c.fld (DMAn_CFG_REQ n)
  let s := dmaRange src sinc cnt
  let d := dmaRange dst dinc cnt
  if (ilv = 1 ∨ ilv = 2) ∧ rangesMeet s d = true then some 1
  else if src % 4 ≠ 0 ∨ dst % 4 ≠ 0 then some 2
  else if 0x04000000 ≤ dst ∧ dst < 0x0C000000 then some 3
  else if cnt = 0 ∨ 5 ≤ c.fld (DMAn_CFG_BURST n) ∨ (19 ≤ req ∧ req ≤ 31) ∨ ilv = 3 ∨ (ilv ≠ 0 ∧ ways = 0)
      ∨ (ilv ≠ 0 ∧ cnt % (ways + 1) ≠ 0) ∨ (ilv = 1 ∧ sinc = 0) ∨ (ilv = 2 ∧ dinc = 0) then some 4
  else if ilv = 0 ∧ sinc ≠ dinc ∧ rangesMeet s d = true then some 6
  else none

/-- A channel's error is recorded: WHY, its bit of DMA_ERR and source 72 + ⌊n ÷ 2⌋ (R472, R481). -/
def Chip.dmaError (c : Chip) (n why : Nat) : Chip :=
  ((c.setFld (DMAn_STAT_WHY n) why).setReg DMA_ERR (c.reg DMA_ERR ||| (1#32 <<< n))).raise (72 + n / 2)

/-- A write of START = 1 (R467, R472): a channel that is active keeps its transfer. DEDUCED (assumption 42). -/
def Chip.dmaStart (c : Chip) (n : Nat) : Chip :=
  if c.dmaActive n then c
  else match c.dmaRefusal n with
    | some why => c.dmaError n why
    | none => (c.setFld (DMAn_STAT_STATE n) 1).setDma n { pulse := false, full := c.fld (DMAn_CNT_CNT n) }

/-- A write of STOP = 1 (R479): no further burst is taken. -/
def Chip.dmaStop (c : Chip) (n : Nat) : Chip := if c.dmaActive n then c.setFld (DMAn_STAT_STATE n) 3 else c

/-- A write of DMAn_CTL (R480): STOP acts where both bits are 1. -/
def Chip.dmaCtl (c : Chip) (n : Nat) (v : Word) : Chip :=
  if v.getLsbD 1 then c.dmaStop n else if v.getLsbD 0 then c.dmaStart n else c

/-- A queue's DMA threshold: 0 acts as 1, values above 48 as 48 (R407, R431). -/
def dmaThreshold (n : Nat) : Nat := if n = 0 then 1 else min n 48

/-- Is a burst of the channel ready (R470)? -/
def Chip.dmaReady (c : Chip) (n : Nat) : Bool :=
  let req := c.fld (DMAn_CFG_REQ n)
  if c.dmaActive n = false then false
  else if req = 0 then true
  else if req ≤ 16 then decide (dmaThreshold (c.fld (AI_CFG_DMATHR (req - 1))) ≤ (c.aiOf (req - 1)).queue.length)
  else if req ≤ 18 then decide (dmaThreshold (c.fld (SA_HCFG_DMATHR (req - 17))) ≤ (c.saOf (req - 15)).host.length)
  else if 32 ≤ req then (c.dmaOf n).pulse
  else false

/-- The channel whose burst is next (R475): the highest PRIO, and among equals the first after the channel served last. -/
def Chip.dmaNext (c : Chip) : Option Nat :=
  let order := (List.range 16).map fun i => (c.dmaLast + 1 + i) % 16
  firstMin (fun (n : Nat) => -(c.fld (DMAn_CFG_PRIO n) : Int)) (order.filter fun n => c.dmaReady n)

/-! ### Meanings -/

/-- DMA_START (R467). -/
def execDmaStart (n : Fin 16) : State → Host.Outcome State Fault Refusal := act fun c => c.dmaStart n

/-- DMA_STOP (R479). -/
def execDmaStop (n : Fin 16) : State → Host.Outcome State Fault Refusal := act fun c => c.dmaStop n

end Sys2Proof.Machine
end

