-- ==== Sys2Proof/Machine/Faults.lean ====
section
/-! DEFINITION. Block failure and spare blocks, regions out of service, the standby cell's steps, and journal writes (chapter
"Faults, spares and service life", R548 to R575, and R541). -/

namespace Sys2Proof.Machine

/-! ### The cell walk -/

/-- Store the cell walk; RST_CPOS reports it (R575). -/
def Chip.setWalk (c : Chip) (w : CellWalk) : Chip :=
  let c : Chip := { c with rep := { c.rep with walk := w } }
  let ph := match w.phase with
    | .idle => 0 | .hold => 1 | .shadow => 1 | .test => 2 | .shadowBack => 3
  (((c.setFld RST_CPOS_REGION w.region).setFld RST_CPOS_BLOCK w.block).setFld RST_CPOS_CELL w.cell).setFld RST_CPOS_PHASE ph

/-- The place after a cell (region, block, cell) in the walk (R552). -/
def walkNext (r : Fin 4) (b : Fin 24) (cell : Nat) : Fin 4 × Fin 24 × Nat :=
  if cell < 8 then (r, b, cell + 1) else if b.val < 23 then (r, b + 1, 0) else (r + 1, 0, 0)

/-- The first place of the next block in the walk. -/
def walkNextBlock (r : Fin 4) (b : Fin 24) : Fin 4 × Fin 24 × Nat := walkNext r b 8

/-- The walk idles at a place. -/
def CellWalk.idleAt (w : CellWalk) (p : Fin 4 × Fin 24 × Nat) : CellWalk :=
  { w with phase := .idle, region := p.1, block := p.2.1, cell := p.2.2, follow := 0, resumeAt := none }

/-- A step ends: the standby cell is idle again unless it stands in, and the walk goes on at a place (R553). -/
def Chip.endStep (c : Chip) (p : Fin 4 × Fin 24 × Nat) : Chip :=
  let w := c.rep.walk
  let c := (c.updBlk (blkKey w.region w.block) fun b => { b with sc := if b.sc = .standIn then .standIn else .idle }).clr
    (BLK_SCST_TEST w.region w.block)
  c.setWalk (w.idleAt p)

/-- Where the walk goes on after the step under way: after the cell it stepped, or where the walk stood when a step came
ahead of it (R552). -/
def CellWalk.after (w : CellWalk) : Fin 4 × Fin 24 × Nat :=
  match w.resumeAt with
  | some p => p
  | none => walkNext w.region w.block w.cell

/-- Where the walk goes on when it leaves the block of the step under way (R552). -/
def CellWalk.afterBlock (w : CellWalk) : Fin 4 × Fin 24 × Nat :=
  match w.resumeAt with
  | some p => p
  | none => walkNextBlock w.region w.block

/-! ### Block failure (R559) -/

/-- A block fails: the fence of R550, the held fade of R350 from the next boundary, and its entries, selected ones among
them, go back (R559). `code` is recorded with `cell` when the cause has one (R548). DEDUCED (assumption 52). -/
def Chip.blkFail (c : Chip) (r b cell : Nat) (code : Option Nat) : Chip :=
  let k := blkKey r b
  let x := c.blk k
  if x.fenced ∨ x.st = .failed then c
  else
    let c := match code with
      | some n => c.blkFault r b 0 cell n
      | none => c
    let w := c.rep.walk
    let c := if w.phase ≠ .idle ∧ w.region = r ∧ w.block = b then c.endStep w.afterBlock else c
    let was := match (tabGet c.cnv.fades none k : Option BlockFade) with
      | some f => if f.heldKind then none else some f.start
      | none => none
    let f : BlockFade := { heldKind := true, start := c.clk.smp + 1, was := was }
    let c : Chip := { c with cnv := { c.cnv with fades := tabSet c.cnv.fades none k (some f) } }
    let c := c.updBlk k fun x => { x with fenced := true, cells := x.cells.map fun m => (m.1, { m.2 with fenceReq := true }) }
    let hit (e : Entry) : Bool := decide (e.region = r) && decide (e.block = b)
    let c := c.updRgn r fun g =>
      { g with ready := g.sel.filter hit ++ g.ready, sel := g.sel.filter (fun e => !hit e)
               loads := g.loads.filter fun q => decide (q.block ≠ b) }
    c.returnEntries r b

/-- DISPATCH_REVOKE: a block has not acknowledged an entry that was selected for it (R549); no arbiter
revokes a halted block (R587). -/
def Chip.dispatchRevoke (c : Chip) (r b : Nat) : Chip :=
  if ((c.rgn r).sel.any fun e => decide (e.block = b)) && !(c.blk (blkKey r b)).halted then c.blkFail r b 15 (some 0x20) else c

/-- LOAD_PATH_REVOKE: the load or wake that runs on the region's load path exceeds its time (R549). -/
def Chip.loadPathRevoke (c : Chip) (r : Nat) : Chip :=
  match (c.rgn r).loads with
  | q :: _ => if q.running && !(c.blk (blkKey r q.block)).halted then c.blkFail r q.block 15 (some 0x20) else c
  | [] => c

/-! ### Spares (R560) -/

/-- A block of region r leaves service (R559, R562, R570, R572); a region with none left is out of service.
DEDUCED (assumption 48). -/
def Chip.blkOut (c : Chip) (r : Nat) : Chip :=
  let n := c.fld (RGNn_SPARE_OUT r) + 1
  let c := (c.setFld (RGNn_SPARE_OUT r) n).raise 13
  if 24 ≤ n then c.set1 (RGNn_FAULT_OOS r) else c

/-- The spare block bound next: spare 0 while both are free, else the one not bound (R560, R572). DEDUCED (assumption 48). -/
def Chip.freeSpare (c : Chip) (r : Nat) : Option Nat :=
  match c.fld (RGNn_SPARE_FREE r) with
  | 0 => none
  | 1 => some (if c.fld (RGNn_SPARE_SB0 r) = 0x1F then 0 else 1)
  | _ => some 0

/-- The standby cell of block b stood in or had failed: the counts of R572 lose it with its physical block. -/
def Chip.forgetStandby (c : Chip) (r b : Nat) : Chip :=
  let x := c.blk (blkKey r b)
  let c := if x.sc = .standIn then c.setFld (RGNn_SPARE_SCIN r) (c.fld (RGNn_SPARE_SCIN r) - 1) else c
  if x.scFailed then c.setFld (RGNn_SPARE_SCDEAD r) (c.fld (RGNn_SPARE_SCDEAD r) - 1) else c

/-- A spare answers for logical block b (R560): every block register but the record of the failure takes its reset value,
and the generations stay (R304). DEDUCED (assumption 48). -/
def Chip.bindSpare (c : Chip) (r b n : Nat) : Chip :=
  let k := blkKey r b
  let code := c.fld (BLK_FAULT_CODE r b)
  let c := c.forgetStandby r b
  let c := ((c.setFld (if n = 0 then RGNn_SPARE_SB0 r else RGNn_SPARE_SB1 r) b).setFld (RGNn_SPARE_FREE r)
    (c.fld (RGNn_SPARE_FREE r) - 1)).addRepair 2 r b n code
  let c := c.forL [BLK_CTL r b, BLK_STAT r b, BLK_MACC r b, BLK_MDAT r b, BLK_MINFO r b, BLK_SCST r b] fun a c =>
    c.setReg a (regReset a)
  let c := c.forN 18 fun s c => c.updSlot (40 * k + s) fun x => { gen := x.gen }
  let c := c.updBlk k fun _ => { st := .gated, spare := n }
  let c := ((c.rgnFault r 0x32).setFld (RGNn_FAULT_BLOCK r) b).set1 (RGNn_FAULT_SPARE r)
  c.raise 13

/-- The end of a held fade (R560): a free spare is bound and wakes over the load path, or the block leaves service.
DEDUCED (assumption 48). -/
def Chip.heldEnd (c : Chip) (r b : Nat) : Chip :=
  if c.is (RGNn_FAULT_OOS r) then c.blkOut r
  else match c.freeSpare r with
    | some n =>
      let c := (c.bindSpare r b n).clearFade (blkKey r b)
      c.requestLoad r b 0 true false false
    | none => ((c.rgnFault r 0x33).setFld (RGNn_FAULT_BLOCK r) b).blkOut r

/-- A block fade that has run its length ends (R350, R120, R560); a held fade ends once.
DESIGN CHOICE (assumption 13). DEDUCED (assumption 77). -/
def Chip.blockFadeEnd (c : Chip) (r b : Nat) : Chip :=
  let k := blkKey r b
  match (tabGet c.cnv.fades none k : Option BlockFade) with
  | none => c
  | some f =>
    if f.heldKind then
      let x := c.blk k
      if x.st = .failed ∧ x.fenced ∧ f.start + 32 ≤ c.clk.smp then
        (c.updBlk k fun x => { x with fenced := false }).heldEnd r b
      else c
    else if f.disable ∧ f.start + 64 ≤ c.clk.smp ∧ (c.blk k).draining then (c.dropBlock k).clearFade k
    else c

/-! ### Regions out of service (R561) -/

/-- A region's buck has left regulation (R561): every block fails, its rings close, its banks lose their content. -/
def State.regionOut (s : State) (r : Nat) : State :=
  let c := s.chip.setFld PWR_BUCK_RG_OK (s.chip.fld PWR_BUCK_RG_OK &&& (15 - 2 ^ r))
  if c.is (RGNn_FAULT_OOS r) then { s with chip := c }
  else
    let c := ((c.rgnFault r 0x34).set1 (RGNn_FAULT_OOS r)).raise 13
    let c : Chip := { c with pwr := { c.pwr with oos := r :: c.pwr.oos.erase r } }
    let c := c.forN 24 fun b c => c.blkFail r b 15 none
    let c := (c.setWbuf r { c.rm r with wbuf := [], fences := [], rings := [], heads := [] }).ringCount r
    { s with chip := c
             mem := { s.mem with banks := tabClear s.mem.banks (0x1000000 + r * 0x400000) 0x400000
                                 ecc := tabClear s.mem.ecc (2 * r * 2 ^ 19) (2 * 2 ^ 19) } }

/-! ### Cell steps (R552 to R557) -/

/-- Does a block's content use a cell (R103)? -/
def Content.uses (t : Content) (cell : Nat) : Bool :=
  if cell < 4 then decide (t.phase.getD cell [] ≠ []) else if cell = 4 then t.mac0.isSome
  else if cell = 5 then t.mac1.isSome else if cell = 6 then decide (t.contour ≠ []) else decide (t.routes ≠ [])

/-- Does the step pass through the shadow and handover phases (R553)? -/
def Chip.stepShadows (c : Chip) : Bool :=
  let w := c.rep.walk
  decide (w.cell < 8) &&
    (match (c.blk (blkKey w.region w.block)).content with
      | some t => t.uses w.cell
      | none => false)

/-- Is a block skipped by the walk (R552)? -/
def Block.skipped (b : Block) : Bool :=
  decide (b.st ≠ .empty ∧ b.st ≠ .running) || b.fenced || decide (b.sc ≠ .idle) || b.scFailed

/-- A step on a cell starts: GLZ_FREE reads 0 from here on (R553). -/
def Chip.stepOn (c : Chip) (p : Fin 4 × Fin 24 × Nat) (follow : Nat) (resume : Option (Fin 4 × Fin 24 × Nat)) : Chip :=
  let w := c.rep.walk
  let c := (c.updBlk (blkKey p.1 p.2.1) fun b =>
    { b with sc := if p.2.2 = 8 then .testing else .shadowing, scCell := if p.2.2 = 8 then 15 else p.2.2 }).set1
      (BLK_SCST_TEST p.1 p.2.1)
  c.setWalk { w with phase := .hold, region := p.1, block := p.2.1, cell := p.2.2, follow := follow, resumeAt := resume }

/-- CELL_STEP: the next step of the walk, or a cell that a parity fault put ahead of it (R552, R558). A place that is skipped
counts. -/
def Chip.cellStep (c : Chip) : Chip :=
  let w := c.rep.walk
  if c.is RST_CCFG_EN = false ∨ w.phase ≠ .idle ∨ c.pwrState ≠ 0 then c
  else
    let here := (w.region, w.block, w.cell)
    match w.ahead with
    | p :: rest =>
      let c := c.setWalk { w with ahead := rest }
      if (c.blk (blkKey p.1 p.2.1)).skipped then c.bump RST_CCNT_SKIP else c.stepOn p 0 (some here)
    | [] =>
      if (c.blk (blkKey w.region w.block)).skipped then
        (c.bump RST_CCNT_SKIP).setWalk (w.idleAt (walkNextBlock w.region w.block))
      else c.stepOn here 0 none

/-- Has the hold cleared every glaze of the step's block (R553 phase 1)? -/
def Chip.stepClear (c : Chip) : Bool :=
  let k := blkKey c.rep.walk.region c.rep.walk.block
  decide (c.glazeUsed k = 0) && decide ((c.blk k).glzRes = 0)

/-- The block of the step still runs. -/
def Chip.stepLives (c : Chip) : Bool :=
  let b := c.blk (blkKey c.rep.walk.region c.rep.walk.block)
  decide (b.st = .empty ∨ b.st = .running) && !b.fenced

/-- CELL_HOLD_TIMEOUT: a glaze has not cleared within 100 ms, and the block is skipped (R552). -/
def Chip.cellHoldTimeout (c : Chip) : Chip :=
  let w := c.rep.walk
  if w.phase = .hold ∧ c.stepClear = false then
    (c.endStep w.afterBlock).bump RST_CCNT_SKIP
  else c

/-- A difference in phase 3 (R557): the step ends, and the standby cell is tested alone. The fault names slot 0, for the rule names
none. DEDUCED (assumption 51). DESIGN CHOICE (assumption 108). -/
def Chip.stepMismatch (c : Chip) : Chip :=
  let w := c.rep.walk
  let after := w.after
  let c := (c.blkFault w.region w.block 0 w.cell 0x14).endStep after
  let c := c.stepOn (w.region, w.block, 8) 1 (some after)
  c.updBlk (blkKey w.region w.block) fun b => { b with scCell := w.cell }

/-- The mode sets, route sets and wiring of a cell as the standby cell takes them from the template image (R553, R554). -/
def Content.retaken (t image : Content) (cell : Nat) : Content :=
  { t with
    phase := (List.range t.phase.length).map fun i => if i = cell then image.phase.getD i [] else t.phase.getD i []
    contour := if cell = 6 then image.contour else t.contour, routes := if cell = 7 then image.routes else t.routes
    wires := image.wires }

/-- CELL_HANDOVER: the copy's check of the template image, the shadow compare, and the handover (R553, R554, R557). A step that skips
the shadow and handover phases goes on to its test, and that of the standby cell, which copies nothing, without the check.
DEDUCED (assumption 51). -/
def State.cellHandover (s : State) (differs : Bool) : State :=
  let c := s.chip
  let w := c.rep.walk
  let k := blkKey w.region w.block
  let test (c : Chip) : State := { s with chip := c.setWalk { w with phase := .test } }
  if w.phase ≠ .hold ∨ c.stepClear = false then s
  else if c.stepLives = false then { s with chip := c.endStep w.after }
  else match (c.blk k).content with
    | none => test c
    | some t =>
      let id := t.tmpl.id
      let c := if w.cell = 8 then c
        else c.eccRead s.mem (contentAddr w.region (c.pal.imageBase id w.region)) (c.pal.imageSize t.tmpl w.region)
      let ws := (List.range (c.pal.imageSize t.tmpl w.region)).map fun i =>
        s.mem.rd (contentAddr w.region (c.pal.imageBase id w.region + i))
      if w.cell = 8 then test c
      else if crcWords ws.dropLast ≠ ws.getLast?.getD 0 then
        { s with chip := (c.blkFault w.region w.block 0 15 0x21).endStep w.after }
      else
        let (image, c0, c1) := c.pal.contentOf t.tmpl ws
        let take (c : Chip) : Chip := c.updBlk k fun b =>
          { b with content := some (t.retaken image w.cell), pm0 := if w.cell = 4 then progMem c0 else b.pm0
                   pm1 := if w.cell = 5 then progMem c1 else b.pm1 }
        if c.stepShadows = false then test (take c)
        else if differs then { s with chip := c.stepMismatch }
        else test ((take c).updBlk k fun b => { b with sc := .primary, scCell := w.cell })

/-- A working cell has failed its test: the standby cell stands in for good (R555). -/
def Chip.standIn (c : Chip) (r b cell : Nat) : Chip :=
  let c := (c.blkFault r b 0 cell 0x15).updBlk (blkKey r b) fun x => { x with sc := .standIn, scCell := cell }
  let c := (c.setFld (BLK_SCST_FOR r b) cell).setFld (RGNn_SPARE_SCIN r) (c.fld (RGNn_SPARE_SCIN r) + 1)
  (c.addRepair 3 r (16 * b + cell) 0 0x15).raise 13

/-- The standby cell has failed its test and leaves service (R555). The fault names slot 0, for the rule names none. DESIGN CHOICE
(assumption 108). -/
def Chip.standbyDead (c : Chip) (r b : Nat) : Chip :=
  let c := (c.blkFault r b 0 8 0x17).updBlk (blkKey r b) fun x => { x with sc := .idle, scFailed := true }
  let c := (c.set1 (BLK_SCST_DEAD r b)).setFld (RGNn_SPARE_SCDEAD r) (c.fld (RGNn_SPARE_SCDEAD r) + 1)
  (c.addRepair 4 r b 0 0x17).raise 13

/-- CELL_TEST_DONE: the test of phase 5 ends (R553, R555, R557). `follow` of the walk says which test it was: 0 the walk's
own, 1 the standby cell's after a difference in phase 3, 2 the full step that follows it, 3 the cell's after a difference in
phase 7, 4 the standby cell's that follows that. DEDUCED (assumption 51). -/
def Chip.cellTestDone (c : Chip) (fails : Bool) : Chip :=
  let w := c.rep.walk
  let r := w.region
  let b := w.block
  let k := blkKey r b
  let short := !c.stepShadows
  if w.phase ≠ .test then c
  else if c.stepLives = false then c.endStep w.after
  else
    let orig := (c.blk k).scCell
    if w.cell = 8 then
      if fails then (c.standbyDead r b).endStep w.after
      else match w.follow with
        | 1 => if orig < 8 then c.stepOn (r, b, orig) 2 w.resumeAt else c.endStep w.after
        | 4 => (c.bump RST_CCNT_TRANS).endStep w.after
        | _ => c.endStep w.after
    else if fails then (c.standIn r b w.cell).endStep w.after
    else if short then (if w.follow = 2 then c.bump RST_CCNT_TRANS else c).endStep w.after
    else
      let c := c.updBlk k fun x => { x with sc := .shadowBack }
      c.setWalk { w with phase := .shadowBack }

/-- CELL_HANDBACK: the compare of phase 7 and the handback (R553, R557). DEDUCED (assumption 51).
DESIGN CHOICE (assumption 108). -/
def Chip.cellHandback (c : Chip) (differs : Bool) : Chip :=
  let w := c.rep.walk
  let r := w.region
  let b := w.block
  let k := blkKey r b
  if w.phase ≠ .shadowBack then c
  else if c.stepLives = false then c.endStep w.after
  else if differs then
    let c := (c.blkFault r b 0 w.cell 0x14).updBlk k fun x => { x with sc := .primary }
    c.setWalk { w with phase := .test, follow := 3 }
  else match w.follow with
    | 2 => (c.bump RST_CCNT_TRANS).endStep w.after
    | 3 =>
      let after := w.after
      let c := c.updBlk k fun x => { x with sc := .testing }
      c.setWalk { w with phase := .test, cell := 8, follow := 4, resumeAt := some after }
    | _ => c.endStep w.after

/-! ### The journal (R540, R541, R566 to R568) -/

/-- A record's 8 bytes (R566). -/
def Repair.bytes (x : Repair) : List Byte :=
  [BitVec.ofNat 8 x.kind, BitVec.ofNat 8 x.unit, BitVec.ofNat 8 x.loc, BitVec.ofNat 8 (x.loc / 256), BitVec.ofNat 8 x.spare,
   BitVec.ofNat 8 x.code, BitVec.ofNat 8 x.boots, BitVec.ofNat 8 (x.boots / 256)]

/-- The XA byte address of a journal copy (R540). -/
def journalBase (copy : Nat) : Nat := 0x3000000 + 0x10000 * copy

/-- A copy's bytes: the header with its CRC, and the body (R540). -/
def journalBytes (seq : Word) (body : List Byte) : List Byte :=
  let head := [0x47, 0x56, 0x4A, 0x4E] ++ wordBytes seq ++ wordBytes (BitVec.ofNat 32 body.length)
  head ++ wordBytes (crc32 (head ++ body)) ++ body

/-- A journal write has failed (R568, R570). -/
def Chip.journalFail (c : Chip) : Chip := ((c.set1 RST_JSTAT_FAIL).chipFault 0x45 none).raise 14

/-- A journal write starts (R567, R568): one with no device on XA, or too long, fails at once. DESIGN CHOICE (assumption 7). -/
def Chip.journalStart (c : Chip) : Chip :=
  if c.rep.pend = [] ∨ c.rep.jwrite.isSome then c
  else
    let m := mergeMap c.rep.map
    if c.is (XS_STAT_NODEV 0) ∨ 65520 < 8 * m.length then c.journalFail
    else { c with rep := { c.rep with jwrite := some (m, c.rep.pend.length) } }.set1 RST_JSTAT_BUSY

/-- Write a journal copy: erase, body, header (R541). -/
def NonVol.journal (n : NonVol) (copy : Nat) (seq : Word) (m : List Repair) : NonVol :=
  (n.erase 0 (journalBase copy) 65536).setFlashes 0 (journalBase copy) (journalBytes seq (m.flatMap Repair.bytes))

/-- What a journal write that does not end properly leaves (R541): the copy as it was, erased, with its body alone, or whole.
DESIGN CHOICE (assumption 50). -/
def State.journalTorn (s : State) : NonVol :=
  match s.chip.rep.jwrite with
  | none => s.nv
  | some (m, _) =>
    let copy := 1 - s.chip.rep.jcopy
    let erased := s.nv.erase 0 (journalBase copy) 65536
    match (Config.freeWord s.chip.ctr 804000).toNat % 4 with
    | 0 => s.nv
    | 1 => erased
    | 2 => erased.setFlashes 0 (journalBase copy + 16) (m.flatMap Repair.bytes)
    | _ => s.nv.journal copy (s.chip.rep.jseq + 1) m

/-- A journal write ends (R541, R568): written whole, or timed out with its records still pending.
DESIGN CHOICE (assumption 50). -/
def State.journalDone (s : State) (ready : Bool) : State :=
  match s.chip.rep.jwrite with
  | none => s
  | some (m, n) =>
    let c := s.chip.clr RST_JSTAT_BUSY
    if ready then
      let copy := 1 - c.rep.jcopy
      let seq := c.rep.jseq + 1
      let c : Chip := { c with rep := { c.rep with jwrite := none, jseq := seq, jcopy := copy, pend := c.rep.pend.drop n } }
      { s with chip := c.raise 14, nv := s.nv.journal copy seq m }
    else { s with chip := { c with rep := { c.rep with jwrite := none } }.journalFail, nv := s.journalTorn }

/-! ### Meanings -/

/-- BLOCK_FADE_END (R350). -/
def execBlockFadeEnd (r : Fin 4) (b : Fin 24) : State → Host.Outcome State Fault Refusal := act fun c => c.blockFadeEnd r b

/-- DISPATCH_REVOKE (R549). -/
def execDispatchRevoke (r : Fin 4) (b : Fin 24) : State → Host.Outcome State Fault Refusal := act fun c => c.dispatchRevoke r b

/-- LOAD_PATH_REVOKE (R549). -/
def execLoadPathRevoke (r : Fin 4) : State → Host.Outcome State Fault Refusal := act fun c => c.loadPathRevoke r

/-- CELL_STEP (R552). -/
def execCellStep : State → Host.Outcome State Fault Refusal := act fun c => c.cellStep

/-- CELL_HANDOVER (R553). -/
def execCellHandover (differs : Bool) : State → Host.Outcome State Fault Refusal := actAll fun s => s.cellHandover differs

/-- CELL_TEST_DONE (R555). -/
def execCellTestDone (fails : Bool) : State → Host.Outcome State Fault Refusal := act fun c => c.cellTestDone fails

/-- CELL_HANDBACK (R553). -/
def execCellHandback (differs : Bool) : State → Host.Outcome State Fault Refusal := act fun c => c.cellHandback differs

/-- CELL_HOLD_TIMEOUT (R552). -/
def execCellHoldTimeout : State → Host.Outcome State Fault Refusal := act fun c => c.cellHoldTimeout

/-- JOURNAL_WRITE (R567): an automatic write, which HOLD defers. -/
def execJournalWrite : State → Host.Outcome State Fault Refusal :=
  act fun c => if c.is RST_JCTL_HOLD then c else c.journalStart

/-- JOURNAL_COMMIT (R567): a write of COMMIT = 1, whatever HOLD holds. -/
def execJournalCommit : State → Host.Outcome State Fault Refusal := act fun c => c.journalStart

/-- JOURNAL_WRITE_DONE (R541). -/
def execJournalWriteDone (ready : Bool) : State → Host.Outcome State Fault Refusal := actAll fun s => s.journalDone ready

end Sys2Proof.Machine
end

