-- ==== Sys2Proof/Machine/Power.lean ====
section
/-! DEFINITION. The power manager (chapter "Power supply and power states", R592 to R611), but for what resets the device. -/

namespace Sys2Proof.Machine

/-! ### Measurements -/

/-- VINBAND after a measurement (R365): a band rises once VIN has stood at its threshold for 10 ms, which is 101
measurements in a row, and falls at once below its threshold less 0.3 V. DEDUCED (assumption 45). -/
def Chip.vinBand (c : Chip) (mv : Nat) : Chip :=
  let n1 := if 6500 ≤ mv then min (c.pwr.bandCnt1 + 1) 101 else 0
  let n2 := if 11500 ≤ mv then min (c.pwr.bandCnt2 + 1) 101 else 0
  let band := c.fld CV_STAT_VINBAND
  let on1 := if mv < 6200 then false else decide (1 ≤ band) || decide (n1 = 101)
  let on2 := if mv < 11200 then false else decide (band = 2) || decide (n2 = 101)
  let new := if on2 then 2 else if on1 then 1 else 0
  let c := if new < band then c.cvFall (fun span => decide (new < spanBand span)) else c
  ({ c with pwr := { c.pwr with bandCnt1 := n1, bandCnt2 := n2 } }).setFld CV_STAT_VINBAND new

/-- VIN_MEASURE (R594, R365). DESIGN CHOICE (assumption 20). DEDUCED (assumption 45). -/
def Chip.vinMeasure (c : Chip) (mv : Nat) : Chip :=
  let c := (c.setFld PWR_VIN_VIN mv).setFld PWR_VIN_VINMIN (min mv (c.fld PWR_VIN_VINMIN))
  let low := decide (mv < 4500)
  let c := if low && c.pwr.lowArmed then (c.set1 PWR_STAT_VINLOW).raise 0 else c
  let armed := if low then false else c.pwr.lowArmed || decide (4600 ≤ mv)
  { c with pwr := { c.pwr with lowArmed := armed } }.vinBand mv

/-- What a temperature reads as: the register is a signed byte, and what a hotter die reads as is open (R607, R611).
DESIGN CHOICE (assumption 44). -/
def tempRead (ctr : Nat) (t : Int) : BitVec 8 :=
  if -128 ≤ t ∧ t ≤ 127 then BitVec.ofInt 8 t else (Config.freeWord ctr 805000).setWidth 8

/-- The registers' part of TEMP_MEASURE (R607). -/
def Chip.tempMeasure (c : Chip) (t : Int) : Chip :=
  let v := tempRead c.ctr t
  let top := c.sfld PWR_TEMP_TMAX
  let c := (c.setFld PWR_TEMP_TEMP v.toNat).setFld PWR_TEMP_TMAX (if top < v.toInt then v.toNat else c.fld PWR_TEMP_TMAX)
  if (c.fld PWR_CFG_THWARN : Int) ≤ t then (c.set1 PWR_STAT_TWARN).raise 3 else c

/-- SLACK_CHECK (R600): a shortfall raises the slack floor, or sets SLKMAX at OP2. DEDUCED (assumption 46). -/
def Chip.slackCheck (c : Chip) (r : Nat) (short : Bool) : Chip :=
  let c := c.pointUp r
  if short = false ∨ r ∈ c.pwr.dozing then c
  else if 2 ≤ tabGet c.pwr.point 0 r then (c.set1 (PWR_RGSTAT_SLKMAX r)).raise 2
  else
    let n := tabGet c.pwr.slack 0 r + 1
    let c : Chip := { c with pwr := { c.pwr with slack := tabSet c.pwr.slack 0 r n } }
    ((c.pointUp r).bump (PWR_RGSTAT_SLACKCNT r)).raise 2

/-- A write of PWR_RGCFG clears the slack floor, and a higher FLOOR acts at once (R600, R611). -/
def Chip.rgcfgWrite (c : Chip) (r : Nat) (v : Word) : Chip :=
  let c := c.setReg (PWR_RGCFG r) (v &&& 7)
  { c with pwr := { c.pwr with slack := tabSet c.pwr.slack 0 r 0 } }.pointUp r

/-- OP_POINT_FALL (R599): the point in force falls by one step toward the point wanted. -/
def Chip.opPointFall (c : Chip) (r : Nat) : Chip :=
  let p := tabGet c.pwr.point 0 r
  if c.wantPoint r < p then { c with pwr := { c.pwr with point := tabSet c.pwr.point 0 r (p - 1) } } else c

/-! ### Dozing -/

/-- A region dozes: its buck holds 0.50 V and its banks are in retention (R445, R601). -/
def Chip.dozeNow (c : Chip) (r : Nat) : Chip :=
  let c := (c.updRm r fun x => { x with retained := true, waking := false, held := false }).set1 (PWR_RGSTAT_DOZING r)
  { c with pwr := { c.pwr with dozing := r :: c.pwr.dozing.erase r, point := tabSet c.pwr.point 0 r 0 } }

/-- Do the conditions of R601 hold, the quiet millisecond of port B apart? DEDUCED (assumption 46). -/
def Chip.mayDoze (c : Chip) (r : Nat) : Bool :=
  c.is (PWR_RGCFG_RDOZE r) && !c.is (RGNn_FAULT_OOS r) && decide (c.pwr.standIn ≠ some r) && decide (r ∉ c.pwr.dozing)
    && ((List.range 24).all fun b => !(c.blk (blkKey r b)).isAwake)
    && ((c.rm r).rings.all fun p => p.2.isNone) && (c.rm r).wbuf.isEmpty && (c.rm r).fences.isEmpty

/-- REGION_DOZE (R601). -/
def Chip.regionDoze (c : Chip) (r : Nat) : Chip := if c.mayDoze r then c.dozeNow r else c

/-- BANK_RETENTION_RETURN (R445): 1 ms after the last port-B access, unless the power manager has woken the region. -/
def Chip.retentionReturn (c : Chip) (r : Nat) : Chip := if c.mayDoze r then c.dozeNow r else c

/-! ### Hold (R603 to R606) -/

/-- The reason a Hold request is refused, in the order of R603's table. DEDUCED (assumption 43). -/
def Chip.holdRefusal (c : Chip) (key : BitVec 16) : Option Nat :=
  if c.stopped = false then some 1
  else if (List.range 16).any fun n => c.dmaActive n then some 2
  else if c.is (XS_STAT_CBUSY 0) || c.is (XS_STAT_CBUSY 1) || c.rep.jwrite.isSome then some 3
  else if key ≠ 0x401D then some 4
  else if c.boot.loading.isSome ∧ c.boot.step = 0x0E then some 5
  else none

/-- Step 1 of the entry starts (R604): outputs and inputs stop as a disable stops them, with their EN bits kept. -/
def Chip.holdStep1 (c : Chip) : Chip :=
  let c := c.forN 16 fun k c => c.aoApply k
  let c := c.forN 32 fun k c =>
    let x := c.cvOf k
    if x.st = .driving then c.setCv k { x with st := .ramp, rampD0 := x.code, rampJ := 0 } else c
  let c := c.forN 16 fun k c =>
    let x := c.aiOf k
    if x.running then c.setAi k { x with stopPend := true, drain := x.queue.length } else c
  c.forN 4 fun p c =>
    let x := c.saOf p
    if x.running ∧ x.fade = none then c.setSa p (x.fadeOut p) else c

/-- A Hold request is refused (R603). DEDUCED (assumption 43). -/
def Chip.holdRefuse (c : Chip) (why : Nat) : Chip := ((c.set1 PWR_STAT_HREJ).setFld PWR_STAT_WHY why).raise 1

/-- HOLD_REQUEST (R603): in Run, a refusal with its reason or the start of the entry. Once Hold is entered or left, a request asks for
nothing more; a wrong key is refused as ever. DEDUCED (assumption 43). -/
def Chip.holdRequest (c : Chip) (key : BitVec 16) : Chip :=
  if c.pwrState ≠ 0 then (if key = 0x401D then c else c.holdRefuse 4)
  else match c.holdRefusal key with
    | some why => c.holdRefuse why
    | none =>
      let c := c.setFld PWR_STAT_STATE 1
      { c with pwr := { c.pwr with wakeHold := false } }.holdStep1

/-- Every AO channel at its clamp, at once (R597, R604). -/
def Chip.aoClampAll (c : Chip) : Chip := c.forN 16 fun k c => c.setAo k { c.aoOf k with st := .clamped, legs := 0, out := 0 }

/-- Every CV channel at its clamp, at once. -/
def Chip.cvClampAll (c : Chip) : Chip := c.forN 32 fun k c => c.setCv k (cvClamp (c.cvOf k) .clamped false)

/-- Step 1 of the entry has ended. -/
def Chip.holdStep1End (c : Chip) : Chip :=
  let c := c.aoClampAll.cvClampAll
  let c := c.forN 16 fun k c =>
    let x := c.aiOf k
    if x.running then c.setAi k { x with running := false, stopPend := false, trig := .off, fading := false, fadeJ := 0 } else c
  c.forN 4 fun p c =>
    let x := c.saOf p
    if x.running then
      (c.setSa p { x with running := false, fade := none, queue := [], due := [], vals := [], lost := false }).saLock p false
    else c

/-- Is a step of the Restorer under way (R604)? -/
def Chip.restorerBusy (c : Chip) : Bool := c.rep.step.on || decide (c.rep.walk.phase ≠ .idle)

/-- Step 2 of the entry: the pump stops, every block is power-gated, every region dozes but one on BKC, which never does (R597).
DEDUCED (assumption 47). -/
def Chip.holdStep2 (c : Chip) : Chip :=
  let c : Chip := { c.clr CV_STAT_PUMP with pumpStop := false }
  let c := c.forN 96 fun k c =>
    let b := c.blk k
    if b.isAwake then
      let c := c.forN c.slotCount fun s c => c.updSlot (40 * k + s) fun y => y.lost c.ctr (5000000 + 100000 * k + 10000 * s) c.partition
      c.updBlk k fun x => { x with st := .gated, cache := [], refills := [] }
    else c
  c.forN 4 fun r c =>
    let c := c.updRgn r fun g => { g with loads := g.loads.map fun q => { q with running := false, wake := true } }
    if c.is (RGNn_FAULT_OOS r) ∨ c.pwr.standIn = some r then c else c.dozeNow r

/-- Step 3 of the entry: BKA and the PLLs stop. DEDUCED (assumption 47). -/
def Chip.holdStep3 (c : Chip) : Chip :=
  (((c.clr PWR_BUCK_BKA_OK).clr CLK_STAT_APLL_LOCK).clr CLK_STAT_XPLL_LOCK).clr CLK_STAT_EPLL_LOCK

/-- HOLD_ENTERED (R604, R606): the entry has run its steps, the second once the Restorer's step has ended; one that a wake stopped
ends after its current step, which the commands do not tell apart, and leaves at once. DEDUCED (assumption 43).
DEDUCED (assumption 84). -/
def Chip.holdEntered (c : Chip) : Chip :=
  if c.pwrState ≠ 1 then c
  else if c.pwr.wakeHold then
    let n := if c.restorerBusy then 0 else (Config.freeWord c.ctr 806000).toNat % 3
    let c := c.holdStep1End
    let c := if 1 ≤ n then c.holdStep2 else c
    let c := if 2 ≤ n then c.holdStep3 else c
    let c := (c.set1 PWR_STAT_ABORT).setFld PWR_STAT_STATE 3
    { c with pwr := { c.pwr with wakeHold := false } }
  else if c.restorerBusy then c
  else
    let c := (c.holdStep1End.holdStep2.holdStep3.setFld PWR_STAT_STATE 2).raise 1
    { c with pwr := { c.pwr with irqHold := some ((c.evcLowest 0).isSome, (c.evcLowest 1).isSome) } }

/-- A wake source (R606): it ends Hold, or stops its entry. -/
def Chip.holdWake (c : Chip) : Chip :=
  match c.pwrState with
  | 1 => { c with pwr := { c.pwr with wakeHold := true } }
  | 2 => c.setFld PWR_STAT_STATE 3
  | _ => c

/-- HOLD_EXIT (R606): a PWR_CTL write with HOLD = 0 and the key. -/
def Chip.holdExit (c : Chip) (key : BitVec 16) : Chip := if key = 0x401D then c.holdWake else c

/-- HOLD_WAKE_MIDI (R606). -/
def Chip.holdWakeMidi (c : Chip) (i : Nat) : Chip := if (c.fld PWR_CFG_MIWAKE / 2 ^ i) % 2 = 1 then c.holdWake else c

/-- HOLD_WAKE_GP (R606). -/
def Chip.holdWakeGp (c : Chip) (pin : Nat) (rising : Bool) : Chip :=
  if c.is PWR_CFG_GPWAKE ∧ c.fld PWR_CFG_WAKEPIN = pin ∧ c.is PWR_CFG_WAKEEDGE = !rising then c.holdWake else c

/-- AI channels with EN = 1 take a synchronising reset (R393, R597, R606). -/
def Chip.aiRestart (c : Chip) : Chip :=
  c.forN 16 fun k c =>
    if c.is (AI_CFG_EN k) then (c.setAi k { c.aiOf k with running := true, stopPend := false }).aiReset k false else c

/-- HOLD_EXIT_DONE (R606): STATE reads 0; the clocks run, and BKA where it ran before. DEDUCED (assumption 43). -/
def Chip.holdExitDone (c : Chip) : Chip :=
  if c.pwrState ≠ 3 then c
  else
    let c := ((c.set1 CLK_STAT_EPLL_LOCK).set1 CLK_STAT_XPLL_LOCK).setFld PWR_STAT_STATE 0
    let c : Chip := { c with pwr := { c.pwr with waitStart := true, irqHold := none } }
    let c := if c.pwr.convOff then c else ((c.set1 PWR_BUCK_BKA_OK).set1 CLK_STAT_APLL_LOCK).aiRestart
    let c := c.forN 4 fun p c => if c.is (SA_CFG_EN p) then (c.clr (SA_CFG_EN p)).saEnable p else c
    c.pumpEval.raise 1

/-! ### Bucks (R597) -/

/-- BUCK_CURRENT_LIMIT (R597): k = 0 BKC, 1–4 BK0–BK3, 5 BKA. -/
def Chip.buckLimit (c : Chip) (k : Nat) : Chip := (c.setReg PWR_BUCK (c.reg PWR_BUCK ||| (1#32 <<< (16 + k)))).raise 15

/-- BKA leaves regulation (R597). -/
def Chip.bkaFault (c : Chip) : Chip :=
  let c : Chip := { c with pwr := { c.pwr with convOff := true } }
  let c : Chip := { c.aoClampAll.cvClampAll.clr CV_STAT_PUMP with pumpStop := false }
  (c.clr PWR_BUCK_BKA_OK).raise 15

/-- BKA_RESTART (R597): the try every 100 ms after a fault; a BKA that SUPPLY level 1 leaves off is not tried. -/
def Chip.bkaRestart (c : Chip) (regulates : Bool) : Chip :=
  if c.pwr.convOff = false ∨ c.is PWR_BUCK_BKA_OK ∨ tabGet c.boot.levels 0 1 ≠ 0 ∨ regulates = false ∨ c.pwrState ≠ 0 then c
  else
    let c := c.set1 PWR_BUCK_BKA_OK
    let c : Chip := { c with pwr := { c.pwr with convOff := false } }
    ((c.forN 16 fun k c => c.aoApply k).aiRestart).pumpEval

/-! ### Meanings -/

/-- VIN_MEASURE (R594). -/
def execVinMeasure (mv : BitVec 16) : State → Host.Outcome State Fault Refusal := act fun c => c.vinMeasure mv.toNat

/-- SLACK_CHECK (R600). -/
def execSlackCheck (r : Fin 4) (short : Bool) : State → Host.Outcome State Fault Refusal := act fun c => c.slackCheck r short

/-- OP_POINT_FALL (R599). -/
def execOpPointFall (r : Fin 4) : State → Host.Outcome State Fault Refusal := act fun c => c.opPointFall r

/-- REGION_DOZE (R601). -/
def execRegionDoze (r : Fin 4) : State → Host.Outcome State Fault Refusal := act fun c => c.regionDoze r

/-- BANK_RETENTION_RETURN (R445). -/
def execBankRetentionReturn (r : Fin 4) : State → Host.Outcome State Fault Refusal := act fun c => c.retentionReturn r

/-- HOLD_REQUEST (R603): a PWR_CTL write with HOLD = 1. -/
def execHoldRequest (key : BitVec 16) : State → Host.Outcome State Fault Refusal := act fun c => c.holdRequest key

/-- HOLD_ENTERED (R604). -/
def execHoldEntered : State → Host.Outcome State Fault Refusal := actFree fun c => c.holdEntered

/-- HOLD_EXIT (R606). -/
def execHoldExit (key : BitVec 16) : State → Host.Outcome State Fault Refusal := actIf Chip.alive fun c => c.holdExit key

/-- HOLD_WAKE_MIDI (R606). -/
def execHoldWakeMidi (i : Fin 4) : State → Host.Outcome State Fault Refusal := actIf Chip.alive fun c => c.holdWakeMidi i

/-- HOLD_WAKE_GP (R606). -/
def execHoldWakeGp (pin : Fin 8) (rising : Bool) : State → Host.Outcome State Fault Refusal :=
  actIf Chip.alive fun c => c.holdWakeGp pin rising

/-- HOLD_EXIT_DONE (R606). -/
def execHoldExitDone : State → Host.Outcome State Fault Refusal :=
  actIf Chip.alive fun c => { c.holdExitDone with ctr := c.ctr + 1 }

/-- BUCK_CURRENT_LIMIT (R597). -/
def execBuckCurrentLimit (k : Fin 6) : State → Host.Outcome State Fault Refusal := act fun c => c.buckLimit k

/-- BKA_RESTART (R597). -/
def execBkaRestart (regulates : Bool) : State → Host.Outcome State Fault Refusal := actFree fun c => c.bkaRestart regulates

end Sys2Proof.Machine
end

