-- ==== Sys2Proof/Machine/Registers.lean ====
section
/-! DEFINITION. Register writes and reads (R8, R10, R302, R641 to R650): the access types of every field, and the effects that a
chapter gives a register's access beyond them. The registers of Saffron, debug and BOOT_CTL stand with their chapters. -/

namespace Sys2Proof.Machine

/-- A write by access type (R8): RW fields take the value, W1C bits clear where a 1 is written, all others are ignored. -/
def Chip.regStore (c : Chip) (a : Nat) (v : Word) : Chip :=
  match findReg a with
  | none => c
  | some d =>
    let rw := BitVec.ofNat 32 d.rw
    let w1c := BitVec.ofNat 32 d.w1c
    c.setReg a ((c.reg a &&& ~~~rw &&& ~~~(w1c &&& v)) ||| (v &&& rw))

/-- Region of an address in the region windows (R641). -/
def winRegion (a : Nat) : Nat := (a - 0x10000) / 0x4000
/-- Block of an address in the block windows of a region. -/
def winBlock (a : Nat) : Nat := ((a - 0x10000) % 0x4000 - 0x1000) / 0x80
/-- Is the address that of a block register? -/
def isBlockReg (a : Nat) : Bool := decide (0x10000 ≤ a) && decide (0x1000 ≤ (a - 0x10000) % 0x4000) && (findReg a).isSome

/-! ### Writes with effects of their own -/

/-- CLK_CFG (R28, R29, R39): every write of it writes EMODE, before ESTOP. DEDUCED (assumption 18). -/
def Chip.clkCfgWrite (c : Chip) (v : Word) : Chip :=
  let c := c.emodeWrite (fieldOf v 0 2)
  if v.getLsbD 2 then c.estopSet else if c.is CLK_CFG_ESTOP then c.estopClear else c

/-- EZ_CFG (R270): the easel keeps anchors, and the timestamps that wait, only while JR_EN = 1. -/
def Chip.ezCfgWrite (c : Chip) (v : Word) : Chip :=
  let c := c.regStore EZ_CFG v
  if c.is EZ_CFG_JR_EN then c else c.updEz fun z => { z with anchors := [], jr := [] }

/-- EZ_MPE (R278, R299): LZ of 15 acts as 14, and the zones share 14 members. DEDUCED (assumption 57). -/
def Chip.mpeWrite (c : Chip) (a : Nat) (v : Word) : Chip :=
  let lz := min 14 (fieldOf v 0 4)
  let uz := min (fieldOf v 4 4) (14 - lz)
  c.regStore a ((v &&& 0xFFFFFF0F) ||| BitVec.ofNat 32 (16 * uz))

/-- PAL_PCFG (R302): a change of TEMPLATE while the part exists clears its affinity records. -/
def Chip.pcfgWrite (c : Chip) (p : Nat) (v : Word) : Chip :=
  let old := c.fld (PAL_PCFG_TEMPLATE p)
  let c := c.regStore (PAL_PCFG p) v
  if c.partExists p ∧ c.fld (PAL_PCFG_TEMPLATE p) ≠ old then c.updPart p fun x => { x with aff := [] } else c

/-- PAL_CMD (R301): OP 1 creates, OP 2 destroys. -/
def Chip.palCmd (c : Chip) (v : Word) : Chip :=
  match fieldOf v 8 2 with
  | 1 => c.partCreate (fieldOf v 0 6)
  | 2 => c.partDestroy (fieldOf v 0 6)
  | _ => c

/-- CV_CFG (R365, R368, R377, R384). DEDUCED (assumption 18). -/
def Chip.cvCfgWrite (c : Chip) (k : Nat) (v : Word) : Chip :=
  let c := if fieldOf v 8 3 = c.fld (CV_CFG_SPAN k) then c else c.cvSpanWrite k (fieldOf v 8 3)
  let c := (c.setFld (CV_CFG_GSEL k) (fieldOf v 3 2)).setFld (CV_CFG_SRC k) (fieldOf v 1 2)
  if v.getLsbD 0 = c.is (CV_CFG_EN k) then c else c.cvSetEn k (v.getLsbD 0)

/-- AI_CFG (R389, R408): EN from 0 to 1 resets the channel, EN from 1 to 0 disables it. DEDUCED (assumption 18). -/
def Chip.aiCfgWrite (c : Chip) (k : Nat) (v : Word) : Chip :=
  let was := c.is (AI_CFG_EN k)
  let c := c.regStore (AI_CFG k) ((v &&& ~~~1#32) ||| (if was then 1 else 0))
  let c := c.setAi k (c.aiOf k)
  if v.getLsbD 0 && !was then c.aiEnable k else if was && !v.getLsbD 0 then c.aiDisable k else c

/-- CV_GCTL (R380, R385). -/
def Chip.gctlWrite (c : Chip) (g : Nat) (v : Word) : Chip :=
  let c := c.regStore (CV_GCTL g) v
  if v.getLsbD 17 then c.setCvGrp g { c.cvGrp g with prst := true } else c

/-- DMAn_SRC, DST, CNT and CFG (R482). -/
def Chip.dmaRegWrite (c : Chip) (n a : Nat) (v : Word) : Chip :=
  if c.dmaActive n then c.set1 (DMAn_STAT_WBUSY n) else c.regStore a v

/-- TMRn_CTL (R487). -/
def Chip.tmrCtlWrite (c : Chip) (n : Nat) (v : Word) : Chip :=
  let c := c.regStore (TMRn_CTL n) v
  if v.getLsbD 1 then c.tmrReset n else c

/-- TMR_TCTL (R497). Where several bits are 1 the spec names no order: one of them acts, which is free.
DESIGN CHOICE (assumption 56). -/
def Chip.tctlWrite (c : Chip) (v : Word) : Chip :=
  let bits := (List.range 3).filter fun i => v.getLsbD i
  match bits.getD ((Config.freeWord c.ctr 805000).toNat % max 1 bits.length) 3 with
  | 0 => c.tempoStart
  | 1 => c.tempoStop
  | 2 => c.tempoCont
  | _ => c

/-- XS_CMD (R458, R466): OP 4 reads the status byte, which the flash gives. DESIGN CHOICE (assumption 56). -/
def Chip.xsCmd (c : Chip) (x : Nat) (v : Word) : Chip :=
  match fieldOf v 0 3 with
  | 1 => c.xsStart x 1 (fieldOf v 8 8)
  | 2 => c.xsStart x 2 0
  | 3 => c.xsStart x 3 0
  | 4 => c.setXs x { c.xs x with status := (Config.freeWord c.ctr (804000 + x)).setWidth 8 }
  | _ => c

/-- PWR_OPCFG (R598, R599): a rise of a region's point takes effect with its cause. -/
def Chip.opcfgWrite (c : Chip) (v : Word) : Chip := (c.regStore PWR_OPCFG v).forN 4 fun r c => c.pointUp r

/-- PWR_CTL (R603, R606). -/
def Chip.pwrCtl (c : Chip) (v : Word) : Chip :=
  if v.getLsbD 0 then c.holdRequest (v.extractLsb' 16 16) else c.holdExit (v.extractLsb' 16 16)

/-- RST_JCTL (R568). -/
def Chip.jctlWrite (c : Chip) (v : Word) : Chip :=
  let c := c.regStore RST_JCTL v
  if v.getLsbD 0 then c.journalStart else c

/-- Index of an address in an array of a stride. -/
def arrIdx (a base stride : Nat) : Nat := (a - base) / stride

/-- Writes to the pages of the chip that act beyond R8, in the order of the map: 0x0000 to 0x3FFF. -/
def Chip.writeLow (c : Chip) (a : Nat) (v : Word) : Chip :=
  if a = CLK_CFG then c.clkCfgWrite v
  else if a = CLK_CTL then (if v.getLsbD 0 then c.tbload else c)
  else if a = PWR_CTL then c.pwrCtl v
  else if a = PWR_OPCFG then c.opcfgWrite v
  else if 0x420 ≤ a ∧ a < 0x430 then c.rgcfgWrite (arrIdx a 0x420 4) v
  else if a = EZ_CFG then c.ezCfgWrite v
  else if a = EZ_STORE then (c.regStore a v).storeStat
  else if a = EVC_RAISE then c.raise (fieldOf v 0 7)
  else if 0x2080 ≤ a ∧ a < 0x20D0 then c.mpeWrite a v
  else if a = 0x2148 ∨ a = 0x214C then c.motxWrite (arrIdx a 0x2148 4) (v.setWidth 8)
  else if a = PAL_CMD then c.palCmd v
  else if 0x3110 ≤ a ∧ a < 0x3500 ∧ a % 16 = 0 then c.pcfgWrite (arrIdx a 0x3100 16) v
  else c.regStore a v

/-- CNV_ROVF and CNV_COVF (R349): the bits written as 1 clear at the next boundary. -/
def Chip.ovfWrite (c : Chip) (a : Nat) (v : Word) : Chip :=
  { c with cnv := { c.cnv with w1c := tabSet c.cnv.w1c 0 a (tabGet c.cnv.w1c 0 a ||| v) } }

/-- Writes to the canvas, converter and serial pages: 0x4000 to 0x7FFF. -/
def Chip.writeMid (c : Chip) (a : Nat) (v : Word) : Chip :=
  if a = CNV_COVF ∨ (CNV_ROVF 0 ≤ a ∧ a ≤ CNV_ROVF 3 ∧ (findReg a).isSome) then c.ovfWrite a v
  else if 0x4100 ≤ a ∧ a < 0x4200 then c.gainWrite (arrIdx a 0x4100 4) v
  else if 0x4300 ≤ a ∧ a < 0x4380 then c.gainWrite (64 + arrIdx a 0x4300 4) v
  else if 0x5000 ≤ a ∧ a < 0x5040 then (c.regStore a v).aoApply (arrIdx a 0x5000 4)
  else if 0x5100 ≤ a ∧ a < 0x5180 then c.cvCfgWrite (arrIdx a 0x5100 4) v
  else if 0x5180 ≤ a ∧ a < 0x5200 then c.cvCodeWrite (arrIdx a 0x5180 4) (fieldOf v 0 16)
  else if 0x5400 ≤ a ∧ a < 0x5440 ∧ a % 16 = 0 then c.gctlWrite (arrIdx a 0x5400 16) v
  else if a = CV_PHRST then c.cvPhrst v
  else if a = CV_STAT then (c.regStore a v).pumpEval
  else if 0x6000 ≤ a ∧ a < 0x6040 then c.aiCfgWrite (arrIdx a 0x6000 4) v
  else if 0x6040 ≤ a ∧ a < 0x6080 then c.aiRespWrite (arrIdx a 0x6040 4) (fieldOf v 0 3)
  else if a = AI_SYNC then c.aiSync (v &&& 0xFFFF)
  else if 0x7000 ≤ a ∧ a < 0x7010 then c.saCfgWrite (arrIdx a 0x7000 4) v
  else c.regStore a v

/-- Writes to a timer's registers and the trigger and tempo registers: page 0x9000. -/
def Chip.writeTmr (c : Chip) (a : Nat) (v : Word) : Chip :=
  if a < 0x9400 then
    let n := arrIdx a 0x9000 0x40
    match a % 0x40 with
    | 0x08 => c.tmrCtlWrite n v
    | 0x0C => c.tmrCntWrite n v
    | 0x14 => c.tmrCmp1Write n v
    | 0x18 => c.tmrPerWrite n v
    | _ => c.regStore a v
  else if a = TMR_TRGSW then c.trigMask v
  else if a = TMR_TCTL then c.tctlWrite v
  else if a = TMR_TBEAT ∧ c.tempoSrc ≠ 0 then c
  else if a = TMR_TPOS ∧ c.is TMR_TBEAT_RUN then c
  else c.regStore a v

/-- Writes to the DMA page and to the memory, Restorer and xSPI page. -/
def Chip.writeHigh (c : Chip) (a : Nat) (v : Word) : Chip :=
  if 0x8000 ≤ a ∧ a < 0x8200 then
    let n := arrIdx a 0x8000 0x20
    match a % 0x20 with
    | 0x00 | 0x04 | 0x08 | 0x0C => c.dmaRegWrite n a v
    | 0x10 => c.dmaCtl n v
    | _ => c.regStore a v
  else if a = RST_JCTL then c.jctlWrite v
  else if 0xA200 ≤ a ∧ a < 0xA280 then
    let x := arrIdx a 0xA200 0x40
    match a % 0x40 with
    | 0x00 => (fun c => if v.getLsbD 0 then c.xsProto x else c) (c.regStore a v)
    | 0x08 => c.xsCmd x v
    | 0x10 => c.xsData x v
    | _ => c.regStore a v
  else c.regStore a v

/-- Writes to a block's registers; true where the owning unit refuses the write (R200). -/
def Chip.writeBlock (c : Chip) (a : Nat) (v : Word) : Bool × Chip :=
  let r := winRegion a
  let b := winBlock a
  match (a - 0x10000) % 0x80 with
  | 0x00 => (false, c.blkCtlWrite r b v (v.getLsbD 4))
  | 0x1C => c.mdatWrite r b v
  | _ => (false, c.regStore a v)

/-- Writes to a region's registers: the highest occupancy since PEAK was written starts with the entries that stand (R122). -/
def Chip.rgnWrite (c : Chip) (a : Nat) (v : Word) : Chip :=
  let c := c.regStore a v
  if (a - 0x10000) % 0x4000 = 0x20 then c.readyStat (winRegion a) else c

/-- A register write in the pages whose chapters stand before this one; true where it is refused (R512). -/
def Chip.regWrite (c : Chip) (a : Nat) (v : Word) : Bool × Chip :=
  if (findReg a).isNone then (false, c)
  else if a < 0x4000 then (false, c.writeLow a v)
  else if a < 0x8000 then (false, c.writeMid a v)
  else if 0x9000 ≤ a ∧ a < 0xA000 then (false, c.writeTmr a v)
  else if a < 0x10000 then (false, c.writeHigh a v)
  else if isBlockReg a then c.writeBlock a v
  else (false, c.rgnWrite a v)

/-! ### Reads -/

/-- A value placed at a bit position. -/
def at_ (lo v : Nat) : Nat := v * 2 ^ lo

/-- A one-bit field's value. -/
def bit (b : Bool) : Nat := if b then 1 else 0

/-- The stored register with the bits of a mask replaced. DEDUCED (assumption 87). -/
def Chip.overlay (c : Chip) (a mask v : Nat) : Word :=
  (c.reg a &&& ~~~(BitVec.ofNat 32 mask)) ||| (BitVec.ofNat 32 v &&& BitVec.ofNat 32 mask)

/-- The code of BLK_STAT.STATE (R125). -/
def blkStCode : BlkState → Nat
  | .disabled => 0 | .empty => 1 | .running => 2 | .loading => 3 | .gated => 4 | .waking => 5 | .failed => 6

/-- BLK_STAT.ACTIVE: the active slots of a block, counting each member and every slot of a bus block (R108, R117, R125). The slots of
a pending voice are not active until its dispatch. DEDUCED (assumption 100). DEDUCED (assumption 87). -/
def Chip.activeNow (c : Chip) (k : Nat) : Nat := (c.activeSlots k).length

/-- BLK_STAT (R103, R125). DEDUCED (assumption 87). -/
def Chip.blkStat (c : Chip) (r b : Nat) : Word :=
  let k := blkKey r b
  let x := c.blk k
  let shadows := decide (x.sc = .shadowing) && decide (c.glazeUsed k = 0) && decide (x.glzRes = 0) && (match x.content with
    | some t => t.uses x.scCell
    | none => false)
  let busy := shadows || decide (x.sc = .primary ∨ x.sc = .shadowBack ∨ x.sc = .standIn)
  c.overlay (BLK_STAT r b) 0xFFF87
    (at_ 18 (c.glazeFreeOf k) + at_ 17 (bit busy) + at_ 12 x.tmplCode + at_ 7 (c.activeNow k) + blkStCode x.st)

/-- The half of BLK_MINFO that a program fills (R202). -/
def minfoHalf (p : Option CellProg) : Nat :=
  match p with
  | some m => at_ 10 (bit m.closed) + m.length
  | none => 0

/-- BLK_MINFO (R202). -/
def Chip.blkMinfo (c : Chip) (r b : Nat) : Word :=
  match (c.blk (blkKey r b)).content with
  | some t => BitVec.ofNat 32 (at_ 16 (minfoHalf t.mac1) + minfoHalf t.mac0)
  | none => 0

/-- The code of a voice's state (R332). -/
def vStCode : VState → Nat
  | .pending => 0 | .gated => 1 | .release => 2 | .glazing => 3

/-- VX_QINFO (R305, R332). DEDUCED (assumption 57). -/
def Chip.qinfo (c : Chip) : Word :=
  let h := c.fld VX_QUERY_HANDLE
  let x := c.slot (handleKey h)
  if handleNames h = false then 0
  else match x.voice with
    | some v =>
      if x.gen = v.gen ∧ v.gen.toNat = h / 2048 then
        BitVec.ofNat 32 (at_ 31 1 + at_ 29 (vStCode v.st) + at_ 28 (bit v.detached) + at_ 22 v.part + at_ 15 v.key + at_ 10 v.expIdx)
      else 0
    | none => 0

/-- EVC_NEXT of pin k (R521). -/
def Chip.evcNext (c : Chip) (k : Nat) : Word :=
  match c.evcLowest k with
  | some s => BitVec.ofNat 32 (at_ 31 1 + s)
  | none => 0

/-- Is an IRQ pin asserted (R520)? In Hold the pins keep the level they had at entry (R605). DEDUCED (assumption 84). -/
def Chip.irq (c : Chip) (k : Nat) : Bool :=
  match c.pwr.irqHold with
  | some (a, b) => if k = 0 then a else b
  | none => (c.evcLowest k).isSome

/-- The level of an IRQ pin (R520, R525): its active level while asserted; an open-drain pin that is not asserted drives
nothing. -/
def Chip.irqPin (c : Chip) (k : Nat) : Option Bool :=
  let high := c.is (if k = 0 then EVC_CFG_POL0 else EVC_CFG_POL1)
  if c.irq k then some high
  else if c.is (if k = 0 then EVC_CFG_OD0 else EVC_CFG_OD1) then none
  else some (!high)

/-- EZ_LFREE (R291). -/
def Chip.lfree (c : Chip) : Word :=
  BitVec.ofNat 32 (at_ 17 (c.ez.laneFree 2) + at_ 8 (c.ez.laneFree 1) + c.ez.laneFree 0)

/-- PWR_RGSTAT (R598, R601, R611); the ramp between points takes no time here. -/
def Chip.rgstat (c : Chip) (r : Nat) : Word :=
  let point := if r ∈ c.pwr.dozing then 3 else tabGet c.pwr.point 0 r
  c.overlay (PWR_RGSTAT r) 0x1F7 (at_ 4 (c.awake r) + point)

/-- RST_JSTAT (R566, R568): RECS counts the merged map. -/
def Chip.jstat (c : Chip) : Word :=
  c.overlay RST_JSTAT 0x1FFFFF01 (at_ 16 (mergeMap c.rep.map).length + at_ 8 (min 255 c.rep.pend.length) + bit c.rep.jwrite.isSome)

/-- The BOOT registers report the record (R537, R547). -/
def Chip.bootRead (c : Chip) (a : Nat) : Word :=
  let t := c.boot
  let lv := fun k => tabGet t.levels 0 k
  match a with
  | 0x200 => c.overlay 0x200 0xFFFF0FF (at_ 24 t.attempts + at_ 16 t.reason + at_ 12 t.fstep + at_ 4 t.step
      + at_ 3 (bit c.pal.loaded) + (if c.pal.loaded then c.pal.slot else 7))
  | 0x204 => BitVec.ofNat 32 (at_ 8 t.straps + at_ 7 (bit t.valid) + 2 ^ t.cause)
  | 0x208 => BitVec.ofNat 32 (at_ 20 (lv 5) + (List.range 4).foldl (fun s i => s + at_ (12 + 2 * i) (lv (6 + i))) 0
      + (List.range 5).foldl (fun s i => s + at_ (2 * i) (lv i)) 0)
  | 0x20C => BitVec.ofNat 32 t.section_
  | 0x210 => BitVec.ofNat 32 (at_ 16 t.boots + t.clean)
  | 0x214 | 0x218 | 0x21C =>
    let m : SlotMark := tabGet t.marks {} ((a - 0x214) / 4)
    if m.marked then BitVec.ofNat 32 (at_ 16 m.hcrc + at_ 8 m.reason + 1) else 0
  | 0x224 => BitVec.ofNat 32 t.time
  | _ => 0

/-- A read of the pages 0x0000 to 0x3FFF. DEDUCED (assumption 57). -/
def Chip.readLow (c : Chip) (dma : Bool) (a : Nat) : Word × Chip :=
  if a = CLK_TBL then c.tblRead dma
  else if a = CLK_TBH then (if dma then c.clk.dmaTb else c.clk.hostTb, c)
  else if 0x200 ≤ a ∧ a ≤ 0x224 then (c.bootRead a, c)
  else if 0x430 ≤ a ∧ a < 0x440 then (c.rgstat (arrIdx a 0x430 4), c)
  else if 0x1030 ≤ a ∧ a < 0x1040 then (c.evcAct 0 (arrIdx a 0x1030 4), c)
  else if 0x1040 ≤ a ∧ a < 0x1050 then (c.evcAct 1 (arrIdx a 0x1040 4), c)
  else if a = EVC_NEXT0 then (c.evcNext 0, c)
  else if a = EVC_NEXT1 then (c.evcNext 1, c)
  else if a = EZ_LFREE then (c.lfree, c)
  else if a = VX_QINFO then (c.qinfo, c)
  else if 0x3110 ≤ a ∧ a < 0x3500 ∧ a % 16 = 8 then
    let p := arrIdx a 0x3100 16
    (BitVec.ofNat 32 (at_ 31 (bit (c.partExists p)) + at_ 16 (c.voiceCount p) + (if c.partExists p then c.maskOf p else 0)), c)
  else (c.reg a, c)

/-- A read of a register in the pages whose chapters stand before this one: the word, whether it is refused, and the device
after it (R8, R512, R642). A WO field reads 0: it is never stored. DEDUCED (assumption 87). -/
def Chip.regRead (c : Chip) (dma : Bool) (a : Nat) : Word × Bool × Chip :=
  let plain := fun (x : Word × Chip) => (x.1, false, x.2)
  if (findReg a).isNone then (0, false, c)
  else if a < 0x4000 then plain (c.readLow dma a)
  else if 0x6100 ≤ a ∧ a < 0x6140 then plain (c.aiDataRead (arrIdx a 0x6100 4))
  else if 0x7090 ≤ a ∧ a < 0x7098 then plain (c.saDataRead (arrIdx a 0x7090 4))
  else if 0x9000 ≤ a ∧ a < 0x9400 then
    let n := arrIdx a 0x9000 0x40
    match a % 0x40 with
    | 0x0C => plain (c.tmrCntRead n dma)
    | 0x1C => plain (c.tmrCapRead n dma)
    | 0x24 => (if dma then (c.tmrOf n).hiDma else (c.tmrOf n).hiHost, false, c)
    | _ => (c.reg a, false, c)
  else if a = RST_JSTAT then (c.jstat, false, c)
  else if 0xA200 ≤ a ∧ a < 0xA280 ∧ a % 0x40 = 0x10 then ((c.xs (arrIdx a 0xA200 0x40)).status.setWidth 32, false, c)
  else if isBlockReg a then
    match (a - 0x10000) % 0x80 with
    | 0x04 => (c.blkStat (winRegion a) (winBlock a), false, c)
    | 0x1C => c.mdatRead (winRegion a) (winBlock a)
    | 0x20 => (c.blkMinfo (winRegion a) (winBlock a), false, c)
    | _ => (c.reg a, false, c)
  else (c.reg a, false, c)

end Sys2Proof.Machine
end

