-- ==== Sys2Proof/Machine/Boot.lean ====
section
/-! DEFINITION. Boot, reset and restart (chapter "Boot, reset and restart", R526 to R547), with the loading of a primer (R79, R80),
the boot part of the Saffron store and of the repair map (R562, R588), and the supply events that reset the device (R593,
R597, R607). -/

namespace Sys2Proof.Machine

/-! ### Levels, marks and failures -/

/-- The highest level of a step (R529). -/
def maxLevel (k : Nat) : Nat := if k = 7 then 2 else if (1 ≤ k ∧ k ≤ 4) ∨ k = 8 ∨ k = 9 then 1 else 0

/-- Update the boot record. -/
def State.updBoot (s : State) (f : BootRec → BootRec) : State := { s with chip := { s.chip with boot := f s.chip.boot } }

/-- The level of a step. -/
def State.level (s : State) (k : Nat) : Nat := tabGet s.chip.boot.levels 0 k

/-- The level at which a step runs: GP1 starts step 0x07 at level 1 or above (R528, R529). -/
def State.inUse (s : State) (k : Nat) : Nat := if k = 7 ∧ s.chip.boot.straps / 2 % 2 = 1 then max 1 (s.level 7) else s.level k

/-- A level rises by one above the one in use (R531): source 10. -/
def State.levelUp (s : State) (k : Nat) : State :=
  let n := s.inUse k + 1
  let s := s.updBoot fun t => { t with levels := tabSet t.levels 0 k n }
  { s with chip := s.chip.raise 10 }

/-- A slot is marked (R531, R534). -/
def State.markSlot (s : State) (slot hcrc reason : Nat) : State :=
  let s := s.updBoot fun t => { t with marks := tabSet t.marks {} slot { marked := true, hcrc := hcrc, reason := reason } }
  { s with chip := s.chip.raise 10 }

/-- A mark clears. -/
def State.unmark (s : State) (slot : Nat) : State := s.updBoot fun t => { t with marks := tabErase t.marks slot }

/-- Levels, marks and CLEAN return to 0 (R532). -/
def BootRec.clearHistory (t : BootRec) : BootRec := { t with levels := [], marks := [], clean := 0, badBucks := [] }

/-! ### The boot log (R538, R539) -/

/-- The XA byte address of a log entry. -/
def logAddr (pos : Nat) : Nat := 0x3020000 + 16 * pos

/-- An entry's bytes. -/
def logBytes (seq : Word) (step event reason attempts : Nat) (data : Word) : List Byte :=
  let b := wordBytes seq ++ [BitVec.ofNat 8 step, BitVec.ofNat 8 event, BitVec.ofNat 8 reason, BitVec.ofNat 8 attempts] ++ wordBytes data
  b ++ wordBytes (crc32 b)

/-- A log entry. -/
structure LogEntry where
  pos : Nat
  seq : Word
  step : Nat
  event : Nat
  reason : Nat
  attempts : Nat
  data : Word
  deriving DecidableEq, Repr

/-- Is a place of the log erased? -/
def NonVol.logBlank (n : NonVol) (pos : Nat) : Bool := (List.range 16).all fun i => decide (n.flash 0 (logAddr pos + i) = 0xFF)

/-- The entry at a place of the log: none where its CRC does not match or its bytes are all 0xFF. -/
def NonVol.logAt (n : NonVol) (pos : Nat) : Option LogEntry :=
  if n.logBlank pos then none
  else
    let b := n.flashBytes 0 (logAddr pos) 16
    let u := fun i => (b.getD i 0).toNat
    if wordBytes (crc32 (b.take 12)) = b.drop 12 then
      some ⟨pos, bytesWord b, u 4, u 5, u 6, u 7, bytesWord (b.drop 8)⟩
    else none

/-- The entries present. -/
def NonVol.logEntries (n : NonVol) : List LogEntry := (List.range 2048).filterMap fun p => n.logAt p

/-- The newest entry: the highest SEQ as a signed difference. -/
def logNewest (l : List LogEntry) : Option LogEntry :=
  l.foldl (fun m e => match m with
    | none => some e
    | some x => if 0 < timeDiff e.seq x.seq then some e else some x) none

/-- The entries, oldest first. -/
def logInOrder (l : List LogEntry) : List LogEntry :=
  match logNewest l with
  | none => []
  | some x => (sortBy (fun e => (x.seq - e.seq).toNat) l).reverse

/-- DATA of a load's entry (R538). DEDUCED (assumption 62). -/
def loadData (hcrc sec slot : Nat) : Word := BitVec.ofNat 32 (at_ 16 hcrc + at_ 8 (sec % 256) + slot)

/-- Program one entry at the log's place, while the log is in use. -/
def State.logPut1 (s : State) (step event reason : Nat) (data : Word) : State :=
  let t := s.chip.boot
  if t.logOn then
    let s := { s with nv := s.nv.program 0 (logAddr t.logPos) (logBytes t.logSeq step event reason t.attempts data) }
    s.updBoot fun t => { t with logSeq := t.logSeq + 1, logPos := (t.logPos + 1) % 2048 }
  else s

/-- Program failed entries for the failures that the log does not yet hold. -/
def State.logFlush (s : State) : State :=
  if s.chip.boot.logOn then
    let l := s.chip.boot.unlogged
    let s := s.updBoot fun t => { t with unlogged := [] }
    l.foldl (fun s x => s.logPut1 x.1 3 x.2.1 x.2.2) s
  else s

/-- Program an entry after those that are owed. -/
def State.logPut (s : State) (step event reason : Nat) (data : Word) : State := s.logFlush.logPut1 step event reason data

/-- A step fails (R531, R537): the record keeps the step, the reason and, of a load, the section; a log entry is owed. -/
def State.bootFail (s : State) (step reason : Nat) (data : Word) : State :=
  (s.updBoot fun t => { t with fstep := step, reason := reason, unlogged := t.unlogged ++ [(step, reason, data)] }).logFlush

/-- What a walk over the log rebuilds (R539). -/
structure LogWalk where
  levels : Tab Nat := []
  marks : Tab SlotMark := []
  clean : Nat := 0
  attempts : Nat := 0
  begun : Option LogEntry := none
  ran : Bool := false
  deriving DecidableEq, Repr

/-- BOOT_LEVEL's levels (R547). DEDUCED (assumption 62). -/
def levelsOf (w : Word) : Tab Nat :=
  (List.range 10).foldl (fun t k =>
    tabSet t 0 k (if k = 5 then fieldOf w 20 3 else if k < 5 then fieldOf w (2 * k) 2 else fieldOf w (12 + 2 * (k - 6)) 2)) []

/-- A begun entry with no ending is an interruption (R539): the level rises, or the slot is marked, and an attempt cut so has not
reached RUN (R532). -/
def LogWalk.interrupt (w : LogWalk) : LogWalk :=
  match w.begun with
  | none => w
  | some e =>
    let w := { w with begun := none, clean := if w.ran then w.clean else 0 }
    if e.step = 0x0C then
      { w with marks := tabSet w.marks {} (fieldOf e.data 0 3) { marked := true, hcrc := fieldOf e.data 16 16, reason := 0x21 } }
    else { w with levels := tabSet w.levels 0 e.step (min (maxLevel e.step) (tabGet w.levels 0 e.step + 1)) }

/-- One entry of the walk; an outcome that brings CLEAN to 16 clears the history at the next attempt (R532), which any entry but a
run-time load's begins. A failure of step 0x02 with reason 0x25 is the EPLL's, which raises the level, or the APLL's, which does not:
the log does not tell them apart. DESIGN CHOICE (assumption 7). -/
def LogWalk.take (ctr : Nat) (w : LogWalk) (e : LogEntry) : LogWalk :=
  let w := if w.ran && decide (e.step ≠ 0x0C) then
      let v := w.interrupt
      { (if v.clean = 16 then { v with levels := [], marks := [], clean := 0 } else v) with ran := false }
    else w
  let w := { w with attempts := e.attempts }
  let slot := fieldOf e.data 0 3
  match e.event with
  | 1 => { w.interrupt with begun := some e }
  | 2 => if e.step = 0x0C then { w with begun := none, marks := tabErase w.marks slot } else { w with begun := none }
  | 3 =>
    let w := match w.begun with
      | some b => if b.step = e.step then { w with begun := none } else w
      | none => w
    if e.step = 0x0C then
      { w with marks := tabSet w.marks {} slot { marked := true, hcrc := fieldOf e.data 16 16, reason := e.reason } }
    else if e.step = 2 ∧ e.reason = 0x25 ∧ Config.freeBool ctr (810000 + e.pos) then w
    else { w with levels := tabSet w.levels 0 e.step (min (maxLevel e.step) (tabGet w.levels 0 e.step + 1)) }
  | 4 =>
    let w := { w.interrupt with levels := levelsOf e.data }
    if e.step = 0x0E then { w with clean := min 16 (w.clean + 1), ran := true } else { w with clean := 0 }
  | _ => w

/-- The record is rebuilt from the log when it did not survive (R539). The levels found so far in this attempt stay where
they are higher; ATTEMPTS takes the newest entry's count and is 1 at least. DEDUCED (assumption 62).
DESIGN CHOICE (assumption 7). -/
def State.logRebuild (s : State) (l : List LogEntry) : State :=
  let w := l.foldl (LogWalk.take s.chip.ctr) {}
  let v := w.interrupt
  let w' := if v.ran && decide (v.clean = 16) then { v with levels := [], marks := [] } else v
  let clean := if v.ran && decide (v.clean < 16) then v.clean else 0
  let s := s.updBoot fun t => { t with
    levels := (List.range 10).foldl (fun x k => tabSet x 0 k (max (tabGet x 0 k) (tabGet t.levels 0 k))) w'.levels
    marks := w'.marks, clean := clean, attempts := min 8 (max 1 v.attempts) }
  match w.begun with
  | some e => { s with chip := s.chip.raise 10 }.bootFail e.step 0x21 e.data
  | none => s

/-- Erased entries from a place on, before the ring reaches one that is not. -/
def NonVol.logFree (n : NonVol) (pos : Nat) : Nat := ((List.range 2048).takeWhile fun i => n.logBlank ((pos + i) % 2048)).length

/-- The log is opened (R539): the next place and number are found, and the sector ahead is erased when fewer than 16 entries are free.
The number of a first entry is open. DESIGN CHOICE (assumption 7). -/
def State.logOpen (s : State) : State :=
  let l := s.nv.logEntries
  let start := match logNewest l with
    | some e => (e.pos + 1) % 2048
    | none => 0
  let skip := ((List.range 2048).takeWhile fun i => !s.nv.logBlank ((start + i) % 2048)).length
  let pos := (start + skip) % 2048
  let seq := match logNewest l with
    | some e => e.seq + 1
    | none => Config.freeWord s.chip.ctr 808000
  let free := s.nv.logFree pos
  let s := if free < 16 then { s with nv := s.nv.erase 0 (logAddr ((pos + free) % 2048)) 4096 } else s
  s.updBoot fun t => { t with logOn := true, logSeq := seq, logPos := pos }

/-- Step 0x08's scan of the log (R539): it is opened, and the record is rebuilt where it was lost.
DESIGN CHOICE (assumption 7). -/
def State.logScan (s : State) : State :=
  let l := s.nv.logEntries
  let s := s.logOpen
  if s.chip.boot.valid then s else s.logRebuild (logInOrder l)

/-! ### Loading a primer (R76, R79, R80) -/

/-- An image slot as the loader reads it (R76); a port with no device reads as erased flash. -/
def State.image (s : State) (slot : Nat) : Img :=
  let place := if slot = 0 then (0, 0) else if slot = 2 then (0, 0x1000000)
    else if s.chip.is (XS_STAT_NODEV 1) then (0, 0x2000000) else (1, 0)
  fun i => if s.chip.is (XS_STAT_NODEV place.1) then 0xFF else s.nv.flash place.1 (place.2 + i)

/-- The Saffron store as it stands. -/
def State.store (s : State) : StoreKeys := { slots := s.nv.slots, locked := s.chip.saf.storeLocked, signreq := s.nv.signreq }

/-- What a load of a slot depends on: of the store, what it read at its own step 4 where that is past (R578). -/
def State.loadCtx (s : State) (slot : Nat) : LoadCtx :=
  let k := s.chip.boot.keys.getD s.store
  { slot := slot, family := s.chip.fld CLK_STAT_FAMILY, step := (s.chip.reg CHIP_STEP).toNat % 256, keys := k.slots
    locked := k.locked, signreq := k.signreq }

/-- A part that the primer creates (R68, R300). -/
def Chip.applyPart (c : Chip) (d : PartDefault) : Chip :=
  let c := ((c.setFld (PAL_PCFG_TEMPLATE d.id) d.template).setFld (PAL_PCFG_CLASS d.id) d.cls).setFld (PAL_PCFG_VLIMIT d.id)
    (if 1536 < d.limit then 0 else d.limit)
  let c := (c.setFld (PAL_PCFG_GLAZE d.id) (min 255 d.glaze)).regStore (PAL_POL d.id) d.policy
  (c.paramWrites (64 * d.id) d.page).makePart d.id

/-- The primer's register writes, as host writes (R69). -/
def Chip.applyRegs (c : Chip) (l : List (Nat × Word)) : Chip :=
  c.forL l fun w c => let d : Chip := (c.regWrite w.1 w.2).2; { d with ctr := d.ctr + 1 }

/-- Step 9 of R79: banks, palette, parts, register defaults, then the mode and the engine's start. Banks of a region out of
service hold nothing. -/
def State.applyPrimer (s : State) (x : Primer) : State :=
  let c : Chip := { s.chip with pal := x.pal }
  let c := (c.forL x.parts fun d c => c.applyPart d).applyRegs x.regs
  let banks := c.pwr.oos.foldl (fun b r => tabClear b (0x1000000 + r * 0x400000) 0x400000) x.banks
  { s with chip := (c.emodeWrite x.mode).estopClear, mem := { banks := banks, ecc := [] } }

/-- Can a load that fails have written the banks (R79, R80)? An encrypted image's plaintext goes to them before its tag is checked;
any other image is checked whole first. DEDUCED (assumption 65). -/
def loadWrote (m : Img) (reason : Nat) : Bool := imgFlag m 1 && decide (0x0A ≤ reason ∧ reason ≠ 0x13)

/-- A load fails (R80, R531, R534): nothing of the image is in force, the banks it wrote are erased, and the slot is marked.
DEDUCED (assumption 65). -/
def State.loadFail (s : State) (slot reason sec : Nat) : State :=
  let hcrc := imgHcrc (s.image slot)
  let c : Chip := { s.chip with pal := {}, saf := { s.chip.saf with prot := false } }
  let s := { s with chip := { c with boot := { c.boot with loading := none, keys := none, section_ := sec } }
                    mem := if loadWrote (s.image slot) reason then {} else s.mem }
  (s.markSlot slot hcrc reason).bootFail 0x0C reason (loadData hcrc sec slot)

/-- A load starts: its begun entry is programmed first (R538). -/
def State.loadBegin (s : State) (slot : Nat) : State :=
  let hcrc := imgHcrc (s.image slot)
  let data := loadData hcrc (Config.freeWord s.chip.ctr 808001).toNat slot
  (s.logPut 0x0C 1 0 data).updBoot fun t => { t with loading := some (slot, hcrc) }

/-- A load that has not ended may have passed step 2 of R79, with which PROT sets for an image under FLAGS.PROTECT (R579).
DESIGN CHOICE (assumption 7). -/
def State.protBegins (s : State) (slot : Nat) : State :=
  let m := s.image slot
  let x := s.loadCtx slot
  let past := (headerStep1 m <|> headerStep2 m x.family x.step).isNone && Config.freeBool s.chip.ctr 808006
  { s with chip := { s.chip with saf := { s.chip.saf with prot := s.chip.saf.prot || (past && imgFlag m 2) } } }

/-- The load of a slot runs (R79): true when its primer is in force. -/
def State.loadRun (s : State) (slot : Nat) : Bool × State :=
  let m := s.image slot
  match loadImage (s.loadCtx slot) m with
  | .error (reason, sec) => (false, s.loadFail slot reason sec)
  | .ok x =>
    let s := s.applyPrimer x
    let c : Chip := { s.chip with saf := { s.chip.saf with prot := imgFlag m 2 } }
    let s := (State.unmark { s with chip := c } slot).updBoot fun t => { t with loading := none, keys := none }
    (true, s.logPut 0x0C 2 0 (loadData (imgHcrc m) (Config.freeWord s.chip.ctr 808002).toNat slot))

/-! ### Resets (R526, R527) -/

/-- The chip as a reset leaves it (R527): what the keep-alive domain holds stays, TB counts on where the EPLL does.
DESIGN CHOICE (assumption 5). -/
def Chip.reset (c : Chip) (tbRuns : Bool) : Chip :=
  let d : Chip := { ctr := c.ctr + 1, cvg := cvGroupsReset, gpIn := c.gpIn, tap := c.tap, boot := { c.boot with logOn := false }
                    clk := { tb := if tbRuns then c.clk.tb else 0 }
                    saf := { tamper := c.saf.tamper, fails := c.saf.fails, prot := c.saf.prot }
                    pwr := { vin := c.pwr.vin, rest := c.pwr.vin } }
  d.putB PWR_STAT_OTSD (c.is PWR_STAT_OTSD)

/-- Every provisioned maker key slot is burned to erased (R585); what its HPRE reads then is open.
DESIGN CHOICE (assumption 66). -/
def NonVol.burnKeys (n : NonVol) (ctr : Nat) : NonVol :=
  let left := fun k => (List.range 2).map fun i => (Config.freeWord ctr (808010 + 2 * k + i)).setWidth 8
  { n with slots := n.slots.map fun p => if p.2.st = 1 then (p.1, { st := 3, hash := left p.1 }) else p, erased := true }

/-- What a reset leaves of writes under way in flash and in the key store: a journal write stops between its stages (R541); a
program or erase that the flash has taken may or may not be whole; a burn, which follows the stop of the engine, is resumed where it
had begun (R585).
DESIGN CHOICE (assumption 66). -/
def State.tornNv (s : State) : NonVol :=
  let n := s.journalTorn
  let n := [0, 1].foldl (fun n x => match (s.chip.xs x).op with
    | some o => if Config.freeBool s.chip.ctr (808003 + x) then n.xsApply x o else n
    | none => n) n
  let burns := s.chip.saf.unlocking && s.chip.clk.stopAt.isNone && !s.chip.pal.loaded
  if burns && Config.freeBool s.chip.ctr 808005 then n.burnKeys s.chip.ctr else n

/-- A reset is taken (R527). -/
def State.resetNow (s : State) (tbRuns : Bool) : State := { s with chip := s.chip.reset tbRuns, nv := s.tornNv }

/-- A load that stand-aside or a reset cuts short marks its slot (R534). DEDUCED (assumption 58). -/
def State.cutLoad (s : State) : State :=
  match s.chip.boot.loading with
  | some (slot, hcrc) =>
    let s := (s.markSlot slot hcrc 0x21).bootFail 0x0C 0x21 (loadData hcrc 0x1FF slot)
    s.updBoot fun t => { t with loading := none, keys := none, section_ := 0x1FF }
  | none => s

/-- Has port XA answered in this attempt (R536)? -/
def State.xaAnswered (s : State) : Bool := decide (8 ≤ s.chip.boot.step) && !s.chip.is (XS_STAT_NODEV 0)

/-- Stand-aside (R536): the outcome entry, where port XA answered in the attempt, then every buck stops and the memories lose their
content. DEDUCED (assumption 59). -/
def State.standAside (s : State) (reason : Nat) : State :=
  let s := s.cutLoad
  let s := if !s.chip.boot.logOn && s.xaAnswered then s.logOpen else s
  let s := s.logPut 0x0F 4 reason (s.chip.bootRead 0x208)
  let s := State.resetNow s false
  let s := s.updBoot fun t => { t with step := 0x0F, loading := none, tries := [], clean := if t.attempts = 0 then t.clean else 0 }
  { s with chip := s.chip.clr PWR_BUCK_BKC_OK, mem := {} }

/-! ### The steps (R529) -/

/-- How a step ends: done, failed with a reason, or with the attempt over. -/
inductive StepEnd where
  | done (s : State)
  | failed (s : State) (reason : Nat)
  | over (s : State)

/-- Step 0x01, SUPPLY. -/
def stepSupply (e : BootEnv) (s : State) : StepEnd :=
  if e.bkc = false then .over ((s.bootFail 1 0x22 0).standAside 0x22)
  else
    let c := s.chip.set1 PWR_BUCK_BKC_OK
    if 1 ≤ s.level 1 then .done { s with chip := { c with pwr := { c.pwr with convOff := true } } }
    else if e.bka then .done { s with chip := c.set1 PWR_BUCK_BKA_OK }
    else .failed { s with chip := c } 0x22

/-- The family of a reference frequency (R23). -/
def familyOf (hz : Nat) : Option Nat :=
  if 24084480 ≤ hz ∧ hz ≤ 25067520 then some 0 else if 22127616 ≤ hz ∧ hz ≤ 23030784 then some 1 else none

/-- Step 0x02, CLOCK (R23, R26). DEDUCED (assumption 61). -/
def stepClock (e : BootEnv) (s : State) : StepEnd :=
  let hz := if s.level 2 = 0 then e.xti0 else e.xti1
  if hz = 0 then .failed s 0x23
  else match familyOf hz with
    | none => .failed s 0x24
    | some f =>
      if (if s.level 2 = 0 then e.epll0 else e.epll1) = false then .failed s 0x25
      else
        let c := (s.chip.setFld CLK_STAT_FAMILY f).set1 CLK_STAT_EPLL_LOCK
        if c.pwr.convOff then .done { s with chip := c }
        else if e.apll then .done { s with chip := c.set1 CLK_STAT_APLL_LOCK }
        else .done (State.bootFail { s with chip := { c with pwr := { c.pwr with convOff := true } } } 2 0x25 0)

/-- Step 0x03, FUSE. -/
def stepFuse (e : BootEnv) (s : State) : StepEnd :=
  if (if s.level 3 = 0 then e.fuse0 else e.fuse1) then .done s else .failed s 0x26

/-- The tamper state sets (R588): a fuse is burned. -/
def State.tamperSet (s : State) : State :=
  let c : Chip := { s.chip with saf := { s.chip.saf with tamper := true } }
  { s with chip := c.raise 106, nv := { s.nv with tleft := s.nv.tleft - 1 } }

/-- Step 0x04, SAFFRON (R588). DEDUCED (assumption 67). -/
def stepSaffron (e : BootEnv) (s : State) : StepEnd :=
  if 1 ≤ s.level 4 then .done { s with chip := { s.chip with saf := { s.chip.saf with storeLocked := true } } }
  else if e.store = false ∧ s.chip.saf.tamper = false then .failed s.tamperSet 0x27
  else if e.store = false ∨ s.chip.saf.tamper = true ∨ s.nv.tleft = 0 then .failed s 0x27
  else .done s

/-- A region that runs on no buck, or is left with none of its blocks, is out of service (R529, R562). -/
def Chip.regionOff (c : Chip) (r : Nat) : Chip :=
  let c := ((c.set1 (RGNn_FAULT_OOS r)).setFld (RGNn_SPARE_OUT r) 24).raise 13
  let c : Chip := { c with pwr := { c.pwr with oos := r :: c.pwr.oos.erase r } }
  c.forN 24 fun b c => c.updBlk (blkKey r b) fun x => { x with st := .failed }

/-- Step 0x05, REGIONS: memories are cleared (R527, R579); regions whose buck fails, has failed, or stands replaced in the
baseline do not run on it. DEDUCED (assumption 60). -/
def stepRegions (e : BootEnv) (s : State) : StepEnd :=
  let t := s.chip.boot
  let bad := (List.range 4).filter fun r => decide (r ∈ t.badBucks) || !e.bk.getLsbD r
    || s.nv.fuses.any fun x => decide (x.kind = 7 ∧ x.unit = r)
  let newly := bad.filter fun r => decide (r ∉ t.badBucks)
  let s := s.updBoot fun t => { t with badBucks := bad, levels := tabSet t.levels 0 5 bad.length }
  let s := if newly = [] then s else { s with chip := s.chip.raise 10 }.bootFail 5 0x22 0
  let c : Chip := { s.chip with saf := { s.chip.saf with prot := false } }
  let c := c.setFld PWR_BUCK_RG_OK (((List.range 4).filter fun r => decide (r ∉ bad)).foldl (fun a r => a + 2 ^ r) 0)
  let c := match bad with
    | r :: _ => { c with pwr := { c.pwr with standIn := some r } }.set1 (RGNn_FAULT_STANDIN r)
    | [] => c
  let c := c.forL bad.tail fun r c => c.regionOff r
  .done { s with chip := c.forN 4 fun r c => c.pointUp r, mem := {} }

/-- Step 0x06, HOST. -/
def stepHost (s : State) : StepEnd := .done s

/-- Does a port pass step 0x07 at a level; none, or the reason it fails. -/
def portCheck (p : PortEnv) (level : Nat) : Option Nat :=
  if p.sfdp = false then some 0x29 else if level = 0 ∧ p.ddr = false then some 0x2A else none

/-- Configure a port for a level (R454). -/
def Chip.portConfig (c : Chip) (x : Nat) (p : PortEnv) (level : Nat) : Chip :=
  match level with
  | 0 => ((c.set1 (XS_CFG_PROTO x)).setFld (XS_CFG_CLKDIV x) 0).setFld (XS_CFG_DUMMY x) p.dummy.toNat
  | 1 => (c.clr (XS_CFG_PROTO x)).setFld (XS_CFG_CLKDIV x) 3
  | _ => (c.clr (XS_CFG_PROTO x)).setFld (XS_CFG_CLKDIV x) 7

/-- Settle the ports after step 0x07: a port that does not pass has no device. DEDUCED (assumption 60). -/
def Chip.portsSettle (c : Chip) (e : BootEnv) (level : Nat) : Chip :=
  c.forL [(0, e.xa), (1, e.xb)] fun p c =>
    if p.2.answers = true ∧ portCheck p.2 level = none then c.portConfig p.1 p.2 level else c.set1 (XS_STAT_NODEV p.1)

/-- Step 0x07, XSPI: a port on which no device answers fails the step only when the other has none either; GP1 starts it at
level 1. DEDUCED (assumption 60). DEDUCED (assumption 61). -/
def stepXspi (e : BootEnv) (s : State) : StepEnd :=
  let level := s.inUse 7
  let s := { s with chip := s.chip.set1 CLK_STAT_XPLL_LOCK }
  let why := if e.xa.answers = false ∧ e.xb.answers = false then some 0x28
    else ([e.xa, e.xb].filter fun p => p.answers).findSome? fun p => portCheck p level
  match why with
  | none => .done { s with chip := s.chip.portsSettle e level }
  | some r => .failed s r

/-- The records of a journal body (R566): KIND 0 and 8 to 255 are ignored. -/
def repairsOf (b : List Byte) : List Repair :=
  ((List.range (b.length / 8)).map fun i =>
    let u := fun k => (b.getD (8 * i + k) 0).toNat
    ({ kind := u 0, unit := u 1, loc := u 2 + 256 * u 3, spare := u 4, code := u 5, boots := u 6 + 256 * u 7 } : Repair)).filter
      fun x => decide (1 ≤ x.kind ∧ x.kind ≤ 7)

/-- A journal copy that is valid (R540): its SEQ and body. -/
def NonVol.journalCopy (n : NonVol) (copy : Nat) : Option (Word × List Byte) :=
  let a := journalBase copy
  let len := (n.flashWord 0 (a + 8)).toNat
  if n.flashBytes 0 a 4 ≠ [0x47, 0x56, 0x4A, 0x4E] ∨ len % 4 ≠ 0 ∨ 65520 < len then none
  else
    let body := n.flashBytes 0 (a + 16) len
    if crc32 (n.flashBytes 0 a 12 ++ body) = n.flashWord 0 (a + 12) then some (n.flashWord 0 (a + 4), body) else none

/-- The copy in force (R540). -/
def NonVol.journalInForce (n : NonVol) : Option (Nat × Word × List Byte) :=
  match n.journalCopy 0, n.journalCopy 1 with
  | some x, some y => if 0 < timeDiff y.1 x.1 then some (1, y) else some (0, x)
  | some x, none => some (0, x)
  | none, some y => some (1, y)
  | none, none => none

/-- The copy that a journal write leaves alone, and its SEQ (R541). -/
def State.journalChoice (s : State) : State :=
  let rp := s.chip.rep
  let rp := match s.nv.journalInForce with
    | some (copy, seq, _) => { rp with jseq := seq, jcopy := copy }
    | none => { rp with jcopy := 1 }
  { s with chip := { s.chip with rep := rp } }

/-- Step 0x08 has timed out at its last level (R529): the boot goes on with the eFuse baseline, and writes to the journal and
the log go on where they stand. DEDUCED (assumption 61). -/
def State.journalGivenUp (s : State) : State :=
  if s.chip.is (XS_STAT_NODEV 0) then s
  else (State.logScan { s with chip := { s.chip with rep := { s.chip.rep with map := mergeMap s.nv.fuses } } }).journalChoice

/-- Step 0x08, JOURNAL: with no device on XA there is neither journal nor log (R541). The copy in force is the one the next
write leaves alone, whatever the level; with none, the next write takes copy 0. DEDUCED (assumption 61). -/
def stepJournal (s : State) : StepEnd :=
  if s.chip.is (XS_STAT_NODEV 0) then
    .done { s with chip := { s.chip with rep := { s.chip.rep with map := mergeMap s.nv.fuses } } }
  else
    let j := s.nv.journalInForce
    match j with
    | none => if s.level 8 = 0 then .failed s 0x2B else
      .done (State.logScan { s with chip := { s.chip with rep := { s.chip.rep with map := mergeMap s.nv.fuses, jcopy := 1 } } })
    | some (copy, seq, body) =>
      let map := if s.level 8 = 0 then s.nv.fuses ++ repairsOf body else s.nv.fuses
      .done (State.logScan { s with chip := { s.chip with rep := { s.chip.rep with map := mergeMap map, jseq := seq, jcopy := copy } } })

/-- A record of the stored map is applied (R562). DEDUCED (assumption 62). -/
def Chip.applyStored (c : Chip) (x : Repair) : Chip :=
  let r := x.unit % 4
  match x.kind with
  | 1 => c.showSpares (x.unit % 8)
  | 2 =>
    let c := c.setFld (if x.spare = 0 then RGNn_SPARE_SB0 r else RGNn_SPARE_SB1 r) x.loc
    (c.setFld (RGNn_SPARE_FREE r) (c.fld (RGNn_SPARE_FREE r) - 1)).updBlk (blkKey r (x.loc % 24)) fun b => { b with spare := x.spare }
  | 3 =>
    let b := x.loc / 16 % 24
    let c := c.updBlk (blkKey r b) fun k => { k with sc := .standIn, scCell := x.loc % 16 }
    (c.setFld (BLK_SCST_FOR r b) x.loc).setFld (RGNn_SPARE_SCIN r) (c.fld (RGNn_SPARE_SCIN r) + 1)
  | 4 =>
    let b := x.loc % 24
    ((c.updBlk (blkKey r b) fun k => { k with scFailed := true }).set1 (BLK_SCST_DEAD r b)).setFld (RGNn_SPARE_SCDEAD r)
      (c.fld (RGNn_SPARE_SCDEAD r) + 1)
  | 5 => (c.set1 (CV_GCTL_SPUSE r)).setFld (CV_GCTL_SPCH r) x.loc
  | 6 => c.setCv (8 * r + x.loc % 8) { c.cvOf (8 * r + x.loc % 8) with lost := true }
  | _ => c

/-- A block that the quick test fails (R556, R559, R560): it stands as after its held fade (R355), and a spare is bound, or the block
leaves service. DEDUCED (assumption 63). -/
def Chip.bootBlockFail (c : Chip) (r b cell : Nat) : Chip :=
  let k := blkKey r b
  let c := (c.blkFault r b 0 cell 0x22).updBlk k fun x => { x with st := .failed }
  let f : BlockFade := { heldKind := true, start := 0 }
  let c : Chip := { c with cnv := { c.cnv with fades := tabSet c.cnv.fades none k (some f) } }
  (c.setReg (CNV_BFADE r) (c.reg (CNV_BFADE r) ||| (1#32 <<< b))).heldEnd r b

/-- A finding of the quick test (R562): a row, a working cell, or a standby cell. DEDUCED (assumption 63). -/
def Chip.applyFinding (c : Chip) (f : Finding) : Chip :=
  let r := f.unit % 4
  if f.kind = 1 then
    if c.is (RGNn_FAULT_OOS (f.unit % 8 / 2)) then c else c.rowRepair (f.unit % 8) (f.loc % 8192 / 4) (f.loc % 4)
  else if c.is (RGNn_FAULT_OOS r) then c
  else
    let b := (if f.kind = 3 then f.loc / 16 else f.loc) % 24
    let x := c.blk (blkKey r b)
    if x.st = .failed ∨ x.st = .gated then c
    else if f.kind = 3 then
      if x.sc = .standIn ∨ x.scFailed = true then c.bootBlockFail r b (f.loc % 16) else c.standIn r b (f.loc % 16)
    else if f.kind = 4 then
      if x.sc = .standIn then c.bootBlockFail r b 8 else if x.scFailed then c else c.standbyDead r b
    else c

/-- Is any region in service (R562)? -/
def Chip.anyRegion (c : Chip) : Bool := (List.range 4).any fun r => !c.is (RGNn_FAULT_OOS r)

/-- Step 0x09, REPAIR (R562): the stored map, then at level 0 the quick test's findings. -/
def stepRepair (e : BootEnv) (s : State) : StepEnd :=
  let c := s.chip.forL s.chip.rep.map fun x c => c.applyStored x
  let c := if s.level 9 = 0 then c.forL e.findings fun f c => { c.applyFinding f with ctr := c.ctr + 1 } else c
  let c := c.forN 4 fun r c => if 24 ≤ c.fld (RGNn_SPARE_OUT r) ∧ c.is (RGNn_FAULT_OOS r) = false then c.regionOff r else c
  let s := State.logPut { s with chip := c } 9 2 0 0
  if c.anyRegion then .done s else .over (s.standAside 0)

/-! ### Selection and loading -/

/-- No image loads (R529, R535): stand-aside, or host hold. DEDUCED (assumption 64). -/
def State.noImage (s : State) : State :=
  if s.chip.boot.straps % 2 = 1 then s.updBoot fun t => { t with step := 0x0A, tries := [] } else s.standAside s.chip.boot.reason

/-- Steps 0x0D and 0x0E: the attempt enters RUN (R532, R533, R546). -/
def State.enterRun (s : State) (us : Nat) : State :=
  let s := s.updBoot fun t => { t with step := 0x0E, tries := [], attempts := 0, clean := min 16 (t.clean + 1), time := min us 0xFFFFFF }
  State.logPut { s with chip := s.chip.raise 9 } 0x0E 4 0 (s.chip.bootRead 0x208)

/-- Step 0x0C over the slots left to try (R535); a load that has not ended waits. -/
def State.loads (e : BootEnv) : List Nat → State → State
  | [], s => s.noImage
  | slot :: rest, s =>
    let s := (s.updBoot fun t => { t with step := 0x0C, tries := rest }).loadBegin slot
    if e.stall = some 0x0C then s.protBegins slot
    else match s.loadRun slot with
      | (true, s) => s.enterRun e.us
      | (false, s) => State.loads e rest s

/-- Marks of slots that hold another image now clear (R534). -/
def State.dropMarks (s : State) : State :=
  [0, 1, 2].foldl (fun s slot =>
    let m : SlotMark := tabGet s.chip.boot.marks {} slot
    if m.marked ∧ m.hcrc ≠ imgHcrc (s.image slot) then s.unmark slot else s) s

/-- Is a slot a candidate (R78)? DEDUCED (assumption 64). -/
def State.candidate (s : State) (slot : Nat) : Bool := (candidateFail (s.loadCtx slot) (s.image slot)).isNone

/-- Is a slot marked? -/
def State.marked (s : State) (slot : Nat) : Bool := (tabGet s.chip.boot.marks ({} : SlotMark) slot).marked

/-- The slots to try, in order (R78, R528, R535). -/
def State.tryOrder (s : State) : List Nat :=
  let rec_ := decide (s.chip.boot.straps / 4 % 2 = 1)
  let ok := fun slot => !s.marked slot && s.candidate slot
  let seq := fun slot => BitVec.ofNat 32 (imgU (s.image slot) 0x20 4)
  let fields := if rec_ then [] else if decide (0 < timeDiff (seq 1) (seq 0)) then [1, 0] else [0, 1]
  fields.filter ok ++ (if (rec_ || !s.marked 2) && s.candidate 2 then [2] else [])

/-- With no candidate, the reason of each slot that selection looked at (R529, R78). DEDUCED (assumption 64). -/
def State.slotReasons (s : State) : List Nat :=
  let rec_ := decide (s.chip.boot.straps / 4 % 2 = 1)
  let seen := (if rec_ then [] else [0, 1].filter fun k => !s.marked k) ++ (if rec_ || !s.marked 2 then [2] else [])
  seen.filterMap fun k => candidateFail (s.loadCtx k) (s.image k)

/-- Step 0x0B, SELECT, and what follows it: with no candidate it fails with the reasons of the slots and then 0x2D (R535).
DEDUCED (assumption 64). -/
def State.select (e : BootEnv) (s : State) : State :=
  let s := s.dropMarks
  match s.tryOrder with
  | [] => ((s.slotReasons.foldl (fun s n => s.bootFail 0x0B n 0) s).bootFail 0x0B 0x2D 0).noImage
  | l => s.loads e l

/-! ### The sequencer -/

/-- One step at its level. -/
def runStep (k : Nat) (e : BootEnv) (s : State) : StepEnd :=
  match k with
  | 1 => stepSupply e s
  | 2 => stepClock e s
  | 3 => stepFuse e s
  | 4 => stepSaffron e s
  | 5 => stepRegions e s
  | 6 => stepHost s
  | 7 => stepXspi e s
  | 8 => stepJournal s
  | 9 => stepRepair e s
  | 10 => if s.chip.boot.straps % 2 = 1 then .over s else .done s
  | _ => .over (s.select e)

/-- What a step does when no level remains (R529); none where the attempt goes on. DEDUCED (assumption 59).
DEDUCED (assumption 61). -/
def giveUp (k : Nat) (reason : Nat) (s : State) : Bool × State :=
  match k with
  | 1 | 2 | 3 => (false, s.standAside reason)
  | 4 => (true, { s with chip := { s.chip with saf := { s.chip.saf with storeLocked := true } } })
  | 8 => (true, s.journalGivenUp)
  | 0x0B => (false, s.noImage)
  | _ => (true, s)

/-- Run the steps from k on (R529, R531): a failed step runs again at its next level, or takes its last action; a step that
has not ended waits. `n` bounds the steps and retries of an attempt. DEDUCED (assumption 9). -/
def bootRun (e : BootEnv) : Nat → Nat → State → State
  | 0, _, s => s
  | n + 1, k, s =>
    let s := s.updBoot fun t => { t with step := k }
    let s := if k = 9 then s.logPut 9 1 0 0 else s
    if e.stall = some k ∧ (k ≤ 5 ∨ (7 ≤ k ∧ k ≤ 9) ∨ k = 0x0B) then s
    else match runStep k e s with
      | .done s => bootRun e n (k + 1) s
      | .over s => s
      | .failed s reason =>
        let s := s.bootFail k reason 0
        if s.inUse k < maxLevel k then bootRun e n k (s.levelUp k)
        else if k = 7 then bootRun e n 8 { s with chip := s.chip.portsSettle e 2 }
        else
          let (go, s) := giveUp k reason s
          if go then bootRun e n (k + 1) s else s

/-- The step that a reset interrupts (R531, R544): one that can fail and has not ended. DEDUCED (assumption 58). -/
def BootRec.underWay (t : BootRec) : Option Nat :=
  if t.loading.isSome then some 0x0C
  else if (1 ≤ t.step ∧ t.step ≤ 5) ∨ (7 ≤ t.step ∧ t.step ≤ 9) ∨ t.step = 0x0B then some t.step
  else none

/-- The record of an interruption (R531, R534): the level of the step rises where one is left, or the slot is marked.
DEDUCED (assumption 58). -/
def State.interrupted (s : State) : State :=
  let t := s.chip.boot
  match t.underWay with
  | none => s
  | some k =>
    if t.loading.isSome then s.cutLoad
    else
      let s := s.bootFail k 0x21 0
      if s.inUse k < maxLevel k then s.levelUp k else s

/-- An attempt begins (R529 step 0x00, R531 to R533, R537): `cause` is coded as BOOT_CAUSE.CAUSE's bit. Its eighth unsuccessful
predecessor in a row sends it to stand-aside. DEDUCED (assumption 9). DEDUCED (assumption 58). -/
def State.attempt (s : State) (cause : Nat) (e : BootEnv) : State :=
  let s := s.updBoot fun t => if t.clean = 16 then t.clearHistory else t
  let s := (s.updBoot fun t => { t with unlogged := [] }).interrupted
  let s := s.updBoot fun t => { t with
    valid := decide (cause ≠ 0), cause := cause, straps := e.straps.toNat, time := 0, tries := [], step := 0
    boots := min 0xFFFF (t.boots + 1), clean := if t.attempts = 0 then t.clean else 0, attempts := min 8 (t.attempts + 1)
    chip := 0 }
  bootRun e 64 1 s

/-- A reset and the attempt that follows it. -/
def State.restart (s : State) (cause : Nat) (tbRuns : Bool) (e : BootEnv) : State :=
  let full := decide (s.chip.boot.attempts = 8)
  let code := s.chip.boot.chip
  let s := s.resetNow tbRuns
  let s := if cause = 4 then { s with chip := s.chip.setFld CHIP_FAULT_CODE code } else s
  if full then
    let s := (s.updBoot fun t => { t with unlogged := [] }).interrupted
    (s.updBoot fun t => { t with cause := cause, valid := true, boots := min 0xFFFF (t.boots + 1), step := 0 }).standAside 0
  else s.attempt cause e

/-! ### Commands of BOOT_CTL (R542 to R545) -/

/-- CLRHIST acts (R532). -/
def State.clrHist (s : State) : State := s.updBoot fun t => { t.clearHistory with attempts := 0 }

/-- LOAD = 1 in RUN (R543): the engine stops, and once it has stopped everything is unloaded. DEDUCED (assumption 65). -/
def State.loadAtRun (s : State) (slot : Nat) : State :=
  let s := s.loadBegin slot
  let c := s.chip.estopSet
  { s with chip := if c.stopped then c.unloadPrimer else c }

/-- Is a BOOT_CTL write refused (R545)? -/
def State.bootCtlRefused (s : State) (v : Word) : Bool :=
  let step := s.chip.boot.step
  decide (fieldOf v 16 16 ≠ 0xB007) || (!v.getLsbD 0 && ((v.getLsbD 1 && decide (step ≠ 0x0A))
    || (v.getLsbD 2 && decide (step ≠ 0x0A ∧ step ≠ 0x0E)) || decide (fieldOf v 8 2 = 3) || (v.getLsbD 2 && v.getLsbD 1)))

/-- A BOOT_CTL write (R542 to R545); true where it is refused. -/
def State.bootCtl (s : State) (v : Word) (e : BootEnv) : Bool × State :=
  if s.bootCtlRefused v then (true, { s with chip := s.chip.set1 BOOT_STAT_CMDREJ })
  else if v.getLsbD 0 then (false, s.restart 3 true e)
  else
    let s := if v.getLsbD 4 then s.clrHist else s
    if v.getLsbD 1 then (false, bootRun e 64 0x0B s)
    else if v.getLsbD 2 then
      (false, if s.chip.boot.step = 0x0A then s.loads e [fieldOf v 8 2] else s.loadAtRun (fieldOf v 8 2))
    else (false, s)

/-- A BOOT_CTL write by the host (R512). DESIGN CHOICE (assumption 85). -/
def State.hostBootCtl (s : State) (v : Word) (e : BootEnv) : State :=
  let (bad, s) := s.bootCtl v e
  if bad then { s with chip := s.chip.hostErr 4 } else s

/-! ### The end of a load and of a step -/

/-- Has a run-time load its parts destroyed and its engine stopped (R543)? -/
def Chip.loadReady (c : Chip) : Bool :=
  decide (c.boot.step = 0x0E) && c.boot.loading.isSome && c.clk.stopAt.isNone && !c.pal.loaded

/-- Banks and cell memories are erased before a run-time load writes them (R579): banks in retention wake first (R445).
DEDUCED (assumption 65). -/
def State.eraseContent (s : State) : State :=
  let c := s.chip.forN 4 fun r c => (c.bankWake r).bankWakeEnd r
  let c := c.forN 96 fun k c => c.updBlk k fun b => { b with pm0 := [], pm1 := [] }
  let c := c.forL (c.slots.map fun p => p.1) fun k c => c.updSlot k fun x => { x with x0 := [], y0 := [], x1 := [], y1 := [] }
  { s with chip := { c with saf := { c.saf with prot := false } }, mem := {} }

/-- A program or an erase of the port that holds an image slot ends before the loader reads it (R458); whether the flash
reported ready is free. -/
def State.flashFree (s : State) (slot : Nat) : State :=
  let x := if slot = 1 ∧ s.chip.is (XS_STAT_NODEV 1) = false then 1 else 0
  if s.chip.is (XS_STAT_FBUSY x) then s.xsDone x (Config.freeBool s.chip.ctr 802002) else s

/-- A run-time load runs to its end (R543): source 11 rises either way. -/
def State.runtimeLoadEnd (s : State) : State :=
  match s.chip.boot.loading with
  | some (slot, _) =>
    if s.chip.loadReady then
      let s := ((s.flashFree slot).eraseContent.loadRun slot).2.stepTakes
      { s with chip := s.chip.raise 11 }
    else s
  | none => s

/-- A load under way fails with reason 0x20 (R529, R549): at run time nothing more is tried. DEDUCED (assumption 65). -/
def State.loadCut (s : State) (e : BootEnv) : State :=
  match s.chip.boot.loading with
  | some (slot, _) =>
    if s.chip.loadReady then
      let s := (s.eraseContent.loadFail slot 0x20 0x1FF).stepTakes
      { s with chip := s.chip.raise 11 }
    else if s.chip.boot.step = 0x0C then (s.loadFail slot 0x20 0x1FF).loads e s.chip.boot.tries
    else s
  | none => s

/-- The reason of a step that times out (R529, R530): 0x20 where the step's row lists it, and else the row's reason for what has not
come in time: regulation, a lock, a copy, the store, a candidate. DEDUCED (assumption 61). -/
def timeoutReason (k : Nat) : Nat :=
  match k with
  | 1 | 5 => 0x22
  | 2 => 0x25
  | 3 => 0x26
  | 4 => 0x27
  | 0x0B => 0x2D
  | _ => 0x20

/-- BOOT_STEP_TIMEOUT (R529, R531): the step under way fails. At the last level of step 0x07 the port that does not pass
counts as having no device. DEDUCED (assumption 61). -/
def State.bootTimeout (s : State) (e : BootEnv) : State :=
  match s.chip.boot.underWay with
  | none => s
  | some 0x0C => s.loadCut e
  | some k =>
    let s := s.bootFail k (timeoutReason k) 0
    if s.inUse k < maxLevel k then bootRun e 64 k (s.levelUp k)
    else if k = 5 then bootRun e 64 5 s
    else if k = 7 then bootRun e 64 8 { s with chip := s.chip.portsSettle e 2 }
    else
      let (go, s) := giveUp k (timeoutReason k) s
      if go then bootRun e 64 (k + 1) s else s

/-- Port B takes a grant back (R549): 0 the loader, 1 the host, 2 the DMA engine, 3 the Restorer's step before its phase 3.
DEDUCED (assumption 83). -/
def State.portBRevoke (s : State) (r master : Nat) : State :=
  let c := ((s.chip.rgnFault r 0x35).setFld (RGNn_FAULT_MASTER r) master).set1 (RGNn_FAULT_REVOKE r)
  match master with
  | 0 => if s.chip.boot.loading.isSome then State.loadCut { s with chip := c } (Config.bootEnv s.chip.ctr) else s
  | 1 => { s with chip := c.hostErr 4 }
  | 2 =>
    let n := c.dmaLast % 16
    if c.dmaActive n then { s with chip := (c.dmaError n 7).setFld (DMAn_STAT_STATE n) 3 } else s
  | _ => if c.rep.step.on ∧ c.fld RST_STAT_PHASE < 3 then { s with chip := c.setFld RST_STAT_PHASE 3 } else s

/-! ### Supplies (R526, R593, R597, R607, R609) -/

/-- VIN falls below 2.5 V (R526): the keep-alive domain loses the record, the tamper state and its counts.
DEDUCED (assumption 54). -/
def State.vinLoss (s : State) : State :=
  let s := s.resetNow false
  let c : Chip := { s.chip.clr PWR_STAT_OTSD with boot := { step := 0, attempts := 0, boots := 0 }, saf := {} }
  { s with chip := { c with pwr := { vin := false, rest := false }, tap := {} }, mem := {} }

/-- VIN rises through 2.5 V (R609): the rest clamps engage, and the device waits in reset for 4.3 V. -/
def State.vinRising (s : State) : State :=
  if s.chip.pwr.vin then s
  else { s with chip := { s.chip with pwr := { s.chip.pwr with vin := true, rest := true, held := true } } }

/-- VIN has fallen below 4.1 V and rises above 4.3 V (R526); after a VIN loss that is the cause recorded, and with VIO low until after
it a pin reset (R593). DEDUCED (assumption 54). -/
def State.brownOut (s : State) (e : BootEnv) : State :=
  if s.chip.pwr.vin = false ∨ s.chip.boot.buckOff then s
  else s.restart (if s.chip.pwr.vioLow then 2 else if s.chip.pwr.held then 0 else 1) false e

/-- A reset through RSTN (R526, R533). DEDUCED (assumption 54). DEDUCED (assumption 59). -/
def State.pinReset (s : State) (e : BootEnv) : State :=
  if s.chip.pwr.vin = false ∨ s.chip.pwr.held then s
  else
    let s := if s.chip.boot.step = 0x0F then s.updBoot fun t => { t with attempts := 0 } else s
    s.restart 2 false e

/-- VIO is below 1.5 V with VIN present (R593): the device behaves as with RSTN low. One that VIN or BKC holds in reset stays
held until VIO has risen too, and then records a pin reset; any other takes its pin reset as VIO rises. DEDUCED (assumption
54). DEDUCED (assumption 54). -/
def State.vioLoss (s : State) (e : BootEnv) : State :=
  if s.chip.pwr.vin ∧ s.chip.pwr.held then { s with chip := { s.chip with pwr := { s.chip.pwr with vioLow := true } } }
  else s.pinReset e

/-- BKC leaves regulation (R597): the device is held in reset. DEDUCED (assumption 54). -/
def State.bkcFault (s : State) : State :=
  let s := s.resetNow false
  let c : Chip := { s.chip.clr PWR_BUCK_BKC_OK with boot := { s.chip.boot with buckOff := true } }
  { s with chip := { c with pwr := { c.pwr with held := true } } }

/-- BKC regulates again (R597): the reset is recorded as a brown-out. -/
def State.bkcReturn (s : State) (e : BootEnv) : State :=
  if s.chip.pwr.vin ∧ s.chip.boot.buckOff then
    (s.updBoot fun t => { t with buckOff := false }).restart (if s.chip.pwr.vioLow then 2 else 1) false e
  else s

/-- BUCK_FAULT (R597): BKC holds the device in reset, a region's buck puts its region out of service (the region runs on BKC
from the next attempt, R561), BKA stops the converters. -/
def State.buckFault (s : State) (k : Nat) : State :=
  if k = 0 then s.bkcFault
  else if k = 5 then { s with chip := s.chip.bkaFault }
  else if (s.chip.fld PWR_BUCK_RG_OK / 2 ^ (k - 1)) % 2 = 1 then
    (s.regionOut (k - 1)).updBoot fun t =>
      { t with badBucks := if k - 1 ∈ t.badBucks then t.badBucks else t.badBucks ++ [k - 1] }
  else s

/-- A chip fault resets the device (R563): code 0x41 keeps the EPLL and TB running. -/
def State.faultReset (s : State) (logic : Bool) (e : BootEnv) : State :=
  if logic then State.restart { s with chip := s.chip.chipFault 0x41 none } 4 true e
  else if s.chip.boot.chip = 0x40 then s.restart 4 false e
  else s

/-- TEMP_MEASURE (R607): at 150 °C the device stands aside. -/
def State.tempMeasure (s : State) (t : Int) : State :=
  let c := s.chip.tempMeasure t
  if 150 ≤ t then State.standAside { s with chip := c.set1 PWR_STAT_OTSD } 0 else { s with chip := c }

/-! ### Meanings -/

/-- A command that may reset the device: it acts when a condition holds. The queue and the count of free values go on. -/
def actReset (ok : Chip → Bool) (f : State → State) (s : State) : Host.Outcome State Fault Refusal :=
  if ok s.chip then
    let t := f s
    .next { t with chip := { t.chip with ctr := t.chip.ctr + 1 }, pending := s.pending }
  else .next s

/-- VIN_LOSS (R526). -/
def execVinLoss : State → Host.Outcome State Fault Refusal := actReset (fun c => c.pwr.vin) State.vinLoss

/-- VIN_RISING (R609). -/
def execVinRising : State → Host.Outcome State Fault Refusal := actReset (fun c => !c.pwr.vin) State.vinRising

/-- BROWN_OUT (R526). -/
def execBrownOut (e : BootEnv) : State → Host.Outcome State Fault Refusal := actReset (fun c => c.pwr.vin) fun s => s.brownOut e

/-- PIN_RESET (R526). -/
def execPinReset (e : BootEnv) : State → Host.Outcome State Fault Refusal := actReset (fun c => c.pwr.vin) fun s => s.pinReset e

/-- VIO_LOSS (R593): VIO falls below 1.5 V, and rises again. -/
def execVioLoss (e : BootEnv) : State → Host.Outcome State Fault Refusal := actReset (fun c => c.pwr.vin) fun s => s.vioLoss e

/-- SOFTWARE_RESET (R526): a BOOT_CTL write with RESTART = 1. -/
def execSoftwareReset (v : Word) (e : BootEnv) : State → Host.Outcome State Fault Refusal :=
  actReset Chip.clocked fun s => s.hostBootCtl v e

/-- FAULT_RESET (R563). -/
def execFaultReset (logic : Bool) (e : BootEnv) : State → Host.Outcome State Fault Refusal :=
  actReset Chip.clocked fun s => s.faultReset logic e

/-- BKC_RETURN (R597). -/
def execBkcReturn (e : BootEnv) : State → Host.Outcome State Fault Refusal := actReset (fun c => c.pwr.vin) fun s => s.bkcReturn e

/-- BUCK_FAULT (R597). -/
def execBuckFault (k : Fin 6) : State → Host.Outcome State Fault Refusal := actReset Chip.alive fun s => s.buckFault k

/-- TEMP_MEASURE (R607). -/
def execTempMeasure (t : BitVec 16) : State → Host.Outcome State Fault Refusal := actReset Chip.clocked fun s => s.tempMeasure t.toInt

/-- BOOT_STEP_TIMEOUT (R531). -/
def execBootStepTimeout (e : BootEnv) : State → Host.Outcome State Fault Refusal := actReset Chip.alive fun s => s.bootTimeout e

/-- BOOT_CONT (R542): a BOOT_CTL write with CONT = 1. -/
def execBootCont (v : Word) (e : BootEnv) : State → Host.Outcome State Fault Refusal :=
  actReset Chip.clocked fun s => s.hostBootCtl v e

/-- BOOT_LOAD (R542, R543): a BOOT_CTL write with LOAD = 1. -/
def execBootLoad (v : Word) (e : BootEnv) : State → Host.Outcome State Fault Refusal :=
  actReset Chip.clocked fun s => s.hostBootCtl v e

/-- CLRHIST (R532): a BOOT_CTL write with CLRHIST = 1. -/
def execClrhist (v : Word) : State → Host.Outcome State Fault Refusal :=
  actReset Chip.clocked fun s => s.hostBootCtl v (Config.bootEnv s.chip.ctr)

/-- RUNTIME_LOAD_END (R543). -/
def execRuntimeLoadEnd : State → Host.Outcome State Fault Refusal := actReset Chip.clocked State.runtimeLoadEnd

/-- PORT_B_REVOKE (R549). -/
def execPortBRevoke (r : Fin 4) (m : Fin 4) : State → Host.Outcome State Fault Refusal :=
  actReset Chip.clocked fun s => s.portBRevoke r m

end Sys2Proof.Machine
end

