-- ==== Sys2Proof/Machine/Security.lean ====
section
/-! DEFINITION. The Saffron store, debug unlock, halts and the JTAG TAP's boundary scan (chapter "Security and debug access", R576 to
R591; R622). -/

namespace Sys2Proof.Machine

/-! ### The Saffron store -/

/-- A command under way is applied to the store (R577, R578), whose content is one-time programmable (R576). -/
def NonVol.safApply (n : NonVol) (op slot : Nat) (w : List Word) : NonVol :=
  let bytes := fun l : List Word => l.flatMap wordBytes
  match op with
  | 1 => { n with slots := tabSet n.slots {} slot { st := 1, hash := bytes (w.take 8), wrap := bytes ((w.drop 8).take 8) } }
  | 2 => { n with slots := tabSet n.slots {} slot { tabGet n.slots ({} : KeySlot) slot with st := 2 } }
  | 3 => { n with signreq := true }
  | 4 => if n.dbgHash.isSome then n else { n with dbgHash := some (bytes (w.take 8)) }
  | _ => { n with dbgdis := true }

/-- Update Saffron's own state. -/
def State.updSaf (s : State) (f : Saffron → Saffron) : State := { s with chip := { s.chip with saf := f s.chip.saf } }

/-- A command completes (R578); the store failing its check then sets the tamper state instead (R588). A run-time load under way keeps
the store as it was where it is past its step 4, which is free. -/
def State.safDone (s : State) (storeOk : Bool) : State :=
  match s.chip.saf.cmd with
  | none => s
  | some (op, slot, w) =>
    let read := s.chip.loadReady && s.chip.boot.keys.isNone && Config.freeBool s.chip.ctr 809001
    let s := if read then s.updBoot fun t => { t with keys := some s.store } else s
    let s := s.updSaf fun x => { x with cmd := none }
    if storeOk then { s with nv := s.nv.safApply op slot w } else s.tamperSet

/-- The sixteen words of SAF_STAGE. -/
def State.safStage (s : State) : List Word := (List.range 16).map fun i => tabGet s.chip.saf.stage 0 i

/-- Is a command refused (R577)? -/
def State.safRefused (s : State) (op slot : Nat) (key : Nat) : Bool :=
  let st := (tabGet s.nv.slots ({} : KeySlot) slot).st
  decide (key ≠ 0x5AFE) || s.chip.saf.tamper || decide (s.nv.tleft = 0) ||
    (match op with
      | 1 => decide (st ≠ 0) || s.nv.erased
      | 2 => decide (st ≠ 1)
      | 3 => s.nv.signreq
      | 4 => s.nv.dbgHash.isSome
      | 5 => s.nv.dbgdis
      | _ => true)

/-- A write of SAF_CMD (R577); true where it is refused. OP 0 has no effect. A command still under way, which completes within
2 ms, has completed by then. DEDUCED (assumption 67). -/
def State.safCmd (s : State) (v : Word) : Bool × State :=
  let op := fieldOf v 0 3
  let slot := fieldOf v 4 2
  if op = 0 then (false, s)
  else
    let s := s.safDone true
    if s.safRefused op slot (fieldOf v 16 16) then
      let s := s.updSaf fun x => { x with stage := [] }
      (true, { s with chip := (s.chip.set1 SAF_STAT_CMDREJ).raise 107 })
    else (false, s.updSaf fun x => { x with stage := [], cmd := some (op, slot, s.safStage) })

/-- A SAF_CMD write by the host (R512). -/
def State.hostSafCmd (s : State) (op slot : Nat) (key : BitVec 16) : State :=
  let (bad, s) := s.safCmd (BitVec.ofNat 32 (at_ 16 key.toNat + at_ 4 slot + op))
  if bad then { s with chip := s.chip.hostErr 4 } else s

/-! ### Debug unlock -/

/-- DBG_CTL.CHAL = 1 (R583): a fresh challenge. -/
def Chip.dbgChal (c : Chip) : Chip :=
  let c := c.forN 8 fun i c => c.setReg (DBG_CHAL i) (bytesWord ((List.range 4).map fun k => Config.entropy c.ctr (4 * i + k)))
  { c with saf := { c.saf with chalOk := true } }

/-- The bytes of DBG_RESP from word i on. -/
def Chip.dbgResp (c : Chip) (i : Nat) : List Byte :=
  (List.range 8).flatMap fun k => wordBytes (tabGet c.saf.resp 0 (i + k))

/-- The message M that an unlocker signs (R583). -/
def Chip.dbgMessage (c : Chip) : List Byte :=
  ((List.range 8).flatMap fun i => wordBytes (c.reg (DBG_CHAL i))) ++ (wordBytes (Config.uid 1)).reverse
    ++ (wordBytes (Config.uid 0)).reverse ++ [0x47, 0x56, 0x15, 0x36]

/-- The first check of R583 that a VERIFY fails. -/
def State.verifyFail (s : State) : Option Nat :=
  let c := s.chip
  if c.saf.tamper then some 6
  else match s.nv.dbgHash with
    | none => some 4
    | some h =>
      if s.nv.dbgdis then some 4
      else if c.boot.loading.isSome then some 5
      else if c.saf.chalOk = false then some 1
      else if sha256 (c.dbgResp 0 ++ c.dbgResp 8) ≠ h then some 2
      else if ecdsaVerify (c.dbgResp 0) (c.dbgResp 8) (c.dbgResp 16) (c.dbgResp 24) c.dbgMessage = false then some 3
      else none

/-- DBG_CTL.VERIFY = 1 (R583 to R585, R588): a success stops the engine, and unloads everything once it has stopped. -/
def State.dbgVerify (s : State) : State :=
  match s.verifyFail with
  | some why =>
    let counts := decide (why ≤ 3)
    let n := s.chip.saf.fails + 1
    let c := (s.chip.setFld DBG_STAT_WHY why).raise 105
    let s := { s with chip := c }.updSaf fun x => { x with chalOk := false, fails := if counts then n % 4 else x.fails }
    if counts ∧ n = 4 then s.tamperSet else s
  | none =>
    let s := s.updSaf fun x => { x with chalOk := false, unlocking := true }
    let c := s.chip.estopSet
    { s with chip := if c.stopped then c.unloadPrimer else c }

/-- Cell and parameter memories are written with 0 (R585). -/
def Chip.eraseCells (c : Chip) : Chip :=
  let c := c.forL (c.blocks.map fun p => p.1) fun k c => c.updBlk k fun b => { b with pm0 := [], pm1 := [], cells := [], cache := [] }
  let c := c.forL (c.slots.map fun p => p.1) fun k c => c.updSlot k fun x => { gen := x.gen }
  c.forL (c.parts.map fun p => p.1) fun p c => c.updPart p fun x => { x with back := [], front := [], prev := [] }

/-- The erasure of an unlock ends (R585): the writes that wait for the banks have landed before them, UNLOCKED sets, FAILS clears
(R584), and source 104 rises. -/
def State.unlockDone (s : State) : State :=
  if s.chip.saf.unlocking ∧ s.chip.clk.stopAt.isNone ∧ s.chip.pal.loaded = false then
    let s := s.wbufsLand
    let c := s.chip.eraseCells
    let c : Chip := { c with saf := { c.saf with unlocking := false, unlocked := true, prot := false, fails := 0 } }
    State.stepTakes { s with chip := c.raise 104, mem := {}, nv := s.nv.burnKeys s.chip.ctr }
  else s

/-- The halted blocks resume, but for one that a write names again (R587). -/
def Chip.blocksResume (c : Chip) (keep : Option Nat) : Chip :=
  c.forN 96 fun k c =>
    if (c.blk k).halted ∧ keep ≠ some k then c.updBlk k fun b => { b with halted := false, haltDue := false, cells := b.cells.map fun m => (m.1, { m.2 with halted := false }) }
    else c

/-- The easel goes on (R587): what the receivers queued is read. -/
def Chip.easelResume (c : Chip) : Chip := (c.updEz fun z => { z with halted := false }).forN 4 fun i c => c.midiDrain i

/-- Release every halt (R587). -/
def Chip.haltRelease (c : Chip) : Chip :=
  ((c.blocksResume none).setReg DBG_HALT 0).easelResume

/-- DBG_CTL.LOCK = 1 (R586): the end of UNLOCKED releases the halt. -/
def Chip.dbgLock (c : Chip) : Chip := { c with saf := { c.saf with unlocked := false } }.haltRelease

/-- A write of DBG_HALT (R587); true where it is refused. The easel's halt takes effect at once, a block's once its MAC cells stand
(R589). DEDUCED (assumption 68). -/
def Chip.dbgHalt (c : Chip) (v : Word) : Bool × Chip :=
  if c.saf.unlocked = false then (true, c)
  else
    let b := fieldOf v 0 5
    let k := blkKey (fieldOf v 5 2) b
    let blk := v.getLsbD 15 && decide (b < 24)
    let fresh := v.getLsbD 16 && !c.ez.halted
    let c := c.blocksResume (if blk then some k else none)
    let c := (if v.getLsbD 16 then c else c.easelResume).regStore DBG_HALT v
    let c := if blk then (c.updBlk k fun x => { x with halted := true, haltDue := x.haltDue || !x.halted }).haltEffect k else c
    let c := c.updEz fun z => { z with halted := v.getLsbD 16 }
    (false, c.raiseIf fresh 109)

/-- A write of DBG_CTL: its bits in ascending order. -/
def State.dbgCtl (s : State) (v : Word) : State :=
  let c := if v.getLsbD 0 then s.chip.dbgLock else s.chip
  let c := if v.getLsbD 1 then { c.dbgChal with ctr := c.ctr + 1 } else c
  let s := { s with chip := c }
  if v.getLsbD 2 then s.dbgVerify else s

/-! ### The registers of both pages -/

/-- A write in the pages 0xB000 and 0xB100; true where it is refused. -/
def State.secWrite (s : State) (a : Nat) (v : Word) : Bool × State :=
  if a = SAF_CMD then s.safCmd v
  else if 0xB040 ≤ a ∧ a < 0xB080 then
    (false, s.updSaf fun x => { x with stage := tabSet x.stage 0 (arrIdx a 0xB040 4) v })
  else if a = DBG_CTL then (false, s.dbgCtl v)
  else if 0xB140 ≤ a ∧ a < 0xB1C0 then
    (false, s.updSaf fun x => { x with resp := tabSet x.resp 0 (arrIdx a 0xB140 4) v })
  else if a = DBG_HALT then
    let (bad, c) := s.chip.dbgHalt v
    (bad, { s with chip := c })
  else (false, { s with chip := s.chip.regStore a v })

/-- SAF_STAT (R590). -/
def State.safStat (s : State) : Word :=
  let x := s.chip.saf
  s.chip.overlay SAF_STAT 0xFFB (at_ 8 s.nv.tleft + at_ 7 (bit x.prot) + at_ 6 (bit x.tamper) + at_ 5 (bit (decide (s.nv.tleft = 0)))
    + at_ 4 (bit s.nv.erased) + at_ 3 (bit s.nv.signreq) + at_ 1 (bit s.nv.dbgdis))

/-- SAF_SLOT[k] (R590). DEDUCED (assumption 67). -/
def State.safSlot (s : State) (k : Nat) : Word :=
  let x := tabGet s.nv.slots ({} : KeySlot) k
  BitVec.ofNat 32 (at_ 24 (x.hash.getD 0 0).toNat + at_ 16 (x.hash.getD 1 0).toNat + x.st)

/-- DBG_STAT (R591). -/
def Chip.dbgStat (c : Chip) : Word :=
  let halted := c.ez.halted || (List.range 96).any fun k => (c.blk k).halted
  c.overlay DBG_STAT 0xF (at_ 2 c.saf.fails + at_ 1 (bit halted) + bit c.saf.unlocked)

/-- A read in the pages 0xB000 and 0xB100. DESIGN CHOICE (assumption 86). -/
def State.secRead (s : State) (a : Nat) : Word :=
  if a = SAF_STAT then s.safStat
  else if a = 0xB004 then Config.uid 0
  else if a = 0xB008 then Config.uid 1
  else if 0xB010 ≤ a ∧ a < 0xB020 then s.safSlot (arrIdx a 0xB010 4)
  else if a = DBG_STAT then s.chip.dbgStat
  else s.chip.reg a

/-! ### The TAP (R581, R622) -/

/-- The codes that R581 lists. -/
def tapListed (code : Nat) : Bool := decide (code ∈ [0x00, 0x01, 0x02, 0x04, 0x05, 0x10])

/-- Has a pin of the boundary scan no output in effect (R622): MI0–MI3, SAI0_D and SAI1_D? -/
def scanInputOnly (i : Nat) : Bool := decide (34 ≤ i ∧ i ≤ 37) || decide (i = 30) || decide (i = 33)

/-- What the TAP drives on scanned pin i: none where it leaves the pin to the chip, `some none` where the pin floats, else
the level (R581, R622). PRESUMED (assumption 8). -/
def Tap.pin (t : Tap) (i : Nat) : Option (Option Bool) :=
  if scanInputOnly i then none
  else if t.ir = 0 ∨ t.ir = 5 then some (if t.bsr.getLsbD (3 * i + 2) then some (t.bsr.getLsbD (3 * i + 1)) else none)
  else if t.ir = 4 then some none
  else none

/-- The data register that the instruction selects, as a scan captures it: 171, 32, 66 or 1 bits (R581, R582, R622). EXTEST and
SAMPLE/PRELOAD capture the pins in the input cells. PRESUMED (assumption 8). -/
def Tap.capture (t : Tap) : Nat :=
  match t.ir with
  | 0 | 1 =>
    (List.range 57).foldl (fun a i => a + at_ (3 * i) (bit (t.sampled.getLsbD i)) + at_ (3 * i + 1) (bit (t.bsr.getLsbD (3 * i + 1)))
      + at_ (3 * i + 2) (bit (t.bsr.getLsbD (3 * i + 2)))) 0
  | 2 => 0x01536E5B
  | 0x10 => bit t.wr + at_ 1 t.addr.toNat + at_ 33 t.data.toNat + at_ 65 (bit t.done)
  | _ => bit t.byp

/-- The TAP's own state updates. -/
def Chip.updTap (c : Chip) (f : Tap → Tap) : Chip := { c with tap := f c.tap }

/-- A TAP command works whenever VIN and VIO are present (R581). PRESUMED (assumption 8). -/
def actTap (f : Tap → Tap) : State → Host.Outcome State Fault Refusal := actIf (fun c => c.pwr.vin) fun c => c.updTap f

/-! ### Meanings -/

/-- SAF_PROVISION_SLOT (R577): SAF_CMD with OP 1. -/
def execSafProvisionSlot (key : BitVec 16) (slot : Fin 4) : State → Host.Outcome State Fault Refusal :=
  actReset Chip.clocked fun s => s.hostSafCmd 1 slot key

/-- SAF_REVOKE_SLOT (R577): SAF_CMD with OP 2. -/
def execSafRevokeSlot (key : BitVec 16) (slot : Fin 4) : State → Host.Outcome State Fault Refusal :=
  actReset Chip.clocked fun s => s.hostSafCmd 2 slot key

/-- SAF_SET_SIGNREQ (R577): SAF_CMD with OP 3. -/
def execSafSetSignreq (key : BitVec 16) : State → Host.Outcome State Fault Refusal :=
  actReset Chip.clocked fun s => s.hostSafCmd 3 0 key

/-- SAF_PROVISION_DEBUG_KEY (R577): SAF_CMD with OP 4. -/
def execSafProvisionDebugKey (key : BitVec 16) : State → Host.Outcome State Fault Refusal :=
  actReset Chip.clocked fun s => s.hostSafCmd 4 0 key

/-- SAF_SET_DBGDIS (R577): SAF_CMD with OP 5. -/
def execSafSetDbgdis (key : BitVec 16) : State → Host.Outcome State Fault Refusal :=
  actReset Chip.clocked fun s => s.hostSafCmd 5 0 key

/-- SAF_CMD_DONE (R578). -/
def execSafCmdDone (storeOk : Bool) : State → Host.Outcome State Fault Refusal := actReset Chip.clocked fun s => s.safDone storeOk

/-- DBG_CHAL (R583). -/
def execDbgChal : State → Host.Outcome State Fault Refusal := actFree fun c => c.dbgChal

/-- DBG_CHAL_EXPIRE (R583). -/
def execDbgChalExpire : State → Host.Outcome State Fault Refusal :=
  act fun c => { c with saf := { c.saf with chalOk := false } }

/-- DBG_VERIFY (R583). -/
def execDbgVerify : State → Host.Outcome State Fault Refusal := actReset Chip.clocked State.dbgVerify

/-- DBG_UNLOCK_DONE (R585). -/
def execDbgUnlockDone : State → Host.Outcome State Fault Refusal := actReset Chip.clocked State.unlockDone

/-- DBG_LOCK (R586). -/
def execDbgLock : State → Host.Outcome State Fault Refusal := act fun c => c.dbgLock

/-- DBG_HALT_WRITE (R587). -/
def execDbgHaltWrite (v : Word) : State → Host.Outcome State Fault Refusal :=
  act fun c => let (bad, c) := c.dbgHalt v; if bad then c.hostErr 4 else c

/-- EXTEST (R581): the boundary-scan register takes the bits shifted in, and drives the pins. -/
def execExtest (shift : BitVec 171) : State → Host.Outcome State Fault Refusal := actTap fun t => { t with ir := 0, bsr := shift }

/-- SAMPLE_PRELOAD (R581): the pins are sampled, and the register takes the bits shifted in without driving them. -/
def execSamplePreload (pins : BitVec 57) (shift : BitVec 171) : State → Host.Outcome State Fault Refusal :=
  actTap fun t => { t with ir := 1, sampled := pins, bsr := shift }

/-- IDCODE (R581). -/
def execIdcode : State → Host.Outcome State Fault Refusal := actTap fun t => { t with ir := 2 }

/-- HIGHZ (R581). -/
def execHighz : State → Host.Outcome State Fault Refusal := actTap fun t => { t with ir := 4, byp := false }

/-- CLAMP (R581). -/
def execClamp : State → Host.Outcome State Fault Refusal := actTap fun t => { t with ir := 5, byp := false }

/-- BYPASS (R581): every code that R581 does not list acts so; 0x1F stands for it where a listed code is given. -/
def execBypass (code : BitVec 5) : State → Host.Outcome State Fault Refusal :=
  actTap fun t => { t with ir := if tapListed code.toNat then 0x1F else code.toNat, byp := false }

/-- TAP_RESET (R526, R581): TRSTN low selects IDCODE, and acts on nothing else. -/
def execTapReset : State → Host.Outcome State Fault Refusal := actTap fun t => { t with ir := 2 }

end Sys2Proof.Machine
end

