-- ==== Sys2Proof/Machine/Bus.lean ====
section
/-! DEFINITION. The address space as its masters see it (chapter "Register map", R641 to R643; R438, R443 to R445, R457, R580), the
write of a register, and the moving of a DMA burst (chapter "DMA engine", R467 to R481). -/

namespace Sys2Proof.Machine

/-- The masters of the address space: the host port, the DMA engine and DBGACC (R641). -/
inductive Master where
  | host | dma | dbg
  deriving DecidableEq, Repr

/-- Is it the DMA engine, which has shadows of its own (R31, R468)? -/
def Master.isDma (m : Master) : Bool := decide (m = .dma)

/-- What an address is (R641). -/
inductive Place where
  | register | unassigned | region | param | bank | window (x : Nat) | outside
  deriving DecidableEq, Repr

/-- The place of an address (R641). -/
def placeOf (a : Nat) : Place :=
  if a < 0xC000 then .register
  else if a < 0x10000 then .unassigned
  else if a < 0x20000 then .region
  else if 0x100000 ≤ a ∧ a < 0x164000 then .param
  else if 0x1000000 ≤ a ∧ a < 0x2000000 then .bank
  else if 0x4000000 ≤ a ∧ a < 0x8000000 then .window 0
  else if 0x8000000 ≤ a ∧ a < 0xC000000 then .window 1
  else .outside

/-- Is a bank address in its region's content space (R437)? -/
def Chip.inContent (c : Chip) (a : Nat) : Bool := decide ((a - 0x1000000) % 0x400000 < 4 * c.pal.spaceWords)

/-- Is an access to a bank address refused (R438, R580)? DBGACC has no protect restriction (R582). -/
def Chip.bankRefused (c : Chip) (m : Master) (a : Nat) : Bool := c.saf.prot && decide (m ≠ .dbg) && c.inContent a

/-- Run an access of a master; DBGACC sees no protection (R582). -/
def Chip.unprotected {α : Type} (c : Chip) (m : Master) (f : Chip → α × Chip) : α × Chip :=
  if m = .dbg then
    let (x, d) := f { c with saf := { c.saf with prot := false } }
    (x, { d with saf := { d.saf with prot := c.saf.prot } })
  else f c

/-- A read of RGNn_FENCE (R444): every write that waits lands first, and the value is their number. DEDUCED (assumption 71). -/
def State.fenceWord (s : State) (r : Nat) : Word × State :=
  let n := (s.chip.rm r).wbuf.length
  let s := s.wbufDrain r n
  (BitVec.ofNat 32 n, { s with chip := s.chip.setFld (RGNn_FENCE_DRAINED r) n })

/-- A write enters a region's buffer; one that finds it full waits until the oldest has landed (R443). DEDUCED (assumption 71). -/
def State.bankWrite (s : State) (a : Nat) (v : Word) : State :=
  let r := bankRegion a
  let s := if 32 ≤ (s.chip.rm r).wbuf.length then s.wbufDrain r 1 else s
  { s with chip := (s.chip.wbufPush a v).2 }

/-- One word read by a master: the word, whether the access is refused, and the state after it (R641 to R643).
DESIGN CHOICE (assumption 72). -/
def State.busRead (s : State) (m : Master) (a : Nat) : Word × Bool × State :=
  match placeOf a with
  | .register =>
    if 0xB000 ≤ a ∧ a < 0xB200 then (s.secRead a, false, s)
    else
      let (v, bad, c) := s.chip.regRead m.isDma a
      (v, bad, { s with chip := c })
  | .unassigned => (0, false, s)
  | .region =>
    if isBlockReg a = false ∧ (a - 0x10000) % 0x4000 = 0x30 then
      let (v, s) := s.fenceWord (winRegion a)
      (v, false, s)
    else
      let ((v, bad), c) := s.chip.unprotected m fun c => let (v, bad, c) := c.regRead m.isDma a; ((v, bad), c)
      (v, bad, { s with chip := c })
  | .param => (s.chip.paramRead ((a - 0x100000) / 4), false, s)
  | .bank =>
    if s.chip.bankRefused m a then (0, true, { s with chip := s.chip.raise 108 })
    else if bankRegion a ∈ s.chip.pwr.oos then (Config.freeWord s.chip.ctr 809000, false, s)
    else
      let (v, s) := s.portBRead a
      (v, false, s)
  | .window x =>
    let (v, s) := s.windowServe x (a % 0x4000000)
    (v, false, s)
  | .outside => (0, true, s)

/-- One word written by a master: whether the access is refused, and the state after it (R641 to R643). -/
def State.busWrite (s : State) (m : Master) (a : Nat) (v : Word) : Bool × State :=
  match placeOf a with
  | .register =>
    if 0xB000 ≤ a ∧ a < 0xB200 then s.secWrite a v
    else if a = BOOT_CTL then s.bootCtl v (Config.bootEnv s.chip.ctr)
    else
      let (bad, c) := s.chip.regWrite a v
      (bad, { s with chip := c })
  | .unassigned => (false, s)
  | .region =>
    let (bad, c) := s.chip.unprotected m fun c => c.regWrite a v
    (bad, { s with chip := c })
  | .param => (false, { s with chip := s.chip.paramWrite ((a - 0x100000) / 4) v })
  | .bank =>
    if s.chip.bankRefused m a then (true, { s with chip := s.chip.raise 108 })
    else (false, s.bankWrite a v)
  | .window x => (true, { s with chip := s.chip.set1 (XS_STAT_WERR x) })
  | .outside => (true, s)

/-- A value as a write in the cycle of setting events stores it (R10): a 1 does not clear a W1C bit whose event falls in the cycle.
A posted word that lands within a host command lands in a cycle of its own. DESIGN CHOICE (assumption 103). -/
def keepSame (a : Nat) (v same : Word) : Word :=
  match findReg a with
  | some d => v &&& ~~~(same &&& BitVec.ofNat 32 d.w1c)
  | none => v

/-- The next word of a command takes free values of its own. -/
def State.tick (s : State) : State := { s with chip := { s.chip with ctr := s.chip.ctr + 1 } }

/-! ### Register writes -/

/-- A refused access ends a channel's transfer (R481). -/
def Chip.dmaRefused (c : Chip) (n : Nat) : Chip := (c.dmaError n 5).setFld (DMAn_STAT_STATE n) 3

/-- A write of one word by the host or the DMA engine (R8, R468, R509, R512): a refused one is an error of its master, for the
DMA engine of the channel it served last (R481). DEDUCED (assumption 73). -/
def State.masterWrite (s : State) (dma : Bool) (a : Nat) (v : Word) : State :=
  if a % 4 ≠ 0 then (if dma then s else { s with chip := s.chip.hostErr 2 })
  else
    let (bad, s) := s.busWrite (if dma then .dma else .host) a v
    if bad = false then s
    else if dma = false then { s with chip := s.chip.hostErr 4 }
    else if s.chip.dmaActive s.chip.dmaLast then { s with chip := s.chip.dmaRefused s.chip.dmaLast }
    else s

/-! ### DMA bursts -/

/-- The length of a burst (R469, R483). -/
def Chip.burstLen (c : Chip) (n : Nat) : Nat := min (2 ^ c.fld (DMAn_CFG_BURST n)) (c.fld (DMAn_CNT_CNT n))

/-- Does a channel's plain copy run in descending order (R473)? -/
def Chip.dmaDescends (c : Chip) (n : Nat) : Bool :=
  let src := (c.reg (DMAn_SRC n)).toNat
  let dst := (c.reg (DMAn_DST n)).toNat
  decide (c.fld (DMAn_CFG_ILV n) = 0) && c.is (DMAn_CFG_SINC n) && c.is (DMAn_CFG_DINC n)
    && decide (src < dst) && decide (dst < src + 4 * (c.dmaOf n).full)

/-- Does a channel's plain copy run in ascending order, so that its addresses advance (R478)? -/
def Chip.dmaAscends (c : Chip) (n : Nat) : Bool := decide (c.fld (DMAn_CFG_ILV n) = 0) && !c.dmaDescends n

/-- Source and destination of word i of the next burst (R473, R474, R478). -/
def Chip.dmaAddrs (c : Chip) (n i : Nat) : Nat × Nat :=
  let src := (c.reg (DMAn_SRC n)).toNat
  let dst := (c.reg (DMAn_DST n)).toNat
  let cnt := c.fld (DMAn_CNT_CNT n)
  let full := (c.dmaOf n).full
  let sinc := c.fld (DMAn_CFG_SINC n)
  let dinc := c.fld (DMAn_CFG_DINC n)
  let ways := c.fld (DMAn_CFG_WAYS n) + 1
  let k := full - cnt + i
  let far := 4 * (k % ways * (full / ways) + k / ways)
  let near := 4 * k
  let down := 4 * (cnt - 1 - i)
  let wrap := fun x : Nat => x % 2 ^ 32
  match c.fld (DMAn_CFG_ILV n) with
  | 1 => (wrap (src + far), wrap (dst + near * dinc))
  | 2 => (wrap (src + near * sinc), wrap (dst + far))
  | _ => if c.dmaDescends n then (wrap (src + down), wrap (dst + down))
         else (wrap (src + 4 * i * sinc), wrap (dst + 4 * i * dinc))

/-- The reads of a burst, in order: each word with its destination, and whether any was refused. -/
def State.dmaReads (s : State) : List (Nat × Nat) → List (Nat × Word) × Bool × State
  | [] => ([], false, s)
  | (src, dst) :: r =>
    let (v, bad, s) := s.busRead .dma src
    let (l, bad2, s) := s.tick.dmaReads r
    ((dst, v) :: l, bad || bad2, s)

/-- The last write of a transfer leaves (R476, R480): done, with its pulse. -/
def Chip.dmaComplete (c : Chip) (n : Nat) : Chip :=
  let c := c.setFld (DMAn_STAT_STATE n) 2
  if c.is (DMAn_CFG_CTEN n) then c.trigRaise (c.fld (DMAn_CFG_CTRG n)) else c

/-- An element's write has left the engine: CNT falls, and an ascending plain copy's addresses advance (R476, R478). -/
def Chip.dmaLeft (c : Chip) (n : Nat) (up : Bool) : Chip :=
  let cnt := c.fld (DMAn_CNT_CNT n)
  let c := c.setFld (DMAn_CNT_CNT n) (cnt - 1)
  let adv := fun (c : Chip) (a inc : Nat) => c.setReg a (c.reg a + BitVec.ofNat 32 (4 * inc))
  if up then adv (adv c (DMAn_SRC n) (c.fld (DMAn_CFG_SINC n))) (DMAn_DST n) (c.fld (DMAn_CFG_DINC n)) else c

/-- The writes of a burst, in order. `bad` says that an access of the burst was refused. A reset that one of them starts ends the
transfer. -/
def State.dmaWrites (s : State) (n : Nat) (up bad : Bool) (same : Word) : List (Nat × Word) → State
  | [] => if bad then { s with chip := s.chip.dmaRefused n } else s
  | (a, v) :: r =>
    let active := s.chip.dmaActive n
    let (no, s) := s.busWrite .dma a (keepSame a v same)
    if (s.chip.dmaOf n).full = 0 then s
    else
      let bad := bad || no
      let c := s.chip.dmaLeft n up
      let c := if active ∧ c.fld (DMAn_CNT_CNT n) = 0 ∧ bad = false then c.dmaComplete n else c
      State.dmaWrites (State.tick { s with chip := c }) n up bad same r

/-- One burst of channel n (R469): its reads and then its writes. A trigger-paced channel's pulse is taken (R470).
DEDUCED (assumption 42). -/
def State.dmaBurst (s : State) (n : Nat) (same : Word) : State :=
  let c := s.chip
  let up := c.dmaAscends n
  let addrs := (List.range (c.burstLen n)).map fun i => c.dmaAddrs n i
  let c := if 32 ≤ c.fld (DMAn_CFG_REQ n) then c.setDma n { c.dmaOf n with pulse := false } else c
  let s := { s with chip := { c with dmaLast := n } }
  let (words, bad, s) := s.dmaReads addrs
  s.dmaWrites n up bad same words

/-- The engine moves the next burst, where one is ready (R475). DEDUCED (assumption 73). -/
def State.dmaServe (s : State) (same : Word) : State :=
  match s.chip.dmaNext with
  | some n => s.dmaBurst n same
  | none => s

/-! ### Meanings -/

/-- REGISTER_WRITE (R8, R10). DESIGN CHOICE (assumption 103). -/
def execRegisterWrite (dma : Bool) (a : Word) (w : RegWrite) : State → Host.Outcome State Fault Refusal :=
  actReset Chip.clocked fun s => s.masterWrite dma a.toNat (keepSame a.toNat w.value w.same)

/-- DMA_BURST (R475, R10). DESIGN CHOICE (assumption 103). -/
def execDmaBurst (s : State) (same : Word := 0) : Host.Outcome State Fault Refusal :=
  actReset Chip.clocked (fun s => s.dmaServe same) s

end Sys2Proof.Machine
end

