-- ==== Sys2Proof/Machine/HostPort.lean ====
section
/-! DEFINITION. The host port's transactions, its posted-write queue, events through it and the event controller's commands
(chapter "Host port and event controller", R503 to R525, R657), and the debug access register (R582). -/

namespace Sys2Proof.Machine

/-! ### Transactions -/

/-- Update the host port. -/
def State.updHost (s : State) (f : HostPort → HostPort) : State :=
  { s with chip := { s.chip with host := f s.chip.host } }

/-- Does the host port take only PWR_CTL writes and PWR_STAT reads: Hold, and the way out of it (R605, R606)?
DEDUCED (assumption 69). -/
def Chip.hostHeld (c : Chip) : Bool := decide (2 ≤ c.pwrState)

/-- The status byte (R508, R605). -/
def Chip.statusByte (c : Chip) : Nat :=
  let lv := fun l => if c.hostHeld then 0 else c.ez.roomLevel l
  at_ 7 (bit c.host.err) + at_ 6 (bit c.host.rej) + at_ 4 (lv 0) + at_ 2 (lv 1) + lv 2

/-- HCSN falls: the width written takes effect (R504). -/
def State.txnBegin (s : State) : State :=
  State.updHost { s with chip := s.chip.setFld HST_STAT_WIDTH_ACT (s.chip.fld HST_CFG_WIDTH) }
    fun h => { h with txn := h.txn + 1 }

/-- The status byte is delivered (R508). -/
def State.txnStatus (s : State) : State :=
  s.updHost fun h => { h with status := BitVec.ofNat 8 s.chip.statusByte, err := false, rej := false }

/-- A transaction begins and delivers its status byte (R505). -/
def State.txnStart (s : State) : State := s.txnBegin.txnStatus

/-- Count a transaction's queued words as counted in HST_CNT (R524). -/
def HostPort.mark (h : HostPort) (txn : Nat) : HostPort :=
  { h with queue := h.queue.map fun p => if p.txn = txn then { p with counted := true } else p }

/-- An error of transaction `txn` (R512, R524): `counted` says that it has set ERR before. -/
def State.txnErr (s : State) (txn why : Nat) (counted : Bool) : State :=
  if counted then { s with chip := s.chip.hostErrFlag why }
  else State.updHost { s with chip := s.chip.hostErr why } fun h => h.mark txn

/-- An error of the transaction under way. -/
def State.nowErr (s : State) (why : Nat) (counted : Bool) : State := s.txnErr s.chip.host.txn why counted

/-! ### The posted-write queue -/

/-- Must the word wait: a bank write whose region's buffer is full (R443, R657)? A write that is refused does not wait. -/
def Chip.postWaits (c : Chip) (a : Nat) : Bool :=
  decide (placeOf a = .bank) && !c.bankRefused .host a && decide (32 ≤ (c.rm (bankRegion a)).wbuf.length)

/-- The word at the head of the queue lands in its target, unless it must wait (R512, R657). -/
def State.landPosted (s : State) (same : Word) : State :=
  match s.chip.host.queue with
  | [] => s
  | p :: rest =>
    if s.chip.postWaits p.addr.toNat then s
    else
      let s := s.updHost fun h => { h with queue := rest, landed := h.landed + 1 }
      let (bad, s) := s.busWrite .host p.addr.toNat (keepSame p.addr.toNat p.value same)
      if bad then s.txnErr p.txn 4 p.counted else s

/-- The head of a full queue, whose target can take it, has left before the next word arrives (R657). DEDUCED (assumption 70). -/
def State.postRoom (s : State) : State :=
  match s.chip.host.queue with
  | p :: _ => if 64 ≤ s.chip.host.queue.length ∧ s.chip.postWaits p.addr.toNat = false then (s.landPosted 0).tick else s
  | [] => s

/-- Post the words of a write in order (R657); false where one finds the queue full behind a word that waits, and the words from there
on are refused. A reset that a landing starts ends the transaction. -/
def State.post (s : State) (a step : Nat) : List Word → Bool × State
  | [] => (true, s)
  | v :: r =>
    let s := s.postRoom
    if s.chip.portOpen = false then (true, s)
    else if 64 ≤ s.chip.host.queue.length then (false, s)
    else
      State.post (s.updHost fun h =>
        { h with queue := h.queue ++ [{ txn := h.txn, addr := BitVec.ofNat 32 a, value := v, counted := false }],
                 posted := h.posted + 1 })
        ((a + step) % 2 ^ 32) step r

/-- Every posted word lands, regions' buffers making room as they must (R513). DEDUCED (assumption 70). -/
def State.drainPosted (s : State) : Nat → State
  | 0 => s
  | n + 1 =>
    match s.chip.host.queue with
    | [] => s
    | p :: _ =>
      let a := p.addr.toNat
      let s := if s.chip.postWaits a then s.wbufDrain (bankRegion a) 1 else s
      (s.landPosted 0).tick.drainPosted n

/-! ### Writes -/

/-- Words written in Hold: only those to PWR_CTL are taken (R605). DEDUCED (assumption 69). -/
def State.heldWrites (s : State) (a step : Nat) (counted : Bool) : List Word → State
  | [] => s
  | v :: r =>
    let no := decide (a ≠ PWR_CTL)
    let s := if no then s.nowErr 4 counted else { s with chip := s.chip.pwrCtl v }
    s.heldWrites ((a + step) % 2 ^ 32) step (counted || no) r

/-- WR and WRF (R507, R509, R657): `cut` where the transaction ends partway through a further word. DEDUCED (assumption 70). -/
def State.hostWrite (s : State) (a step : Nat) (words : List Word) (cut : Bool) : State :=
  let s := s.txnStart
  let full := fun (x : Bool × State) =>
    let s := if x.1 then x.2 else x.2.nowErr 7 false
    if cut && s.chip.portOpen then s.nowErr 3 (!x.1) else s
  if a % 4 ≠ 0 then
    let s := s.nowErr 2 false
    if cut then s.nowErr 3 true else s
  else if s.chip.hostHeld then
    let s := s.heldWrites a step false words
    if cut then s.nowErr 3 s.chip.host.err else s
  else full (s.post a step words)

/-! ### Reads -/

/-- One word of a host read (R512, R605). -/
def State.hostReadWord (s : State) (a : Nat) : Word × Bool × State :=
  if s.chip.hostHeld then (if a = PWR_STAT then s.chip.reg a else 0, decide (a ≠ PWR_STAT), s)
  else
    let (v, bad, s) := s.busRead .host a
    (if bad then 0 else v, bad, s)

/-- Words read at an address stepping by `step`, and whether any was refused. -/
def State.hostReads (s : State) (a step : Nat) : Nat → List Word × Bool × State
  | 0 => ([], false, s)
  | n + 1 =>
    let (v, bad, s) := s.hostReadWord a
    let (l, bad2, s) := s.tick.hostReads ((a + step) % 2 ^ 32) step n
    (v :: l, bad || bad2, s)

/-- RD and RDF (R507, R509 to R513): posted writes land first; a read that starts in an xSPI window fetches at most 16 words.
DEDUCED (assumption 70). -/
def State.hostRead (s : State) (a step count : Nat) (cut : Bool) : State :=
  let s := s.txnStart
  let give := fun (s : State) (l : List Word) => s.updHost fun h => { h with words := if cut then l.dropLast else l }
  if a % 4 ≠ 0 then give (s.nowErr 2 false) (List.replicate count 0)
  else
    let s := if s.chip.hostHeld then s else s.drainPosted s.chip.host.queue.length
    let inWindow := decide (placeOf a = .window 0 ∨ placeOf a = .window 1) && !s.chip.hostHeld
    let n := if inWindow then min count 16 else count
    let (l, bad, s) := s.hostReads a step n
    let s := if bad then s.nowErr 4 false else s
    let s := if n < count then s.nowErr 5 bad else s
    give s (l ++ List.replicate (count - n) 0xFFFFFFFF)

/-! ### Events -/

/-- Offer the frames of an event transaction in order (R516); `fuel` bounds them, and a short one is an error.
DEDUCED (assumption 78). -/
def State.hostFrames (s : State) (lane : Nat) (ump cut later : Bool) : Nat → List Word → State
  | 0, _ => s
  | n + 1, ws =>
    if ws = [] then (if cut then s.nowErr 3 false else s)
    else
      let len := if ump then umpLen (ws.getD 0 0) else frameLen lane ws
      if ws.length < len then s.nowErr 3 false
      else State.hostFrames { s with chip := (s.chip.hostFrame lane ump later (ws.take len)).2 } lane ump cut true n (ws.drop len)

/-- EVA, EVB and EVC (R515, R516). -/
def State.hostEvents (s : State) (lane : Nat) (selector : Word) (words : List Word) (cut : Bool) : State :=
  let s := s.txnStart
  if s.chip.hostHeld then s.nowErr 4 false
  else if selector = 0 then s.hostFrames lane false cut false (words.length + 1) words
  else if selector = 0x10000000 then s.hostFrames lane true cut false (words.length + 1) words
  else s.nowErr 6 false

/-! ### The rest -/

/-- NOP (R507), and any transaction that ends in its status byte: one cut short by HCSN leaves ERR and REJ set (R508). -/
def State.hostNop (s : State) (cut : Bool) : State :=
  let s := if cut then s.txnBegin else s.txnStart
  if s.chip.hostHeld then s.nowErr 4 false else s

/-- The width reset (R504): the device drives nothing, so no status byte is delivered. -/
def State.widthReset (s : State) : State :=
  let s := s.txnBegin
  if s.chip.hostHeld then s.nowErr 4 false
  else { s with chip := (s.chip.clr HST_CFG_WIDTH).clr HST_STAT_WIDTH_ACT }

/-- Is HSIO0 high at the first 8 clocks of an RDF? With 4-bit transfers its command's nibbles are odd, and so are then the six upper
ones of its address (R504 to R506). -/
def Chip.rdfResets (c : Chip) (a : Word) : Bool := c.is HST_CFG_WIDTH && decide (a &&& 0x11111100 = 0x11111100)

/-- The command bytes of R507. -/
def hostCommands : List Nat := [0x00, 0x02, 0x12, 0x0B, 0x1B, 0x20, 0x21, 0x22, 0xFF]

/-- A transaction of an unknown command (R507): in 1-bit mode its status byte went out with the command byte (R505). A byte that
names a command is none. -/
def State.unknownCommand (s : State) (cmd : Nat) : State :=
  if cmd ∈ hostCommands then s
  else
    let s := s.txnBegin
    let s := if s.chip.is HST_STAT_WIDTH_ACT then s else s.txnStatus
    s.nowErr (if s.chip.hostHeld then 4 else 1) false

/-! ### DBGACC (R582) -/

/-- Does an address name a DBG register (R582)? -/
def isDbgReg (a : Nat) : Bool := decide (0xB100 ≤ a ∧ a < 0xB200)

/-- DBGACC's fields as shifted in, with what the access left in DATA and DONE. DEDUCED (assumption 68). -/
def Chip.dbgLatch (c : Chip) (shift : BitVec 66) (data : Word) (done : Bool) : Chip :=
  c.updTap fun t => { t with ir := 0x10, wr := shift.getLsbD 0, addr := shift.extractLsb' 1 32, data := data, done := done }

/-- The access that Update-DR starts (R582): DBGACC reaches the DBG registers, and everything while UNLOCKED = 1.
DEDUCED (assumption 68). -/
def State.dbgAccess (s : State) (shift : BitVec 66) (same : Word) : State :=
  let a := (shift.extractLsb' 1 32).toNat
  let wr := shift.getLsbD 0
  let latch := fun (s : State) (v : Word) (done : Bool) => { s with chip := s.chip.dbgLatch shift v done }
  if a % 4 ≠ 0 ∨ s.chip.clocked = false then latch s 0 false
  else if s.chip.saf.unlocked = false ∧ isDbgReg a = false then latch s 0 true
  else if wr then
    let (bad, s) := s.busWrite .dbg a (keepSame a (shift.extractLsb' 33 32) same)
    latch s 0 (!bad)
  else
    let (v, bad, s) := s.busRead .dbg a
    latch s (if bad then 0 else v) (!bad)

/-! ### Meanings -/

/-- WR (R507, R657). -/
def execWr (a : Word) (words : List Word) (cut : Bool) : State → Host.Outcome State Fault Refusal :=
  actReset Chip.portOpen fun s => s.hostWrite a.toNat 4 words cut

/-- WRF (R507, R657). -/
def execWrf (a : Word) (words : List Word) (cut : Bool) : State → Host.Outcome State Fault Refusal :=
  actReset Chip.portOpen fun s => s.hostWrite a.toNat 0 words cut

/-- RD (R509, R510). -/
def execRd (a : Word) (count : Nat) (cut : Bool) : State → Host.Outcome State Fault Refusal :=
  actReset Chip.portOpen fun s => s.hostRead a.toNat 4 count cut

/-- RDF (R509, R510), unless its first clocks are a width reset (R504). -/
def execRdf (a : Word) (count : Nat) (cut : Bool) : State → Host.Outcome State Fault Refusal :=
  actReset Chip.portOpen fun s => if s.chip.rdfResets a then s.widthReset else s.hostRead a.toNat 0 count cut

/-- EVA (R515). -/
def execEva (sel : Word) (words : List Word) (cut : Bool) : State → Host.Outcome State Fault Refusal :=
  actReset Chip.portOpen fun s => s.hostEvents 0 sel words cut

/-- EVB (R515). -/
def execEvb (sel : Word) (words : List Word) (cut : Bool) : State → Host.Outcome State Fault Refusal :=
  actReset Chip.portOpen fun s => s.hostEvents 1 sel words cut

/-- EVC (R515). -/
def execEvc (sel : Word) (words : List Word) (cut : Bool) : State → Host.Outcome State Fault Refusal :=
  actReset Chip.portOpen fun s => s.hostEvents 2 sel words cut

/-- HOST_NOP (R507, R508). DEDUCED (assumption 70). -/
def execHostNop (s : State) (cut : Bool := false) : Host.Outcome State Fault Refusal :=
  actReset Chip.portOpen (fun s => s.hostNop cut) s

/-- WIDTH_RESET (R504). -/
def execWidthReset : State → Host.Outcome State Fault Refusal := actReset Chip.portOpen State.widthReset

/-- UNKNOWN_COMMAND (R507). -/
def execUnknownCommand (cmd : Byte) : State → Host.Outcome State Fault Refusal :=
  actReset Chip.portOpen fun s => s.unknownCommand cmd.toNat

/-- POSTED_WRITE_LAND (R657, R10). DESIGN CHOICE (assumption 103). -/
def execPostedWriteLand (s : State) (same : Word := 0) : Host.Outcome State Fault Refusal :=
  actReset Chip.clocked (fun s => s.landPosted same) s

/-- EVC_RAISE (R522). -/
def execEvcRaise (i : BitVec 7) : State → Host.Outcome State Fault Refusal := act fun c => c.raise i.toNat

/-- EVENT_SOURCE_RAISE (R519). -/
def execEventSourceRaise (i : BitVec 7) : State → Host.Outcome State Fault Refusal := act fun c => c.raise i.toNat

/-- DBGACC (R582, R10). DESIGN CHOICE (assumption 103). -/
def execDbgacc (shift : BitVec 66) (s : State) (same : Word := 0) : Host.Outcome State Fault Refusal :=
  actReset (fun c => c.pwr.vin) (fun s => s.dbgAccess shift same) s

end Sys2Proof.Machine
end

