-- ==== Sys2Proof/Machine/Dispatch.lean ====
section
/-! DEFINITION. The meaning of each command: one arm per constructor. -/

namespace Sys2Proof.Machine

def exec (i : Instr) (s : State) : Host.Outcome State Fault Refusal :=
  match i with
  | .registerWrite dma addr write => Sys2Proof.Machine.execRegisterWrite dma addr write s
  | .sampleBoundary => Sys2Proof.Machine.execSampleBoundary s
  | .contourPass r b x bad => Sys2Proof.Machine.execContourPass r b x bad s
  | .matrixPass r b x bad => Sys2Proof.Machine.execMatrixPass r b x bad s
  | .phasePass r b u x bad => Sys2Proof.Machine.execPhasePass r b u x bad s
  | .macPass c x bad => Sys2Proof.Machine.execMacPass c x bad s
  | .glazePass r b g cell bad => Sys2Proof.Machine.execGlazePass r b g cell bad s
  | .nop c => Sys2Proof.Machine.execNop c s
  | .endPass c => Sys2Proof.Machine.execEndPass c s
  | .bra c target => Sys2Proof.Machine.execBra c target s
  | .bcc c cond target => Sys2Proof.Machine.execBcc c cond target s
  | .doLoop c count stop => Sys2Proof.Machine.execDoLoop c count stop s
  | .rep c count => Sys2Proof.Machine.execRep c count s
  | .repFromRegister c reg => Sys2Proof.Machine.execRepFromRegister c reg s
  | .inj c src page view word => Sys2Proof.Machine.execInj c src page view word s
  | .ldi c dst imm => Sys2Proof.Machine.execLdi c dst imm s
  | .mvx c fields => Sys2Proof.Machine.execMvx c fields s
  | .move c dst src => Sys2Proof.Machine.execMove c dst src s
  | .pmovOp c d x mv => Sys2Proof.Machine.execPmovOp c d x mv s
  | .mpyOp c d x mv => Sys2Proof.Machine.execMpyOp c d x mv s
  | .mpynOp c d x mv => Sys2Proof.Machine.execMpynOp c d x mv s
  | .macOp c d x mv => Sys2Proof.Machine.execMacOp c d x mv s
  | .macnOp c d x mv => Sys2Proof.Machine.execMacnOp c d x mv s
  | .ldOp c d x mv => Sys2Proof.Machine.execLdOp c d x mv s
  | .addOp c d x mv => Sys2Proof.Machine.execAddOp c d x mv s
  | .subOp c d x mv => Sys2Proof.Machine.execSubOp c d x mv s
  | .negOp c d x mv => Sys2Proof.Machine.execNegOp c d x mv s
  | .absOp c d x mv => Sys2Proof.Machine.execAbsOp c d x mv s
  | .clrOp c d x mv => Sys2Proof.Machine.execClrOp c d x mv s
  | .shlOp c d x mv => Sys2Proof.Machine.execShlOp c d x mv s
  | .shrOp c d x mv => Sys2Proof.Machine.execShrOp c d x mv s
  | .andOp c d x mv => Sys2Proof.Machine.execAndOp c d x mv s
  | .orOp c d x mv => Sys2Proof.Machine.execOrOp c d x mv s
  | .eorOp c d x mv => Sys2Proof.Machine.execEorOp c d x mv s
  | .cmpOp c d x mv => Sys2Proof.Machine.execCmpOp c d x mv s
  | .maxOp c d x mv => Sys2Proof.Machine.execMaxOp c d x mv s
  | .minOp c d x mv => Sys2Proof.Machine.execMinOp c d x mv s
  | .clipOp c d x mv => Sys2Proof.Machine.execClipOp c d x mv s
  | .tapOp c d x mv => Sys2Proof.Machine.execTapOp c d x mv s
  | .tapnOp c d x mv => Sys2Proof.Machine.execTapnOp c d x mv s
  | .illegal c word => Sys2Proof.Machine.execIllegal c word s
  | .injectionDelivery c => Sys2Proof.Machine.execInjectionDelivery c s
  | .fenceTake c => Sys2Proof.Machine.execFenceTake c s
  | .haltTake c => Sys2Proof.Machine.execHaltTake c s
  | .budgetCut c => Sys2Proof.Machine.execBudgetCut c s
  | .budgetRampEnd r b x => Sys2Proof.Machine.execBudgetRampEnd r b x s
  | .glazeEnd r b x => Sys2Proof.Machine.execGlazeEnd r b x s
  | .tailEnd r b x => Sys2Proof.Machine.execTailEnd r b x s
  | .blkLoadRequest r b value => Sys2Proof.Machine.execBlkLoadRequest r b value s
  | .blockDisable r b => Sys2Proof.Machine.execBlockDisable r b s
  | .blockEnable r b => Sys2Proof.Machine.execBlockEnable r b s
  | .blockDrainEnd r b => Sys2Proof.Machine.execBlockDrainEnd r b s
  | .templateLoad r => Sys2Proof.Machine.execTemplateLoad r s
  | .templateLoadDone r => Sys2Proof.Machine.execTemplateLoadDone r s
  | .blockWake r => Sys2Proof.Machine.execBlockWake r s
  | .blockWakeDone r => Sys2Proof.Machine.execBlockWakeDone r s
  | .blockPowerGate r b => Sys2Proof.Machine.execBlockPowerGate r b s
  | .cacheRefillDone r b line => Sys2Proof.Machine.execCacheRefillDone r b line s
  | .mdatRead r b => Sys2Proof.Machine.execMdatRead r b s
  | .mdatWrite r b value => Sys2Proof.Machine.execMdatWrite r b value s
  | .tbload => Sys2Proof.Machine.execTbload s
  | .tbLoadApply => Sys2Proof.Machine.execTbLoadApply s
  | .tblRead dma => Sys2Proof.Machine.execTblRead dma s
  | .estopSet => Sys2Proof.Machine.execEstopSet s
  | .engineStopFadeEnd => Sys2Proof.Machine.execEngineStopFadeEnd s
  | .estopClear => Sys2Proof.Machine.execEstopClear s
  | .emodeWrite mode => Sys2Proof.Machine.execEmodeWrite mode s
  | .pllLockLoss pll => Sys2Proof.Machine.execPllLockLoss pll s
  | .fsyncGroupEdge err => Sys2Proof.Machine.execFsyncGroupEdge err s
  | .fsyncTimeout => Sys2Proof.Machine.execFsyncTimeout s
  | .hostFrameAccept lane ump later words => Sys2Proof.Machine.execHostFrameAccept lane ump later words s
  | .easelService => Sys2Proof.Machine.execEaselService s
  | .frameNop w0 w1 w2 => Sys2Proof.Machine.execFrameNop w0 w1 w2 s
  | .noteOn w0 w1 w2 => Sys2Proof.Machine.execNoteOn w0 w1 w2 s
  | .noteOff w0 w1 w2 => Sys2Proof.Machine.execNoteOff w0 w1 w2 s
  | .noteCtl w0 w1 w2 => Sys2Proof.Machine.execNoteCtl w0 w1 w2 s
  | .partWord w0 w1 w2 => Sys2Proof.Machine.execPartWord w0 w1 w2 s
  | .voiceWord w0 w1 w2 => Sys2Proof.Machine.execVoiceWord w0 w1 w2 s
  | .bulk w0 w1 w2 data => Sys2Proof.Machine.execBulk w0 w1 w2 data s
  | .cancel w0 w1 w2 => Sys2Proof.Machine.execCancel w0 w1 w2 s
  | .allOff w0 w1 w2 => Sys2Proof.Machine.execAllOff w0 w1 w2 s
  | .allSoundOff w0 w1 w2 => Sys2Proof.Machine.execAllSoundOff w0 w1 w2 s
  | .sustain w0 w1 w2 => Sys2Proof.Machine.execSustain w0 w1 w2 s
  | .timedStoreRelease => Sys2Proof.Machine.execTimedStoreRelease s
  | .readyListWrite r => Sys2Proof.Machine.execReadyListWrite r s
  | .evictLoad r b => Sys2Proof.Machine.execEvictLoad r b s
  | .umpPacket lane words => Sys2Proof.Machine.execUmpPacket lane words s
  | .jrClock group time => Sys2Proof.Machine.execJrClock group time s
  | .jrTimestamp lane group time => Sys2Proof.Machine.execJrTimestamp lane group time s
  | .midiByte port byte framingBad => Sys2Proof.Machine.execMidiByte port byte framingBad s
  | .activeSensingTimeout port => Sys2Proof.Machine.execActiveSensingTimeout port s
  | .detectorEvent c release peak => Sys2Proof.Machine.execDetectorEvent c release peak s
  | .motxWrite o byte => Sys2Proof.Machine.execMotxWrite o byte s
  | .midiOutByte o => Sys2Proof.Machine.execMidiOutByte o s
  | .partCreate p => Sys2Proof.Machine.execPartCreate p s
  | .partDestroy p => Sys2Proof.Machine.execPartDestroy p s
  | .partDestroyGlaze p => Sys2Proof.Machine.execPartDestroyGlaze p s
  | .entryReturn => Sys2Proof.Machine.execEntryReturn s
  | .busGainWrite j value => Sys2Proof.Machine.execBusGainWrite j value s
  | .blockFadeEnd r b => Sys2Proof.Machine.execBlockFadeEnd r b s
  | .aoEnable k => Sys2Proof.Machine.execAoEnable k s
  | .aoDisable k => Sys2Proof.Machine.execAoDisable k s
  | .aoMute k => Sys2Proof.Machine.execAoMute k s
  | .aoUnmute k => Sys2Proof.Machine.execAoUnmute k s
  | .aoRampEnd k => Sys2Proof.Machine.execAoRampEnd k s
  | .aoCurrentLimit k => Sys2Proof.Machine.execAoCurrentLimit k s
  | .cvUpdate c => Sys2Proof.Machine.execCvUpdate c s
  | .cvCodeWrite c code => Sys2Proof.Machine.execCvCodeWrite c code s
  | .cvSpanWrite c span => Sys2Proof.Machine.execCvSpanWrite c span s
  | .cvSpanClampEnd c => Sys2Proof.Machine.execCvSpanClampEnd c s
  | .cvDisable c => Sys2Proof.Machine.execCvDisable c s
  | .cvRampEnd c => Sys2Proof.Machine.execCvRampEnd c s
  | .deglitchHoldEnd c => Sys2Proof.Machine.execDeglitchHoldEnd c s
  | .cvCurrentLimit c => Sys2Proof.Machine.execCvCurrentLimit c s
  | .vnegOkRise => Sys2Proof.Machine.execVnegOkRise s
  | .vnegOkFall => Sys2Proof.Machine.execVnegOkFall s
  | .chargePumpStop => Sys2Proof.Machine.execChargePumpStop s
  | .cvPhrst mask => Sys2Proof.Machine.execCvPhrst mask s
  | .cvGroupPrst g => Sys2Proof.Machine.execCvGroupPrst g s
  | .cvCheck g differs agrees => Sys2Proof.Machine.execCvCheck g differs agrees s
  | .aiSync mask => Sys2Proof.Machine.execAiSync mask s
  | .aiEnable c => Sys2Proof.Machine.execAiEnable c s
  | .aiDisable c => Sys2Proof.Machine.execAiDisable c s
  | .aiRespWrite c resp => Sys2Proof.Machine.execAiRespWrite c resp s
  | .xfadeEnd c => Sys2Proof.Machine.execXfadeEnd c s
  | .decimOutput c y yNew mods ovl => Sys2Proof.Machine.execDecimOutput c y yNew mods ovl s
  | .aiDeliver c y => Sys2Proof.Machine.execAiDeliver c y s
  | .aiDataRead c => Sys2Proof.Machine.execAiDataRead c s
  | .decimFault c => Sys2Proof.Machine.execDecimFault c s
  | .saEnable p => Sys2Proof.Machine.execSaEnable p s
  | .saDisable p => Sys2Proof.Machine.execSaDisable p s
  | .saFadeEnd p => Sys2Proof.Machine.execSaFadeEnd p s
  | .saFrame p words clock => Sys2Proof.Machine.execSaFrame p words clock s
  | .saLoopTimeout p => Sys2Proof.Machine.execSaLoopTimeout p s
  | .saDataRead q => Sys2Proof.Machine.execSaDataRead q s
  | .writeBufferLand r => Sys2Proof.Machine.execWriteBufferLand r s
  | .fenceRead r dma => Sys2Proof.Machine.execFenceRead r dma s
  | .fenceReadComplete r => Sys2Proof.Machine.execFenceReadComplete r s
  | .eccCorrect k word => Sys2Proof.Machine.execEccCorrect k word s
  | .eccUncorrectable k word => Sys2Proof.Machine.execEccUncorrectable k word s
  | .bankWake r => Sys2Proof.Machine.execBankWake r s
  | .bankRetentionReturn r => Sys2Proof.Machine.execBankRetentionReturn r s
  | .restorerStep => Sys2Proof.Machine.execRestorerStep s
  | .xsPageProgram x count => Sys2Proof.Machine.execXsPageProgram x count s
  | .xsErase4k x => Sys2Proof.Machine.execXsErase4k x s
  | .xsErase64k x => Sys2Proof.Machine.execXsErase64k x s
  | .xsReadStatus x status => Sys2Proof.Machine.execXsReadStatus x status s
  | .xsCmdDone x ready => Sys2Proof.Machine.execXsCmdDone x ready s
  | .xsDataWrite x value => Sys2Proof.Machine.execXsDataWrite x value s
  | .xsProtoWrite x => Sys2Proof.Machine.execXsProtoWrite x s
  | .xspiReadFail x => Sys2Proof.Machine.execXspiReadFail x s
  | .streamRefill x => Sys2Proof.Machine.execStreamRefill x s
  | .dmaStart n => Sys2Proof.Machine.execDmaStart n s
  | .dmaStop n => Sys2Proof.Machine.execDmaStop n s
  | .dmaBurst same => Sys2Proof.Machine.execDmaBurst s same
  | .triggerPulse l => Sys2Proof.Machine.execTriggerPulse l s
  | .trgswWrite mask => Sys2Proof.Machine.execTrgswWrite mask s
  | .gpEdge pin level => Sys2Proof.Machine.execGpEdge pin level s
  | .timerTick n => Sys2Proof.Machine.execTimerTick n s
  | .timerReset n => Sys2Proof.Machine.execTimerReset n s
  | .timerCntWrite n value => Sys2Proof.Machine.execTimerCntWrite n value s
  | .timerCmp1Write n value => Sys2Proof.Machine.execTimerCmp1Write n value s
  | .timerPerWrite n value => Sys2Proof.Machine.execTimerPerWrite n value s
  | .timerCapture n => Sys2Proof.Machine.execTimerCapture n s
  | .timerCapRead n dma => Sys2Proof.Machine.execTimerCapRead n dma s
  | .timerCntRead n dma => Sys2Proof.Machine.execTimerCntRead n dma s
  | .tempoStart => Sys2Proof.Machine.execTempoStart s
  | .tempoStop => Sys2Proof.Machine.execTempoStop s
  | .tempoCont => Sys2Proof.Machine.execTempoCont s
  | .tempoTick => Sys2Proof.Machine.execTempoTick s
  | .wr addr words cut => Sys2Proof.Machine.execWr addr words cut s
  | .wrf addr words cut => Sys2Proof.Machine.execWrf addr words cut s
  | .rd addr count cut => Sys2Proof.Machine.execRd addr count cut s
  | .rdf addr count cut => Sys2Proof.Machine.execRdf addr count cut s
  | .eva selector words cut => Sys2Proof.Machine.execEva selector words cut s
  | .evb selector words cut => Sys2Proof.Machine.execEvb selector words cut s
  | .evc selector words cut => Sys2Proof.Machine.execEvc selector words cut s
  | .hostNop cut => Sys2Proof.Machine.execHostNop s cut
  | .widthReset => Sys2Proof.Machine.execWidthReset s
  | .unknownCommand cmd => Sys2Proof.Machine.execUnknownCommand cmd s
  | .postedWriteLand same => Sys2Proof.Machine.execPostedWriteLand s same
  | .evcRaise j => Sys2Proof.Machine.execEvcRaise j s
  | .eventSourceRaise j => Sys2Proof.Machine.execEventSourceRaise j s
  | .vinLoss => Sys2Proof.Machine.execVinLoss s
  | .brownOut env => Sys2Proof.Machine.execBrownOut env s
  | .pinReset env => Sys2Proof.Machine.execPinReset env s
  | .softwareReset value env => Sys2Proof.Machine.execSoftwareReset value env s
  | .faultReset logic env => Sys2Proof.Machine.execFaultReset logic env s
  | .tapReset => Sys2Proof.Machine.execTapReset s
  | .vioLoss env => Sys2Proof.Machine.execVioLoss env s
  | .bootStepTimeout env => Sys2Proof.Machine.execBootStepTimeout env s
  | .bootCont value env => Sys2Proof.Machine.execBootCont value env s
  | .bootLoad value env => Sys2Proof.Machine.execBootLoad value env s
  | .runtimeLoadEnd => Sys2Proof.Machine.execRuntimeLoadEnd s
  | .clrhist value => Sys2Proof.Machine.execClrhist value s
  | .journalWrite => Sys2Proof.Machine.execJournalWrite s
  | .journalCommit => Sys2Proof.Machine.execJournalCommit s
  | .journalWriteDone ready => Sys2Proof.Machine.execJournalWriteDone ready s
  | .portBRevoke r master => Sys2Proof.Machine.execPortBRevoke r master s
  | .dispatchRevoke r b => Sys2Proof.Machine.execDispatchRevoke r b s
  | .loadPathRevoke r => Sys2Proof.Machine.execLoadPathRevoke r s
  | .xspiCommandRevoke x => Sys2Proof.Machine.execXspiCommandRevoke x s
  | .cellStep => Sys2Proof.Machine.execCellStep s
  | .cellHandover differs => Sys2Proof.Machine.execCellHandover differs s
  | .cellTestDone fails => Sys2Proof.Machine.execCellTestDone fails s
  | .cellHandback differs => Sys2Proof.Machine.execCellHandback differs s
  | .buckFault k => Sys2Proof.Machine.execBuckFault k s
  | .buckCurrentLimit k => Sys2Proof.Machine.execBuckCurrentLimit k s
  | .bkaRestart regulates => Sys2Proof.Machine.execBkaRestart regulates s
  | .vinMeasure mv => Sys2Proof.Machine.execVinMeasure mv s
  | .tempMeasure celsius => Sys2Proof.Machine.execTempMeasure celsius s
  | .slackCheck r short => Sys2Proof.Machine.execSlackCheck r short s
  | .opPointFall r => Sys2Proof.Machine.execOpPointFall r s
  | .regionDoze r => Sys2Proof.Machine.execRegionDoze r s
  | .holdRequest key => Sys2Proof.Machine.execHoldRequest key s
  | .holdEntered => Sys2Proof.Machine.execHoldEntered s
  | .holdExit key => Sys2Proof.Machine.execHoldExit key s
  | .holdWakeMidi j => Sys2Proof.Machine.execHoldWakeMidi j s
  | .holdWakeGp pin rising => Sys2Proof.Machine.execHoldWakeGp pin rising s
  | .holdExitDone => Sys2Proof.Machine.execHoldExitDone s
  | .safProvisionSlot key slot => Sys2Proof.Machine.execSafProvisionSlot key slot s
  | .safRevokeSlot key slot => Sys2Proof.Machine.execSafRevokeSlot key slot s
  | .safSetSignreq key => Sys2Proof.Machine.execSafSetSignreq key s
  | .safProvisionDebugKey key => Sys2Proof.Machine.execSafProvisionDebugKey key s
  | .safSetDbgdis key => Sys2Proof.Machine.execSafSetDbgdis key s
  | .safCmdDone storeOk => Sys2Proof.Machine.execSafCmdDone storeOk s
  | .dbgChal => Sys2Proof.Machine.execDbgChal s
  | .dbgChalExpire => Sys2Proof.Machine.execDbgChalExpire s
  | .dbgVerify => Sys2Proof.Machine.execDbgVerify s
  | .dbgUnlockDone => Sys2Proof.Machine.execDbgUnlockDone s
  | .dbgLock => Sys2Proof.Machine.execDbgLock s
  | .dbgHaltWrite value => Sys2Proof.Machine.execDbgHaltWrite value s
  | .extest shift => Sys2Proof.Machine.execExtest shift s
  | .samplePreload pins shift => Sys2Proof.Machine.execSamplePreload pins shift s
  | .idcode => Sys2Proof.Machine.execIdcode s
  | .highz => Sys2Proof.Machine.execHighz s
  | .clamp => Sys2Proof.Machine.execClamp s
  | .bypass code => Sys2Proof.Machine.execBypass code s
  | .dbgacc shift same => Sys2Proof.Machine.execDbgacc shift s same
  | .vinRising => Sys2Proof.Machine.execVinRising s
  | .bkcReturn env => Sys2Proof.Machine.execBkcReturn env s
  | .bankWakeEnd r => Sys2Proof.Machine.execBankWakeEnd r s
  | .restorerStepDone reads => Sys2Proof.Machine.execRestorerStepDone reads s
  | .cellHoldTimeout => Sys2Proof.Machine.execCellHoldTimeout s

end Sys2Proof.Machine
end

