-- ==== Sys2Proof/Safety.lean ====
section
/-! DEFINITION. What counts as a sound state and a sound step: the canonical form of the memories, and the one-time content of
the Saffron store. -/

namespace Sys2Proof.Machine

/-- The banks are in canonical form: addresses strictly rising, no listed byte equal to what an unlisted one reads as. -/
def MemState.wf (m : MemState) : Bool := tabWf (fun _ => (0 : Byte)) m.banks && tabWf (fun _ => (0 : Nat)) m.ecc

/-- The flash of both ports is in canonical form; an unlisted byte reads 0xFF (assumption 3). -/
def NonVol.flashWf (n : NonVol) : Bool := tabWf (fun _ => (0xFF : Byte)) n.xa && tabWf (fun _ => (0xFF : Byte)) n.xb

/-- The memories are in canonical form, so that equal memories are equal data. -/
def State.memWf (s : State) : Bool := s.mem.wf && s.nv.flashWf

/-- The one-time content of the store has only moved forward from `n` to `n'` (R576, R577): SIGNREQ, DBGDIS and ERASED once set
stay set, a debug key once provisioned stays, no fuse of the tamper count comes back, and no maker slot returns to empty. -/
structure NonVol.Forward (n n' : NonVol) : Prop where
  signreq : n.signreq = true → n'.signreq = true
  dbgdis : n.dbgdis = true → n'.dbgdis = true
  erased : n.erased = true → n'.erased = true
  dbgHash : n.dbgHash.isSome = true → n'.dbgHash = n.dbgHash
  fuses : n'.tleft ≤ n.tleft
  slots : ∀ k, (tabGet n.slots ({} : KeySlot) k).st ≠ 0 → (tabGet n'.slots ({} : KeySlot) k).st ≠ 0

/-! ### Frames -/

/-- The pending bit of an event source, as a field (R519). -/
def evBit (src : Nat) : Field := ⟨EVC_PEND (src / 32), src % 32, 1⟩

/-- A register as a field. -/
def regField (a : Nat) : Field := ⟨a, 0, 32⟩

/-- Is an event source pending? -/
def Chip.isPending (c : Chip) (src : Nat) : Bool := c.is (evBit src)

/-- Banks, flash, key store and queue are as they were. -/
def State.SameStore (s t : State) : Prop := t.mem = s.mem ∧ t.nv = s.nv ∧ t.pending = s.pending

/-- Every bit of every register outside the fields of `l` is as it was. -/
def Chip.BitsKept (c d : Chip) (l : List Field) : Prop :=
  ∀ a i, (∀ f ∈ l, ¬(f.addr = a ∧ f.lo ≤ i ∧ i < f.lo + f.width)) → (d.reg a).getLsbD i = (c.reg a).getLsbD i

/-- Registers alone have changed, and of them only the fields of `l`. -/
structure OnlyFields (s t : State) (l : List Field) : Prop where
  rest : t = { s with chip := { s.chip with regs := t.chip.regs } }
  bits : s.chip.BitsKept t.chip l

/-- The commands that may write the banks, the flash or the one-time content of the store: what lands in the banks or programs
flash, what a master writes, the loads, resets and faults that clear memory, and the store's own commands. -/
def touchesStore : Instr → Bool
  | .registerWrite .. | .dmaBurst .. | .wr .. | .wrf .. | .rd .. | .rdf .. | .postedWriteLand .. | .dbgacc .. => true
  | .writeBufferLand .. | .eccCorrect .. | .eccUncorrectable .. | .restorerStepDone .. | .xsCmdDone .. | .streamRefill .. => true
  | .vinLoss | .vinRising | .brownOut .. | .pinReset .. | .softwareReset .. | .faultReset .. | .vioLoss .. | .bkcReturn .. => true
  | .bootStepTimeout .. | .bootCont .. | .bootLoad .. | .clrhist .. | .runtimeLoadEnd | .portBRevoke .. => true
  | .buckFault .. | .tempMeasure .. | .journalWriteDone .. => true
  | .safProvisionSlot .. | .safRevokeSlot .. | .safSetSignreq .. | .safProvisionDebugKey .. | .safSetDbgdis .. => true
  | .safCmdDone .. | .dbgVerify | .dbgUnlockDone => true
  | _ => false

end Sys2Proof.Machine
end

