-- ==== Sys2Proof/Effects.lean ====
section
/-! DEFINITION. The terms the statements share: what a cell's pass leaves, when it runs, what a fault record says, and what a
command's frame names. -/

namespace Sys2Proof.Machine

/-- The fields a block's fault record and its source take up (R121, R126). -/
def blkFaultBits (r b : Nat) : List Field :=
  [BLK_FAULT_SLOT r b, BLK_FAULT_CELL r b, BLK_FAULT_CODE r b, BLK_FAULT_BUDGET r b, BLK_FAULT_OTHER r b, evBit (112 + 4 * r)]

/-- A block's fault record names a slot, a cell and a code other than that of a budget cut, and its source is pending (R121,
R126). -/
structure Chip.FaultSays (c : Chip) (r b slot cell code : Nat) : Prop where
  slot : c.fld (BLK_FAULT_SLOT r b) = slot % 16
  cell : c.fld (BLK_FAULT_CELL r b) = cell % 16
  code : c.fld (BLK_FAULT_CODE r b) = code
  other : c.is (BLK_FAULT_OTHER r b) = true
  source : c.isPending (112 + 4 * r) = true

/-- The pass of slot s of a block at stage k runs, for the slot at `key` and sample n (R85, R90, R91): the block runs its
template, the slot holds an occupant that has begun, and no ramp of R91 has taken its outputs. -/
structure PassRuns (c : Chip) (r b s k : Nat) (tp : Content) (key n : Nat) : Prop where
  running : c.running r b = some tp
  slots : s < c.slotCount
  key_eq : key = c.passKey r b s k
  smp_eq : n = c.passSmp s k
  occupied : (c.slot key).occupied = true
  begun : (c.slot key).first ≤ n
  noRamp : ∀ f, (c.slot key).ramp = some f → n < f.start

/-- A glaze slot's pass runs (R103): the block runs its template, the glaze slot holds a member whose fade has begun, and the
standby cell is free for it. -/
structure GlazeRuns (c : Chip) (r b g : Nat) (tp : Content) (m : Nat) (joined : Bool) : Prop where
  running : c.running r b = some tp
  role : (c.slot (40 * blkKey r b + 16 + g)).role = .glaze m joined
  begun : ∃ f, (c.slot (40 * blkKey r b + 16 + g)).glaze = some f ∧ f.start ≤ c.clk.smp
  standby : (c.blk (blkKey r b)).glazes = true

/-- What words that fail their parity check in a pass leave behind (R558): nothing where none fails, else a fault record with
code 0x16 for the pass's slot and cell. -/
structure ParityEffect (c d : Chip) (r b slot cell : Nat) (bad : List Nat) : Prop where
  none_ : bad = [] → d.rep = c.rep
  some_ : bad ≠ [] → d.FaultSays r b slot cell 0x16
  walk : d.rep = { c.rep with walk := { c.rep.walk with ahead := d.rep.walk.ahead } }

/-- What the contour pass of the slot at `key` for sample n leaves (R230): each generator's next state and its output, and in no
other slot anything. A generator whose mode word fails its parity check keeps its state and outputs 0 (R558). -/
structure ContourEffect (c d : Chip) (tp : Content) (key n : Nat) (bad : List Nat) : Prop where
  others : ∀ k, k ≠ key → d.slot k = c.slot k
  kept : d.slot key = { c.slot key with
    gens := (d.slot key).gens, ccIn := (d.slot key).ccIn, gateWas := (d.slot key).gateWas, rand := (d.slot key).rand
    outs := (d.slot key).outs }
  gens : ∀ g, g < 8 → tabGet (d.slot key).gens {} g =
    if g ∈ bad then tabGet (c.slot key).gens {} g
    else (genStep (c.ccEnv tp key (c.slot key) (c.slot ((c.slot key).baseKey key)) n) g (tp.contour.getD g 0)
      (tabGet (c.slot key).gens {} g)).1
  outs : ∀ g, g < 8 → tabGet (d.slot key).outs {} (96 + g) = (tabGet (c.slot key).outs {} (96 + g)).push n
    (if g ∈ bad then 0
     else (genStep (c.ccEnv tp key (c.slot key) (c.slot ((c.slot key).baseKey key)) n) g (tp.contour.getD g 0)
      (tabGet (c.slot key).gens {} g)).2)
  outsKept : ∀ i, i < 96 ∨ 104 ≤ i → tabGet (d.slot key).outs {} i = tabGet (c.slot key).outs {} i

/-- What the matrix pass of the slot at `key` for sample n leaves (R249, R254): each destination holds the saturated sum of its
routes' contributions, or its default where no route names it; destinations 48 to 55 are the outputs of XC, and those of 72 to
95 are kept with their samples. A route that fails its parity check has no effect (R558). -/
structure MatrixEffect (c d : Chip) (tp : Content) (key n : Nat) (late : Bool) (bad : List Nat) (low : Option Nat) : Prop where
  others : ∀ k, k ≠ key → d.slot k = c.slot k
  kept : d.slot key = { c.slot key with
    dest := (d.slot key).dest, dests := (d.slot key).dests, outs := (d.slot key).outs }
  dest : ∀ i, i < 96 → tabGet (d.slot key).dest 0 i =
    let routes := blank tp.routes bad 0xFE000000
    let e := c.xcEnv tp key (c.slot key) (c.slot ((c.slot key).baseKey key)) late n
    if routed routes i then
      satQ ((routes.filter fun w => decide (routeDst w = i)).map (routeTerm (xcSource e) e.page)).sum
    else if 16 ≤ i ∧ i ≤ 31 then oneQ else 0
  outs : ∀ i, i < 8 → tabGet (d.slot key).outs {} (112 + i) =
    (tabGet (c.slot key).outs {} (112 + i)).push n (tabGet (d.slot key).dest 0 (48 + i))
  dests : ∀ i, i < 24 → tabGet (d.slot key).dests {} (72 + i) =
    (tabGet (c.slot key).dests {} (72 + i)).push n (tabGet (d.slot key).dest 0 (72 + i))
  outsKept : ∀ i, i < 112 ∨ 120 ≤ i → tabGet (d.slot key).outs {} i = tabGet (c.slot key).outs {} i
  exports : d.cvNew = c.cvNew ++ (c.slot key).exports low ((c.slot ((c.slot key).baseKey key)).page late)
    (blank tp.routes bad 0xFE000000) (d.slot key).dest

/-- What the phase pass of cell u for the slot at `key` and sample n leaves (R129, R163): the operators, the five outputs with
output 4 the weighted sum, the cache lines used and asked for, and the counts of misses and underruns. An operator that fails
its parity check outputs 0 (R558). -/
structure PhaseEffect (m : MemState) (c d : Chip) (tp : Content) (r b u key n : Nat) (late : Bool) (bad : List Nat) :
    Prop where
  others : ∀ k, k ≠ key → d.slot k = c.slot k
  kept : d.slot key = { c.slot key with ops := (d.slot key).ops, outs := (d.slot key).outs }
  ops : ∀ i, i < 16 → tabGet (d.slot key).ops {} i =
    let o := tabGet (phPass (phEnvOf m c tp r b u key n late) (c.slot key).ops
      (blank (tp.phase.getD u []) (bad.map fun i => 2 * i) 0)).1 {} i
    if 4 * u ≤ i ∧ i - 4 * u ∈ bad then
      { tabGet (c.slot key).ops {} i with y1 := 0, y2 := (tabGet (c.slot key).ops {} i).y1 } else o
  outs : ∀ p, p < 5 → tabGet (d.slot key).outs {} (16 * u + p) = (tabGet (c.slot key).outs {} (16 * u + p)).push n
    ((phPass (phEnvOf m c tp r b u key n late) (c.slot key).ops
      (blank (tp.phase.getD u []) (bad.map fun i => 2 * i) 0)).2.1.getD p 0)
  outsKept : ∀ i, i < 16 * u ∨ 16 * u + 5 ≤ i → tabGet (d.slot key).outs {} i = tabGet (c.slot key).outs {} i
  blocks : ∀ k, k ≠ blkKey r b → d.blk k = c.blk k
  cache : d.blk (blkKey r b) = { c.blk (blkKey r b) with
    cache := (d.blk (blkKey r b)).cache, useClock := (c.blk (blkKey r b)).useClock + 1
    refills := (d.blk (blkKey r b)).refills }
  misses : d.fld (BLK_CNT_MISS r b) = min (2 ^ 16 - 1) (c.fld (BLK_CNT_MISS r b) +
    (phPass (phEnvOf m c tp r b u key n late) (c.slot key).ops
      (blank (tp.phase.getD u []) (bad.map fun i => 2 * i) 0)).2.2.misses)
  underruns : d.fld (RGNn_STRSTAT_UND r) = min (2 ^ 16 - 1) (c.fld (RGNn_STRSTAT_UND r) +
    (phPass (phEnvOf m c tp r b u key n late) (c.slot key).ops
      (blank (tp.phase.getD u []) (bad.map fun i => 2 * i) 0)).2.2.underruns)
  regions : ∀ q, q ≠ r → d.rm q = c.rm q

/-- The word at an address of the banks has an error mark: 1 corrected by each read, 2 beyond correction, 0 none (R446, R447). -/
def MemState.ErrAt (m : MemState) (a kind : Nat) : Prop := tabGet m.ecc 0 (bankOf a * 2 ^ 19 + bankWord a) = kind

/-- The fields that a read of words of region r in error takes up (R446, R447): none while no word of the banks is. -/
def State.readBits (s : State) (r : Nat) : List Field :=
  if s.mem.ecc = [] then []
  else [regField MEM_ECC, regField MEM_EADDR, evBit 96, evBit 97, RGNn_FAULT_CODE r, RGNn_FAULT_FAULT r, evBit (115 + 4 * r)]

/-- The entries that name a block: of its region's lists, and of the note-ons that wait for an evicted block to empty. -/
def Chip.naming (c : Chip) (r b : Nat) : List Entry :=
  ((c.rgn r).ready ++ (c.rgn r).held ++ c.ez.evicts.map fun w => w.entry).filter fun e => decide (e.region = r ∧ e.block = b)

/-- Of the entries that return, those that go back to the allocator (R655): note-ons and steals, and entries of kinds 3 to 5 that
follow one of them. -/
def goingBack (gone : List Entry) : List Entry :=
  gone.filter fun e => decide (e.kind ≤ 2 ∨ (e.kind ≤ 5 ∧ ∃ f ∈ gone, f.kind ≤ 2 ∧ f.block = e.block ∧ f.slot = e.slot ∧ f.newGen = e.gen))

/-- Registers and plain state that a cell's pass may change: the slots and the free-value counter, and the parts named. -/
def passFrame (c d : Chip) : Chip := { c with regs := d.regs, slots := d.slots, rep := d.rep, ctr := c.ctr + 1 }

/-- The command of an arithmetic operation's issue (R208). -/
def arithCmd (u : MacUnit) (op : MacOp) (d : BitVec 1) (s : BitVec 3) (mv : BitVec 22) : Instr :=
  match op with
  | .pmov => .pmovOp u d s mv | .mpy => .mpyOp u d s mv | .mpyn => .mpynOp u d s mv | .mac => .macOp u d s mv
  | .macn => .macnOp u d s mv | .ld => .ldOp u d s mv | .add => .addOp u d s mv | .sub => .subOp u d s mv
  | .neg => .negOp u d s mv | .abs => .absOp u d s mv | .clr => .clrOp u d s mv | .shl => .shlOp u d s mv
  | .shr => .shrOp u d s mv | .and => .andOp u d s mv | .or => .orOp u d s mv | .eor => .eorOp u d s mv
  | .cmp => .cmpOp u d s mv | .max => .maxOp u d s mv | .min => .minOp u d s mv | .clip => .clipOp u d s mv
  | .tap => .tapOp u d s mv | .tapn => .tapnOp u d s mv

/-- The command of an instruction's issue by a MAC cell (R203). -/
def issueCmd (u : MacUnit) : MacIns → Instr
  | .nop => .nop u
  | .endPass => .endPass u
  | .bra t => .bra u t
  | .bcc c t => .bcc u c t
  | .doLoop n e => .doLoop u n e
  | .rep n => .rep u n
  | .repReg r => .repFromRegister u r
  | .inj s p v w => .inj u s p v w
  | .ldi d imm => .ldi u d imm
  | .mvx f => .mvx u f
  | .move d s => .move u d s
  | .arith op d s mv => arithCmd u op d s mv
  | .illegal w => .illegal u w

/-- The MAC cell of a unit. -/
def Chip.macCell (c : Chip) (u : MacUnit) : MacCell := (c.blk (blkKey u.r u.b)).cell u.u

/-- A MAC cell is about to issue an instruction (R188, R190, R194, R195): its block holds a template, its pass runs with a cycle
of its budget left, no halt or fence holds it, and the word at its address is that instruction's, with good parity. -/
structure MacReady (c : Chip) (u : MacUnit) (tp : Content) (ins : MacIns) : Prop where
  content : (c.blk (blkKey u.r u.b)).content = some tp
  issue : macCanIssue (c.macCell u) = true
  word : decodeMac ((c.blk (blkKey u.r u.b)).fetch (c.macCell u)) = ins
  parity : (c.macCell u).pc ∉ (c.macCell u).badI

/-- The registers of a cell's pass once the instructions in flight have completed (R188). -/
def Chip.macDrained (c : Chip) (u : MacUnit) (tp : Content) : MacCtx :=
  (macDrain (c.macEnv tp (c.macCell u)) (c.macCell u)).1.ctx

/-- No instruction is in flight in the cell (R185). -/
def MacCell.idlePipe (m : MacCell) : Prop := m.f1 = none ∧ m.f2 = none ∧ m.f3 = none

/-- What an issue leaves of the branches under way, with `new` begun by it (R187, R221): each has a delay slot less, and the target of
a taken one whose slots are over issues next. -/
structure Branched (m m' : MacCell) (new : List (Nat × Bool × Nat)) : Prop where
  left : (∀ b ∈ m.branches, 1 ≤ b.1) →
    m'.branches = ((m.branches.filter fun b => decide (b.1 ≠ 1)).map fun b => (b.1 - 1, b.2)) ++ new
  jump : ∀ b, (m.branches.find? fun b => decide (b.1 = 1) && b.2.1) = some b → m'.pc = b.2.2

/-- No taken branch under way is due after the issue (R187). -/
def MacCell.noJump (m : MacCell) : Prop := ∀ b ∈ m.branches, b.1 = 1 → b.2.1 = false

/-- The issue that follows one at m.pc which no repeat and no branch redirects (R188, R189, R222): back to the start of a DO body
that has iterations left, out of one that has none, else to the next address. -/
structure GoesOn (m m' : MacCell) : Prop where
  loop : ∀ e r, m.stack = e :: r → e.stop = m.pc → 2 ≤ e.count →
    m'.pc = e.start ∧ m'.stack = { e with count := e.count - 1 } :: r
  leave : ∀ e r, m.stack = e :: r → e.stop = m.pc → e.count < 2 → m'.pc = (m.pc + 1) % 512 ∧ m'.stack = r
  next : (∀ e r, m.stack = e :: r → e.stop ≠ m.pc) → m'.pc = (m.pc + 1) % 512 ∧ m'.stack = m.stack

/-- A fault of a MAC cell's pass stands in its block's record (R126, R196, R660). -/
def Chip.macFaultSays (c : Chip) (u : MacUnit) (m : MacCell) (code : Nat) : Prop :=
  c.FaultSays u.r u.b m.home m.faultCell code

/-- The cell stands at an interruptible point of its program, CLOSED or not (R54, R191, R192). -/
def Chip.macAtPoint (c : Chip) (u : MacUnit) : Prop :=
  macInterruptible (match (c.blk (blkKey u.r u.b)).content.bind fun t => t.prog (c.macCell u).kind with
    | some p => p.closed
    | none => false) (c.macCell u) = true

/-- The MAC cells of a block stand for its halt (R194): none runs a pass but one that has taken the halt. `but` is left out. -/
def Chip.cellsStand (c : Chip) (k : Nat) (but : Option Nat) : Prop :=
  ∀ v, v < 3 → but ≠ some v → ((c.blk k).cell v).running = false ∨ ((c.blk k).cell v).halted = true

/-- The halt of a block is still to take effect (R589). -/
def Chip.haltWaits (c : Chip) (k : Nat) : Prop := (c.blk k).halted = true ∧ (c.blk k).haltDue = true

/-- `t` is `h`, but that a halt of block k that was still to take effect has, with source 109, where its cells stand (R194, R589). -/
def HaltSettles (h t : State) (k : Nat) : Prop :=
  (¬(h.chip.haltWaits k ∧ h.chip.cellsStand k none) → t = h) ∧
  (h.chip.haltWaits k → h.chip.cellsStand k none → t.chip.isPending 109 = true ∧
    OnlyFields { h with chip := h.chip.updBlk k fun x => { x with haltDue := false } } t [evBit 109])

/-- The fields that a host transaction's error takes up (R512, R519, R524). -/
def hostErrBits : List Field := [HST_STAT_ERR, HST_STAT_WHY, evBit 8, HST_CNT_ERRS]

/-- A host transaction has ended in an error (R508, R512, R519, R524): ERR with its reason, source 8 pending, and one more in the
count of transactions that set ERR, which stops at its maximum. -/
structure HostErrs (c d : Chip) (why : Nat) : Prop where
  err : d.is HST_STAT_ERR = true
  why : d.fld HST_STAT_WHY = why
  flag : d.host.err = true
  source : d.isPending 8 = true
  count : d.fld HST_CNT_ERRS = min (c.fld HST_CNT_ERRS + 1) 65535

/-- A host transaction has begun, with its status byte delivered (R504, R505, R508): the width written is in force, ERR and REJ of the
status byte say what was outstanding and stand cleared, and the room levels are those of the lanes. -/
structure HostBegins (c d : Chip) : Prop where
  txn : d.host.txn = c.host.txn + 1
  width : d.fld HST_STAT_WIDTH_ACT = c.fld HST_CFG_WIDTH
  err : d.host.status.getLsbD 7 = c.host.err
  rej : d.host.status.getLsbD 6 = c.host.rej
  rejCleared : d.host.rej = false
  room : c.pwrState < 2 → ∀ l, l < 3 → (d.host.status.toNat / 4 ^ (2 - l)) % 4 = c.ez.roomLevel l

/-- A transaction's effect on the host port and the registers alone: the words queued, those returned, the count of words posted,
and the errors. -/
def hostFrame (c d : Chip) (h : HostPort) : Chip :=
  { c with
      regs := d.regs, ctr := d.ctr
      host := { h with
        queue := d.host.queue, txn := d.host.txn, err := d.host.err, rej := d.host.rej, status := d.host.status } }

/-- What the posted-write queue holds: transaction, address and value of each word. -/
def Chip.postedWords (c : Chip) : List (Nat × Word × Word) := c.host.queue.map fun p => (p.txn, p.addr, p.value)

/-- The registers that a plain write stores and nothing more (R8): their chapters give their writes no effect of their own. -/
def plainRegs : List Nat :=
  [HST_CFG, HST_STAT, HST_CNT, EVC_CFG, EZ_CFG, EZ_STHWM, EZ_CNT0, EZ_CNT1, EZ_CNT2, PAL_STAT, PAL_CNT, AO_STAT, CV_CNT, CV_ILIM
  , DMA_ERR, TMR_TRGSEEN, RST_CFG, RST_STAT, RST_CCFG, MEM_ECC, PWR_VIN, PWR_TEMP, CLK_TBLD_L, CLK_TBLD_H, CHIP_FAULT]
  ++ (List.range 4).flatMap (fun i => [EVC_PEND i, EVC_EN0 i, EVC_EN1 i, RGNn_PGDLY i, RGNn_FAULT i, RGNn_MSTAT i])
  ++ (List.range 16).flatMap (fun i =>
    [AI_DETCFG i, AI_DETTHR i, AI_DETHOLD i, TMRn_CFG i, TMRn_IO i, TMRn_CMP0 i, TMRn_STAT i, DMAn_STAT i])
  ++ (List.range 32).flatMap (fun i => [CV_TRIM i, CV_SINC i, CV_GAMP i, CV_OUT i]) ++ (List.range 64).map CNV_RBD

/-- Registers that a read returns as they are stored, with no effect (R8, R642). -/
def plainReads : List Nat := plainRegs ++ (List.range 32).map CV_CFG ++ (List.range 16).flatMap fun i => [AI_CFG i, AO_CTL i, DMAn_CNT i]

/-- A word of the banks that a host or DMA access may reach (R436, R438, R580): aligned, not protected, its region in service. -/
def Chip.bankOpen (c : Chip) (a : Nat) : Prop :=
  0x1000000 ≤ a ∧ a < 0x2000000 ∧ a % 4 = 0 ∧ c.bankRefused .host a = false ∧ bankRegion a ∉ c.pwr.oos

/-- The word that a port-B read of the banks returns (R443): the latest of its region's buffer for the address, else the bank's. -/
def State.portWord (s : State) (a : Nat) : Word :=
  match (((s.chip.rm (bankRegion a)).wbuf.filter fun p => decide (p.1 = a)).getLast?) with
  | some p => p.2
  | none => s.mem.rd a

/-- A port-B read of the word meets no write of port A (R440): its region's buffer holds it, or no ring waits for its quarter. -/
def State.quietRead (s : State) (a : Nat) : Prop :=
  s.chip.ringFills (bankRegion a) (contentWord a) = false ∨ ∃ p ∈ (s.chip.rm (bankRegion a)).wbuf, p.1 = a

/-- A counter of a region's busies stands or has advanced by up to n (R442). -/
def Chip.busyUpTo (c d : Chip) (r n : Nat) : Prop :=
  ∃ m, m ≤ n ∧ d.fld (RGNn_MSTAT_BUSY r) = min (c.fld (RGNn_MSTAT_BUSY r) + m) (2 ^ (RGNn_MSTAT_BUSY r).width - 1)

/-- A port-B write of a word leaves a region's rings as they were, but for the words that the ring of its quarter holds back to land
after a write of port A that they met (R441): of those, none at the word but the one written. -/
structure RingsTake (c d : Chip) (r a : Nat) (v : Word) : Prop where
  rest : d.rm r = { c.rm r with rings := (d.rm r).rings }
  noRing : c.ringAt r (contentWord a) = none → (d.rm r).rings = (c.rm r).rings
  others : ∀ j, j ≠ (contentWord a - 0xC0000) / 1024 → tabGet (d.rm r).rings none j = tabGet (c.rm r).rings none j
  ring : ∀ g, c.ringAt r (contentWord a) = some g → ∃ late : List (Nat × Word),
    tabGet (d.rm r).rings none ((contentWord a - 0xC0000) / 1024) = some { g with late := late } ∧
    (∀ p, p.1 ≠ a → (p ∈ late ↔ p ∈ g.late)) ∧ (∀ p ∈ late, p.1 = a → p.2 = v) ∧
    ((a, v) ∈ late → c.ringFills r (contentWord a) = true)

/-- Every buffered write is to a word of its own region's banks. -/
def Chip.buffersSound (c : Chip) : Prop :=
  ∀ r, r < 4 → ∀ p ∈ (c.rm r).wbuf, 0x1000000 ≤ p.1 ∧ p.1 % 4 = 0 ∧ bankRegion p.1 = r

/-- A reset is taken and its attempt waits in step 0x01 (R527, R529, R531 to R533, R537): every register and every unit is as
reset leaves it but for what the keep-alive domain holds, and the boot record begins a new attempt, with an interrupted step
or load counted as failed. `b` is the record before it. -/
structure ResetTaken (s t : State) (cause : Nat) (tb : BitVec 64) (e : BootEnv) (b : BootRec) : Prop where
  chip : t.chip = { ({} : Chip) with
    regs := t.chip.regs, ctr := t.chip.ctr, cvg := cvGroupsReset, gpIn := s.chip.gpIn, tap := s.chip.tap, boot := t.chip.boot
    clk := { tb := tb }, pwr := { vin := s.chip.pwr.vin, rest := s.chip.pwr.vin }
    saf := { tamper := s.chip.saf.tamper, fails := s.chip.saf.fails, prot := s.chip.saf.prot } }
  regs : ({} : Chip).BitsKept t.chip [PWR_STAT_OTSD, CHIP_FAULT_CODE, evBit 10]
  otsd : t.chip.is PWR_STAT_OTSD = s.chip.is PWR_STAT_OTSD
  store : s.chip.rep.jwrite = none → s.chip.rep.xs0.op = none → s.chip.rep.xs1.op = none → s.chip.saf.unlocking = false →
    t.nv = s.nv
  keys : s.nv.Forward t.nv
  queue : t.pending = s.pending
  attempt : t.chip.boot.cause = cause ∧ t.chip.boot.valid = decide (cause ≠ 0) ∧ t.chip.boot.step = 1 ∧
    t.chip.boot.boots = min 0xFFFF (b.boots + 1) ∧ t.chip.boot.attempts = min 8 (b.attempts + 1) ∧
    t.chip.boot.straps = e.straps.toNat ∧ t.chip.boot.loading = none
  history : b.underWay = none → t.chip.boot.levels = (if b.clean = 16 then [] else b.levels) ∧
    t.chip.boot.marks = (if b.clean = 16 then [] else b.marks)
  stepCut : ∀ k, b.loading = none → b.underWay = some k → t.chip.boot.fstep = k ∧ t.chip.boot.reason = 0x21 ∧
    tabGet t.chip.boot.levels 0 k =
      (let old := if b.clean = 16 then 0 else tabGet b.levels 0 k
       let used := if k = 7 ∧ b.straps / 2 % 2 = 1 then max 1 old else old
       if used < maxLevel k then used + 1 else old)
  loadCut : ∀ slot hcrc, b.loading = some (slot, hcrc) → t.chip.boot.fstep = 0x0C ∧ t.chip.boot.reason = 0x21 ∧
    tabGet t.chip.boot.marks {} slot = { marked := true, hcrc := hcrc, reason := 0x21 } ∧ t.chip.isPending 10 = true

/-- A frame's first word with the operation of its row (R262, R263). -/
def frameWord (op : Nat) (w0 : Word) : Word := (w0 &&& 0x0FFFFFFF) ||| BitVec.ofNat 32 (op * 2 ^ 28)

/-- The part that a frame names (R262). -/
def framePart (w0 : Word) : Nat := fieldOf w0 19 6
/-- The key that a frame names (R262). -/
def frameKey (w0 : Word) : Nat := fieldOf w0 12 7
/-- The tag that a frame carries (R262). -/
def frameTag (w0 : Word) : BitVec 12 := w0.setWidth 12

/-- An untimed frame of an operation is taken at once, behind the entries that came back (R551): the easel serves, no reason of R264
discards the frame, and no stored event of its part is due before it (R281). -/
structure FrameTaken (c : Chip) (op : Nat) (w0 : Word) (rest : List Word) : Prop where
  clocked : c.clocked = true
  free : c.easelHeld = false
  untimed : w0.getLsbD 25 = false
  alone : ∀ e ∈ c.serveReturned.ez.store, e.part = framePart w0 → 2 < timeDiff e.ts c.serveReturned.tbLow
  taken : c.serveReturned.frameReject (if op = 6 then 2 else 0) (frameWord op w0 :: rest) = none

/-- A region's ready list, and the entries the easel holds for it while it is full (R284). -/
def Chip.queued (c : Chip) (r : Nat) : List Entry := (c.rgn r).ready ++ (c.rgn r).held

/-- An entry of a kind for the voice of a generation at a base slot waits for its scan (R321). -/
def Chip.Waits (c : Chip) (kind key : Nat) (gen : BitVec 5) (e : Entry) : Prop :=
  e ∈ c.queued (keyRegion key) ∧ e.kind = kind ∧ e.region = keyRegion key ∧ e.block = keyBlock key ∧ e.slot = keySlot key ∧
    e.gen = gen

/-- What an event's command may touch: registers, voices, blocks, regions, parts, the easel and the host port, with the clock of a
MIDI input. -/
def eventFrame (c d : Chip) : Chip :=
  { c with
      regs := d.regs, ctr := d.ctr, blocks := d.blocks, slots := d.slots, regions := d.regions, rmem := d.rmem
      parts := d.parts, returned := d.returned, ez := d.ez, host := d.host }

/-- The commands that are events of the easel's. -/
def isEvent : Instr → Bool
  | .hostFrameAccept .. | .easelService | .frameNop .. | .noteOn .. | .noteOff .. | .noteCtl .. | .partWord .. => true
  | .voiceWord .. | .bulk .. | .cancel .. | .allOff .. | .allSoundOff .. | .sustain .. | .timedStoreRelease => true
  | .readyListWrite .. | .evictLoad .. | .entryReturn | .umpPacket .. | .jrClock .. | .jrTimestamp .. => true
  | .activeSensingTimeout .. | .motxWrite .. | .midiOutByte .. => true
  | _ => false

/-- The registers that an input channel's state reports, with its source (R409, R411 to R413). -/
def aiBits (k : Nat) : List Field :=
  [regField (AI_STAT k), regField (AI_RESP k), AI_PEAK_P k, AI_RMS_R k, AI_ENV_E k, AI_DLY_CYCLES k, evBit (48 + k)]

/-- The registers that a serial port's state reports, with its sources (R432, R434, R435). -/
def saBits (p : Nat) : List Field := [regField (SA_STAT p), evBit (64 + p), evBit (68 + p)]

/-- An event of timer n's happens: its flag sets, source 80 + n rises where its bit of IE is 1, and the output line is pulsed where
OSEL names the event (R492, R500). -/
structure TimerSays (c d : Chip) (n : Nat) (flag : Field) (ie osel : Nat) : Prop where
  flag : d.is flag = true
  source : (c.fld (TMRn_CTL_IE n)).testBit ie = true → d.isPending (80 + n) = true
  output : c.is (TMRn_IO_OEN n) = true → c.fld (TMRn_IO_OSEL n) = osel → c.fld (TMRn_IO_OTRG n) ∈ d.trg

/-- What a timer's own event may change beside its plain state: the registers of `l` and source 80 + n, and a pulse of its output
line. -/
structure TimerFrame (c d : Chip) (n : Nat) (l : List Field) : Prop where
  bits : c.BitsKept d (evBit (80 + n) :: l)
  lines : ∀ x, x ∈ d.trg → x ∈ c.trg ∨ x = c.fld (TMRn_IO_OTRG n)
  linesKept : ∀ x, x ∈ c.trg → x ∈ d.trg
  timers : ∀ j, j ≠ n → d.tmrOf j = c.tmrOf j
  shadows : d.tmrOf n = { c.tmrOf n with base := (d.tmrOf n).base, gp := (d.tmrOf n).gp }

/-- The counter of timer n comes to a value v that it did not hold (R489, R490, R492): each compare that holds v matches, a repeating
one moves on by PER, and the GP output follows its mode. -/
structure Compared (c d : Chip) (n : Nat) (v : Word) (l : List Field) : Prop where
  frame : TimerFrame c d n (regField (TMRn_CNT n) :: TMRn_STAT_M0 n :: TMRn_STAT_M1 n :: regField (TMRn_CMP1 n) :: l)
  counter : d.reg (TMRn_CNT n) = v
  match0 : v = c.reg (TMRn_CMP0 n) → TimerSays c d n (TMRn_STAT_M0 n) 1 1
  no0 : v ≠ c.reg (TMRn_CMP0 n) → d.is (TMRn_STAT_M0 n) = c.is (TMRn_STAT_M0 n)
  match1 : v = c.reg (TMRn_CMP1 n) → TimerSays c d n (TMRn_STAT_M1 n) 2 2
  repeats : v = c.reg (TMRn_CMP1 n) → c.is (TMRn_CFG_PEREN n) = true →
    (d.tmrOf n).base = v ∧ d.reg (TMRn_CMP1 n) = v + c.reg (TMRn_PER n)
  stays : v ≠ c.reg (TMRn_CMP1 n) ∨ c.is (TMRn_CFG_PEREN n) = false →
    (d.tmrOf n).base = (c.tmrOf n).base ∧ d.reg (TMRn_CMP1 n) = c.reg (TMRn_CMP1 n)
  no1 : v ≠ c.reg (TMRn_CMP1 n) → d.is (TMRn_STAT_M1 n) = c.is (TMRn_STAT_M1 n)
  pin : (d.tmrOf n).gp =
    if c.fld (TMRn_IO_GPMODE n) = 1 then (c.tmrOf n).gp ^^ decide (v = c.reg (TMRn_CMP1 n))
    else if c.fld (TMRn_IO_GPMODE n) = 2 then
      (if v = c.reg (TMRn_CMP1 n) then false else (c.tmrOf n).gp || decide (v = c.reg (TMRn_CMP0 n)))
    else (c.tmrOf n).gp

/-- The late match of R491 for a repeating compare with base b and period p, where b + p lies at or behind the counter: one match with
LATE, and the compare moves to the first period ahead of the counter. -/
structure LateMatch (c d : Chip) (n : Nat) (b p : Word) : Prop where
  match1 : TimerSays c d n (TMRn_STAT_M1 n) 2 2
  late : d.is (TMRn_STAT_LATE n) = true
  source : (c.fld (TMRn_CTL_IE n)).testBit 5 = true → d.isPending (80 + n) = true
  ahead : ∀ k : Nat, 1 ≤ k → 0 < timeDiff (b + BitVec.ofNat 32 k * p) (c.reg (TMRn_CNT n)) →
    (∀ j, 1 ≤ j → j < k → timeDiff (b + BitVec.ofNat 32 j * p) (c.reg (TMRn_CNT n)) ≤ 0) →
    d.reg (TMRn_CMP1 n) = b + BitVec.ofNat 32 k * p ∧ (d.tmrOf n).base = b + BitVec.ofNat 32 (k - 1) * p

/-! ### Faults, power and security -/

/-- A block has been taken out (R549, R550, R559): its record names the cause, it is fenced, its held fade starts at the next
boundary, it holds no selected, ready or held entry and no load, and of the entries that named it those of R655 are back with the
easel. -/
structure BlockFails (c d : Chip) (r b : Nat) : Prop where
  record : d.FaultSays r b 0 15 0x20
  fenced : (d.blk (blkKey r b)).fenced = true
  others : ∀ j, j ≠ blkKey r b → d.blk j = c.blk j
  fade : ∃ f : BlockFade, tabGet d.cnv.fades none (blkKey r b) = some f ∧ f.heldKind = true ∧ f.start = c.clk.smp + 1
  shown : d.reg (CNV_BFADE r) = c.reg (CNV_BFADE r)
  loads : (d.rgn r).loads = (c.rgn r).loads.filter fun q => decide (q.block ≠ b)
  lists : ∀ e ∈ (d.rgn r).sel ++ d.queued r, ¬(e.region = r ∧ e.block = b)
  kept : ∀ e, ¬(e.region = r ∧ e.block = b) →
    (e ∈ (d.rgn r).sel ↔ e ∈ (c.rgn r).sel) ∧ (e ∈ d.queued r ↔ e ∈ c.queued r)
  back : ∀ e, e ∈ d.returned ↔ e ∈ c.returned ∨
    e ∈ goingBack (((c.rgn r).sel.filter fun e => decide (e.region = r ∧ e.block = b)) ++ c.naming r b)
  waits : ∀ w, w ∈ d.ez.evicts ↔ w ∈ c.ez.evicts ∧ ¬(w.entry.region = r ∧ w.entry.block = b)
  regions : ∀ q, q ≠ r → d.rgn q = c.rgn q
  rest : d = { c with
    regs := d.regs, blocks := d.blocks, slots := d.slots, regions := d.regions, rmem := d.rmem, returned := d.returned
    rep := { c.rep with walk := d.rep.walk }, cnv := { c.cnv with fades := d.cnv.fades }
    ez := { c.ez with evicts := d.ez.evicts } }

/-- A repair has been made (R566, R567, R570): its record joins the map, and the pending ones while fewer than 255 wait, and
source 13 is pending. -/
structure Repaired (c d : Chip) (kind unit loc spare code : Nat) : Prop where
  map : d.rep.map = c.rep.map ++ [⟨kind, unit, loc, spare, code, c.boot.boots % 65536⟩]
  queued : c.rep.pend.length < 255 → d.rep.pend = c.rep.pend ++ [⟨kind, unit, loc, spare, code, c.boot.boots % 65536⟩]
  full : 255 ≤ c.rep.pend.length → d.rep.pend = c.rep.pend
  source : d.isPending 13 = true

/-- The Restorer's cell walk stands at `w`, RST_CPOS says so, and beside the registers of `l` only the block of the step
before or the one named has changed (R552, R575). -/
structure WalkAt (c d : Chip) (w : CellWalk) (k : Nat) (l : List Field) : Prop where
  walk : d.rep.walk = w
  region : d.fld RST_CPOS_REGION = w.region
  block : d.fld RST_CPOS_BLOCK = w.block
  cell : w.cell < 16 → d.fld RST_CPOS_CELL = w.cell
  phase : d.fld RST_CPOS_PHASE = match w.phase with
    | .idle => 0 | .hold => 1 | .shadow => 1 | .test => 2 | .shadowBack => 3
  others : ∀ j, j ≠ k → d.blk j = c.blk j
  bits : c.BitsKept d (l ++ [regField RST_CPOS, BLK_SCST_TEST (k / 24) (k % 24)])
  rest : d = { c with
    regs := d.regs, ctr := d.ctr, blocks := d.blocks
    rep := { c.rep with walk := w, map := d.rep.map, pend := d.rep.pend } }
  repairs : evBit 13 ∉ l → d.rep.map = c.rep.map ∧ d.rep.pend = c.rep.pend

/-- A cell step has ended (R552, R553): the walk idles at a place, and the block's TEST bit reads 0. -/
structure StepOver (c d : Chip) (p : Fin 4 × Fin 24 × Nat) (l : List Field) : Prop where
  at_ : WalkAt c d { c.rep.walk with
    phase := .idle, region := p.1, block := p.2.1, cell := p.2.2, follow := 0, resumeAt := none }
    (blkKey c.rep.walk.region c.rep.walk.block) l
  test : d.is (BLK_SCST_TEST c.rep.walk.region c.rep.walk.block) = false

/-- A journal write has failed (R568, R570): code 0x45 with JFAIL, FAIL, and sources 12 and 14. -/
structure JournalFails (c d : Chip) (l : List Field) : Prop where
  fail : d.is RST_JSTAT_FAIL = true
  code : d.fld CHIP_FAULT_CODE = 0x45
  fault : d.is CHIP_FAULT_FAULT = true
  jfail : d.is CHIP_FAULT_JFAIL = true
  source : d.isPending 12 = true
  ended : d.isPending 14 = true
  bits : c.BitsKept d (l ++ [RST_JSTAT_FAIL, CHIP_FAULT_CODE, CHIP_FAULT_FAULT, CHIP_FAULT_JFAIL, evBit 12, evBit 14])

/-- No other input channel's state changes. -/
def OnlyAi (c d : Chip) (k : Nat) : Prop := ∀ j, j ≠ k → d.aiOf j = c.aiOf j

end Sys2Proof.Machine
end

