-- ==== Sys2Proof/Machine/Pins.lean ====
section
/-! DEFINITION. The digital signal pins at rest: which the device drives, and the reset pulls (chapter "Pins and package", R616,
R617; R517, R520, R536). -/

namespace Sys2Proof.Machine

/-- The digital signal pins (R616). Serial ports are numbered SAO0, SAO1, SAI0, SAI1. -/
inductive Pin where
  | hsck | hcsn | hrdy | rstn | tck | tms | tdi | trstn | tdo | test
  | hsio (k : Fin 4)
  | irq (k : Fin 2)
  | mi (k : Fin 4)
  | mo (k : Fin 2)
  | gp (k : Fin 8)
  | xsCk (x : Fin 2)
  | xsDqs (x : Fin 2)
  | xsCsn (x : Fin 2)
  | xsDq (x : Fin 2) (k : Fin 8)
  | saBck (p : Fin 4)
  | saFs (p : Fin 4)
  | saD (p : Fin 4)
  deriving DecidableEq, Repr

/-- The pull of a pin in reset and boot (R616): up (true), down (false), or none. -/
def Pin.resetPull : Pin → Option Bool
  | .hcsn | .hsio _ | .irq _ | .mi _ | .mo _ | .xsCsn _ | .rstn | .tms | .tdi | .trstn => some true
  | .tdo => none
  | .hsck | .hrdy | .gp _ | .xsCk _ | .xsDqs _ | .xsDq _ _ | .saBck _ | .saFs _ | .saD _ | .tck | .test => some false

/-- The level that the timers drive on a GP pin (R492): that of the lowest-numbered one which names it; none where no timer does. -/
def Chip.gpPin (c : Chip) (k : Nat) : Option Bool :=
  ((List.range 16).find? fun n =>
    decide (c.fld (TMRn_IO_OPIN n) = k ∧ (c.fld (TMRn_IO_GPMODE n) = 1 ∨ c.fld (TMRn_IO_GPMODE n) = 2))).map fun n => (c.tmrOf n).gp

/-- Does the device drive a pin (R616, "Driven from")? In reset, in stand-aside and before the step that first drives it, no. The
phases of a transfer on HSIO, DQS and DQ, and TDO's shifting, last less than a command: between commands those pins are not driven.
DESIGN CHOICE (assumption 89). -/
def Chip.drives (c : Chip) : Pin → Bool
  | .hrdy | .mo _ => c.portOpen
  | .irq k => c.portOpen && (c.irqPin k).isSome
  | .gp k => c.alive && (c.gpPin k).isSome
  | .xsCk _ | .xsCsn _ => c.alive && decide (7 ≤ c.boot.step)
  | .saBck p | .saFs p => c.alive && c.saDrives p
  | .saD p => c.alive && c.saDataDriven p
  | _ => false

/-- The reset pull present on a pin (R617), with VIO at 1.5 V or above or below it: none on a pin that the device drives, nor on an
IRQ pin from step 0x06. DESIGN CHOICE (assumption 89). -/
def Chip.pull (c : Chip) (vio : Bool) (p : Pin) : Option Bool :=
  let lost : Bool := match p with
    | .irq _ => c.portOpen
    | _ => c.drives p
  if c.pwr.vin && vio && !lost then p.resetPull else none

/-- The level of HRDY (R517, R605, R617): low in Hold; before step 0x06 and in stand-aside its pull-down holds it low. -/
def Chip.hrdyPin (c : Chip) (vio : Bool) : Option Bool :=
  if c.drives .hrdy then some (c.hrdy && !c.hostHeld) else c.pull vio .hrdy

end Sys2Proof.Machine
end

