-- ==== Sys2Proof/Certificates/Slice0/Obligations.lean ====
section
/-! DEFINITION. The statements about the GV1536, for the provers. Each says what its commands do, what they leave alone, and
that they complete. -/

open Sys2Proof Sys2Proof.Machine


/-! ### The block as a whole -/

/-- A step runs the command at the front of the queue with the queue's rest. On an empty queue the block idles: the model's
choice (assumption 1). -/
def Obligations.QueueSteps : Prop :=
  (∀ (i : Instr) (s : State), step { s with pending := i :: s.pending } = exec i s) ∧
  (∀ s : State, s.pending = [] → step s = .next s)

/-- No command stops the block: every command in every state ends in a next state, with the rest of the queue still waiting.
With VIN absent, no command but the rise of VIN changes anything. -/
def Obligations.CommandsComplete : Prop :=
  (∀ (i : Instr) (s : State), ∃ t, exec i s = .next t ∧ t.pending = s.pending) ∧
  (∀ (i : Instr) (s : State), s.chip.pwr.vin = false → i ≠ .vinRising → exec i s = .next s)

/-- After reset no command waits, every register holds its reset value, the engine is stopped with ESTOP = 1, no primer is in
force, no part exists, no slot runs, every event queue is empty, no event source is pending, and the banks hold zeros. The
memories are in canonical form after reset. -/
def Obligations.ResetLeaves : Prop :=
  (State.reset.pending = [] ∧ (∀ a, State.reset.chip.reg a = regReset a) ∧
   State.reset.chip.is CLK_CFG_ESTOP = true ∧ State.reset.chip.stopped = true ∧ State.reset.chip.pal.loaded = false ∧
   (∀ p, (State.reset.chip.part p).exists_ = false) ∧ (∀ k, (State.reset.chip.slot k).role = .free) ∧
   State.reset.chip.ez.laneA = [] ∧ State.reset.chip.ez.laneB = [] ∧ State.reset.chip.ez.laneC = [] ∧
   State.reset.chip.ez.store = [] ∧ State.reset.chip.host.queue = [] ∧
   (∀ n, n < 128 → State.reset.chip.isPending n = false) ∧ (∀ a, State.reset.mem.rd a = 0)) ∧
  (State.reset.memWf = true)

/-- Every step keeps the canonical form of banks, error words and flash. -/
def Obligations.StepKeepsMemoriesCanonical : Prop :=
  ∀ s t : State, s.memWf = true → step s = .next t → t.memWf = true

/-- The contents of the Saffron store that are one-time programmable only ever move forward, whatever the command and the
state. -/
def Obligations.StepKeepsOneTimeContent : Prop :=
  ∀ s t : State, step s = .next t → s.nv.Forward t.nv

/-- A command that is none of those that write memory leaves every bank, flash and store byte as it was. -/
def Obligations.OtherCommandsKeepMemory : Prop :=
  ∀ (i : Instr) (s t : State), touchesStore i = false → exec i s = .next t → s.SameStore t

/-! ### Clocks, the timebase, and the engine's stop (R26 to R32, R36, R37) -/

/-- TBLOAD asks for a load of TB. A read of CLK_TBL gives the host TB[31:0] and latches TB[63:32] in the reader's own shadow.
At the boundary that begins an engine sample TB increments by 1, or takes {CLK_TBLD_H, CLK_TBLD_L} where a load was asked
for; TB_LOAD_APPLY is that boundary. In Hold TB alone counts (R605). A group edge of the frame sync copies TB[31:0] to
CLK_FSCAP; neither it, nor its timeout, nor a loss of a PLL's lock moves TB. -/
def Obligations.TimebaseCounts : Prop :=
  (∀ s : State, s.chip.clocked = true →
     exec .tbload s = .next { s with chip := { s.chip with clk := { s.chip.clk with loadPend := true } } } ∧
     exec (.tblRead false) s = .next { s with chip := { s.chip with
       clk := { s.chip.clk with hostTb := s.chip.clk.tb.extractLsb' 32 32 }
       host := { s.chip.host with words := [s.chip.clk.tb.extractLsb' 0 32] } } } ∧
     exec (.tblRead true) s = .next { s with chip := { s.chip with
       clk := { s.chip.clk with dmaTb := s.chip.clk.tb.extractLsb' 32 32 } } }) ∧
  (∀ s : State,
     (s.chip.clocked = true → ∃ t, exec .sampleBoundary s = .next t ∧ s.SameStore t ∧ t.chip.clk.loadPend = false ∧
       t.chip.clk.smp = s.chip.clk.smp + 1 ∧
       t.chip.clk.tb = if s.chip.clk.loadPend then s.chip.reg CLK_TBLD_H ++ s.chip.reg CLK_TBLD_L else s.chip.clk.tb + 1) ∧
     (s.chip.clocked = true → s.chip.clk.loadPend = true → ∃ t, exec .tbLoadApply s = .next t ∧ s.SameStore t ∧
       t.chip.clk.loadPend = false ∧ t.chip.clk.tb = s.chip.reg CLK_TBLD_H ++ s.chip.reg CLK_TBLD_L) ∧
     (s.chip.clocked = false → s.chip.alive = true → ∃ t, exec .sampleBoundary s = .next t ∧
       t = { s with chip := { s.chip with clk := t.chip.clk } } ∧
       t.chip.clk.tb = if s.chip.clk.loadPend then s.chip.reg CLK_TBLD_H ++ s.chip.reg CLK_TBLD_L else s.chip.clk.tb + 1)) ∧
  (∀ s : State, s.chip.clocked = true →
     (∀ (err : Word), ∃ t, exec (.fsyncGroupEdge err) s = .next t ∧ s.SameStore t ∧ t.chip.clk.tb = s.chip.clk.tb ∧
       (s.chip.is CLK_FSYNC_EN = true → s.chip.clk.fsDue = true → t.chip.reg CLK_FSCAP = s.chip.clk.tb.extractLsb' 0 32)) ∧
     (∃ t, exec .fsyncTimeout s = .next t ∧ s.SameStore t ∧ t.chip.clk.tb = s.chip.clk.tb ∧
       (s.chip.is CLK_FSYNC_EN = true → t.chip.is CLK_STAT_FSLOCK = false)) ∧
     (∀ pll : Fin 3, ∃ t, exec (.pllLockLoss pll) s = .next t ∧ s.SameStore t ∧ t.chip.clk = s.chip.clk ∧
       t.chip.isPending (4 + pll.val) = true ∧
       t.chip.is (if pll = 0 then CLK_STAT_EPLL_LOCK else if pll = 1 then CLK_STAT_XPLL_LOCK else CLK_STAT_APLL_LOCK) = false))

/-- Writing ESTOP = 1 while the engine runs starts the stop's fade: ESTOP reads 1, the fade begins with the next sample, every
block that holds a template fades unless a fade of it runs already, and nothing but clocks, fades and their status bits
changes. The stop takes effect at the first boundary after its fade of 64 samples, and not before: CLK_STAT.STOPPED becomes 1.
A restart waits for the boundary after that where ESTOP = 0 has been written meanwhile. Writing ESTOP = 0 once the engine has
stopped asks for its restart; while the stop still runs it only clears ESTOP. -/
def Obligations.EngineStopsAndRestarts : Prop :=
  (∀ s : State, s.chip.clocked = true → s.chip.stopped = false → s.chip.clk.stopAt = none →
     ∃ t, exec .estopSet s = .next t ∧
       t = { s with chip := { s.chip with regs := t.chip.regs, clk := t.chip.clk, cnv := t.chip.cnv } } ∧
       t.chip.is CLK_CFG_ESTOP = true ∧
       t.chip.clk = { s.chip.clk with restart := false, stopAt := some (s.chip.clk.smp + 1) } ∧
       t.chip.cnv = { s.chip.cnv with fades := t.chip.cnv.fades } ∧
       (∀ k, tabGet t.chip.cnv.fades none k =
         if k < 96 ∧ (s.chip.blk k).content.isSome ∧ tabGet s.chip.cnv.fades none k = none then
           some { heldKind := false, start := s.chip.clk.smp + 1 }
         else tabGet s.chip.cnv.fades none k) ∧
       s.chip.BitsKept t.chip (CLK_CFG_ESTOP :: (List.range 4).map fun r => regField (CNV_BFADE r))) ∧
  (∀ (s : State) (n : Nat), s.chip.clocked = true → s.chip.clk.stopAt = some n →
     (n + 64 ≤ s.chip.clk.smp → ∃ t, exec .engineStopFadeEnd s = .next t ∧ s.SameStore t ∧ t.chip.stopped = true ∧
       t.chip.clk = { s.chip.clk with stopAt := none, restart := !s.chip.is CLK_CFG_ESTOP }) ∧
     (s.chip.clk.smp < n + 64 → exec .engineStopFadeEnd s = .next s)) ∧
  (∀ s : State, s.chip.clocked = true → ∃ t, exec .estopClear s = .next t ∧
     t = { s with chip := { s.chip with regs := t.chip.regs, clk := t.chip.clk } } ∧
     t.chip.is CLK_CFG_ESTOP = false ∧ s.chip.BitsKept t.chip [CLK_CFG_ESTOP] ∧
     t.chip.clk = if s.chip.stopped then { s.chip.clk with restart := true } else s.chip.clk)

/-- EMODE takes a new value only while STOPPED = 1; a write at any other time, and a write of 0b11, leave it unchanged and set
MODE_REJ. -/
def Obligations.ModeChangesOnlyWhenStopped : Prop :=
  ∀ (s : State) (mode : BitVec 2), s.chip.clocked = true → ∃ t, exec (.emodeWrite mode) s = .next t ∧
    OnlyFields s t [CLK_CFG_EMODE, CLK_STAT_MODE_REJ] ∧
    (s.chip.stopped = true ∧ mode ≠ 3 → t.chip.fld CLK_CFG_EMODE = mode.toNat ∧
      t.chip.is CLK_STAT_MODE_REJ = s.chip.is CLK_STAT_MODE_REJ) ∧
    (s.chip.stopped = false ∨ mode = 3 → t.chip.fld CLK_CFG_EMODE = s.chip.fld CLK_CFG_EMODE ∧
      t.chip.is CLK_STAT_MODE_REJ = true)

/-- Loss of lock clears the matching CLK_STAT bit and raises source 4 for the EPLL, 5 for the XPLL, 6 for the APLL. A loss of
EPLL lock while the engine runs also records chip fault 0x40. With EN = 1 a group edge of the frame sync, once its frame edges have
come, writes the phase error to CLK_FSERR and TB[31:0] to CLK_FSCAP; FSLOCK becomes 1 after 8 consecutive edges within 64 cycles and 0
after one beyond 256, or when no edge arrives in time; its fall raises source 7 and holds the correction. The pull that an edge asks
for is a free value (assumption 20), and with one beyond 1,000 ppm there is no lock. With EN = 0 neither does anything: the model's
choice (assumption 110). -/
def Obligations.ClockLocks : Prop :=
  (∀ s : State, s.chip.clocked = true →
     (∃ t, exec (.pllLockLoss 0) s = .next t ∧ t.chip.is CLK_STAT_EPLL_LOCK = false ∧ t.chip.isPending 4 = true ∧
       (s.chip.stopped = true → OnlyFields s t [CLK_STAT_EPLL_LOCK, evBit 4]) ∧
       (s.chip.stopped = false → t.chip.fld CHIP_FAULT_CODE = 0x40 ∧ t.chip.is CHIP_FAULT_FAULT = true ∧
         t.chip.isPending 12 = true ∧
         t = { s with chip := { s.chip with regs := t.chip.regs, boot := { s.chip.boot with chip := 0x40 } } } ∧
         s.chip.BitsKept t.chip [CLK_STAT_EPLL_LOCK, evBit 4, CHIP_FAULT_CODE, CHIP_FAULT_FAULT, evBit 12])) ∧
     (∃ t, exec (.pllLockLoss 1) s = .next t ∧ t.chip.is CLK_STAT_XPLL_LOCK = false ∧ t.chip.isPending 5 = true ∧
       OnlyFields s t [CLK_STAT_XPLL_LOCK, evBit 5]) ∧
     (∃ t, exec (.pllLockLoss 2) s = .next t ∧ t.chip.is CLK_STAT_APLL_LOCK = false ∧ t.chip.isPending 6 = true ∧
       OnlyFields s t [CLK_STAT_APLL_LOCK, evBit 6])) ∧
  (∀ s : State, s.chip.clocked = true →
     let c := s.chip
     (∀ err : Word,
       let size := (err.setWidth 16).toInt.natAbs
       (c.is CLK_FSYNC_EN = false ∨ c.clk.fsDue = false →
         exec (.fsyncGroupEdge err) s = .next { s with chip := { c with ctr := c.ctr + 1 } }) ∧
       (c.is CLK_FSYNC_EN = true → c.clk.fsDue = true → ∃ t, exec (.fsyncGroupEdge err) s = .next t ∧
         t = { s with chip := { c with regs := t.chip.regs, ctr := c.ctr + 1, clk := { c.clk with
           good := t.chip.clk.good, fsCorr := t.chip.clk.fsCorr, fsHold := t.chip.clk.fsHold, fsDue := false } } } ∧
         c.BitsKept t.chip [CLK_FSERR_ERR, regField CLK_FSCAP, CLK_STAT_FSLOCK, evBit 7] ∧
         t.chip.fld CLK_FSERR_ERR = err.toNat % 2 ^ 16 ∧ t.chip.reg CLK_FSCAP = c.clk.tb.extractLsb' 0 32 ∧
         (size ≤ 64 → c.fsPull.natAbs ≤ 1000000 → t.chip.clk.good = min 8 (c.clk.good + 1) ∧
           (7 ≤ c.clk.good → t.chip.is CLK_STAT_FSLOCK = true)) ∧
         (64 < size ∨ 1000000 < c.fsPull.natAbs → t.chip.clk.good = 0) ∧
         (64 < size → size ≤ 256 → t.chip.is CLK_STAT_FSLOCK = c.is CLK_STAT_FSLOCK) ∧
         (size ≤ 256 → t.chip.clk.fsHold = false ∧ t.chip.clk.fsCorr.natAbs ≤ 1000000) ∧
         (256 < size → t.chip.is CLK_STAT_FSLOCK = false ∧ (c.is CLK_STAT_FSLOCK = true →
           t.chip.isPending 7 = true ∧ t.chip.clk.fsHold = true ∧ t.chip.clk.fsCorr = c.clk.fsCorr)))) ∧
     (c.is CLK_FSYNC_EN = false → exec .fsyncTimeout s = .next s) ∧
     (c.is CLK_FSYNC_EN = true → ∃ t, exec .fsyncTimeout s = .next t ∧ t.chip.is CLK_STAT_FSLOCK = false ∧
       (c.is CLK_STAT_FSLOCK = true → t.chip.isPending 7 = true ∧ t.chip.clk.fsHold = true) ∧
       t = { s with chip := { c with regs := t.chip.regs, clk := { c.clk with good := 0, fsHold := t.chip.clk.fsHold } } } ∧
       c.BitsKept t.chip [CLK_STAT_FSLOCK, evBit 7]))

/-! ### The passes of a block's cells (R93, R103, R129, R188, R230, R249, R558) -/

/-- A contour pass computes the eight generators of its slot: each one's next state and, recorded as the value of the pass's
sample, its output. No other slot changes, and no register but the fault record of a generator whose mode word fails its
parity check. A matrix pass evaluates the routes of its slot: every destination is the saturated sum of its routes'
contributions, or its default. No other slot changes, and no register but the fault record of a route that fails its parity
check. -/
def Obligations.ContourAndMatrixPasses : Prop :=
  (∀ (s : State) (r : Fin 4) (b : Fin 24) (sl : Fin 16) (bad : List (Fin 8)) (tp : Content) (key n : Nat),
     s.chip.clocked = true → PassRuns s.chip r b sl 0 tp key n → tp.contour ≠ [] →
     ∃ t, exec (.contourPass r b sl bad) s = .next t ∧ t = { s with chip := passFrame s.chip t.chip } ∧
       ContourEffect s.chip t.chip tp key n (bad.map fun i => i.val) ∧
       ParityEffect s.chip t.chip r b sl 6 (bad.map fun i => i.val) ∧
       (bad = [] → t.chip.regs = s.chip.regs) ∧ s.chip.BitsKept t.chip (blkFaultBits r b)) ∧
  (∀ (s : State) (r : Fin 4) (b : Fin 24) (sl : Fin 16) (bad : List (Fin 32)) (tp : Content) (key n : Nat),
     s.chip.clocked = true → PassRuns s.chip r b sl 1 tp key n → tp.routes ≠ [] →
     ∃ t, exec (.matrixPass r b sl bad) s = .next t ∧
       t = { s with chip := { passFrame s.chip t.chip with cvNew := t.chip.cvNew } } ∧
       MatrixEffect s.chip t.chip tp key n (s.chip.passLate sl 1) (bad.map fun i => i.val)
         (some (512 * r.val + 16 * b.val + sl.val)) ∧
       ParityEffect s.chip t.chip r b sl 7 (bad.map fun i => i.val) ∧
       (bad = [] → t.chip.regs = s.chip.regs) ∧ s.chip.BitsKept t.chip (blkFaultBits r b))

/-- A phase pass computes the four operators of its cell and their five outputs. Misses and underruns count in their
registers, an underrun raises source 98, stream frames in error do what R446 and R447 say, and no other slot, block or region
changes. -/
def Obligations.PhasePassRuns : Prop :=
  ∀ (s : State) (r : Fin 4) (b : Fin 24) (u : Fin 4) (sl : Fin 16) (bad : List (Fin 4)) (tp : Content) (key n : Nat),
    s.chip.clocked = true → PassRuns s.chip r b sl 2 tp key n → tp.phase.getD u [] ≠ [] →
    ∃ t, exec (.phasePass r b u sl bad) s = .next t ∧
      t = { s with chip := { passFrame s.chip t.chip with blocks := t.chip.blocks, rmem := t.chip.rmem } } ∧
      PhaseEffect s.mem s.chip t.chip tp r b u key n (s.chip.passLate sl 2) (bad.map fun i => i.val) ∧
      ParityEffect s.chip t.chip r b sl u (bad.map fun i => i.val) ∧
      s.chip.BitsKept t.chip (BLK_CNT_MISS r b :: RGNn_STRSTAT_UND r :: evBit 98 :: blkFaultBits r b ++ s.readBits r)

/-- A glaze slot's pass for a phase, contour or matrix cell does for the glaze what the cell does for a voice, on the sample
in course and with no CV exports. A glaze context is free once its fade has run its length, and not before, and a held tail is gone
once its has. -/
def Obligations.GlazePassRuns : Prop :=
  (∀ (s : State) (r : Fin 4) (b : Fin 24) (g : Fin 2) (cell : Fin 8) (bad : CellParity) (tp : Content) (m : Nat)
    (joined : Bool), s.chip.clocked = true → GlazeRuns s.chip r b g tp m joined →
    let key := 40 * blkKey r b + 16 + g.val
    let bads := bad.code.map fun a => a.toNat
    ∃ t, exec (.glazePass r b g cell bad) s = .next t ∧
      (cell.val ≤ 3 → tp.phase.getD cell [] ≠ [] → (∀ i ∈ bads, i < 4) →
        PhaseEffect s.mem s.chip t.chip tp r b cell key s.chip.clk.smp false bads) ∧
      (cell = 6 → tp.contour ≠ [] → (∀ i ∈ bads, i < 8) → ContourEffect s.chip t.chip tp key s.chip.clk.smp bads) ∧
      (cell = 7 → tp.routes ≠ [] → MatrixEffect s.chip t.chip tp key s.chip.clk.smp false bads none ∧
        t.chip.cvNew = s.chip.cvNew) ∧
      (cell.val ≤ 3 ∧ tp.phase.getD cell [] ≠ [] ∨ cell = 6 ∧ tp.contour ≠ [] ∨ cell = 7 ∧ tp.routes ≠ [] →
        ParityEffect s.chip t.chip r b g 8 bads) ∧
      t = { s with chip := { passFrame s.chip t.chip with
        blocks := t.chip.blocks, rmem := t.chip.rmem, cvNew := t.chip.cvNew } } ∧
      s.chip.BitsKept t.chip (BLK_CNT_MISS r b :: RGNn_STRSTAT_UND r :: evBit 98 :: blkFaultBits r b ++ s.readBits r)) ∧
  (∀ (s : State) (r : Fin 4) (b : Fin 24), s.chip.clocked = true →
    let k := blkKey r b
    (∀ (g : Fin 18) (f : Fade), 16 ≤ g.val → (s.chip.slot (40 * k + g)).glaze = some f →
      (s.chip.clk.smp < f.start + f.n → exec (.glazeEnd r b g) s = .next s) ∧
      (f.start + f.n ≤ s.chip.clk.smp → ∃ t, exec (.glazeEnd r b g) s = .next t ∧ t.chip.slot (40 * k + g) = {} ∧
        ∀ j, j ≠ 40 * k + g → t.chip.slot j = s.chip.slot j)) ∧
    (∀ sl : Fin 16, ∃ t, exec (.tailEnd r b sl) s = .next t ∧ t.chip.slots = s.chip.slots ∧ t.chip.regs = s.chip.regs ∧
      ∀ f, f ∈ tabGet t.chip.tails [] (40 * k + sl) ↔
        f ∈ tabGet s.chip.tails [] (40 * k + sl) ∧ s.chip.clk.smp < f.start + f.ng))

/-- A MAC pass starts at program address 0 with its slot's context, over the members of its voice and with a budget of 128 cycles
for each of them; a cell that a fence waits for takes the fence in its place. A glaze slot's MAC pass starts so on the standby
cell, over the glaze slots that it joins. -/
def Obligations.MacPassStarts : Prop :=
  ∀ (s : State) (bad : CellParity) (tp : Content) (key n kind : Nat) (p : CellProg), s.chip.clocked = true →
    let start (u : MacUnit) (keys : List Nat) (home : Nat) (glaze : Bool) : State := { s with chip := s.chip.setCell (blkKey u.r u.b) u.u (
      if (s.chip.macCell u).fenceReq then { s.chip.macCell u with fenceReq := false, fenced := true }
      else
        { running := true, slot := key, keys := keys, home := home, glaze := glaze, kind := kind, smp := n, pc := 0
          link := keys.length, budget := 128 * keys.length
          ctx := (s.chip.slot key).macCtx kind, start := (s.chip.slot key).macCtx kind
          latch := ((s.chip.slot key).macCtx kind).out, badI := bad.code.map fun a => a.toNat
          badX := bad.x.map fun a => a.toNat, badY := bad.y.map fun a => a.toNat }) }
    let ready (u : MacUnit) : Prop := tp.prog kind = some p ∧ (s.chip.macCell u).running = false ∧
      (s.chip.macCell u).halted = false ∧ (s.chip.macCell u).fenced = false
    (∀ (u : MacUnit) (sl : Fin 16), ready u → (s.chip.blk (blkKey u.r u.b)).slotKind u.u = some kind →
      PassRuns s.chip u.r u.b sl (3 + kind) tp key n → (s.chip.slot key).memberNo = 0 →
      exec (.macPass u sl bad) s = .next (start u ((s.chip.slot key).spaceKeys key) sl false)) ∧
    (∀ (r : Fin 4) (b : Fin 24) (g : Fin 2) (cell : Fin 8) (m : Nat) (joined : Bool), ready ⟨r, b, 2⟩ →
      cell.val = 4 + kind → kind < 2 → GlazeRuns s.chip r b g tp m joined → ¬(joined = true ∧ m ≠ 0) →
      key = 40 * blkKey r b + 16 + g.val → n = s.chip.clk.smp →
      let t := start ⟨r, b, 2⟩ (if joined then [key, key + 1] else [key]) g true
      exec (.glazePass r b g cell bad) s = .next { t with chip := { t.chip with ctr := s.chip.ctr + 1 } })

/-! ### MAC cells (R165 to R196, R203 to R229) -/

/-- Decoding undoes encoding: the word of every instruction that is no reserved encoding decodes to that instruction, with
every operand at every value. -/
def Obligations.MacDecodeEncode : Prop :=
  ∀ i : MacIns, macReserved i = false → decodeMac (encodeMac i) = i

/-- Encoding undoes decoding: no bit of a MAC word is dropped. Words written out from the spec's encodings: END, BRA 5, Bcc NE
to 5, DO 3 times to address 9, REP 4, LDI V1, MOVE of E0 to V2, MPY E0 of the pair V0 and V2, TAP E1 with both cursors
stepping, and a reserved arithmetic code. -/
def Obligations.MacWordsRead : Prop :=
  (∀ w : Word, encodeMac (decodeMac w) = w) ∧
  (decodeMac 0x01000000 = .endPass ∧ decodeMac 0x02000005 = .bra 5 ∧ decodeMac 0x03100005 = .bcc 1 5 ∧
   decodeMac 0x04000609 = .doLoop 3 9 ∧ decodeMac 0x05000004 = .rep 4 ∧ decodeMac 0x22123456 = .ldi 1 0x123456 ∧
   decodeMac 0x61080000 = .move 2 4 ∧ decodeMac 0x84000000 = .arith .mpy 0 0 0 ∧
   decodeMac 0xD2011000 = .arith .tap 1 0 0x011000 ∧ decodeMac 0xD8000000 = .illegal 0xD8000000)

/-- The result of each arithmetic operation, once its instruction has passed its A stage: the exact result of R208, stored
modulo 2⁵⁶, with N, Z and V of the stored value and AOV set where the reduction changed it. PMOV writes no accumulator and no
flag, CMP flags alone; the other accumulator keeps its value. -/
def Obligations.MacArithmeticResults : Prop :=
  ∀ (s : State) (u : MacUnit) (tp : Content) (op : MacOp) (d : BitVec 1) (sb : BitVec 3) (mv : BitVec 22),
    s.chip.clocked = true → MacReady s.chip u tp (.arith op d sb mv) → (s.chip.macCell u).idlePipe →
    ∃ t, exec (arithCmd u op d sb mv) s = .next t ∧ ∃ R : Int,
      let c := (s.chip.macCell u).ctx
      let e := t.chip.macDrained u tp
      let own := ctxE c d.toNat
      let src : BitVec 56 := if sb.toNat ≤ 3 then (ctxV c sb.toNat).signExtend 56 <<< 24 else ctxE c (1 - d.toNat)
      let D := own.toInt
      let S := src.toInt
      let P : Int := if op = .tap ∨ op = .tapn then 2 * c.v0.toInt * c.v2.toInt
        else 2 * (pairOf c sb.toNat).1.toInt * (pairOf c sb.toNat).2.toInt
      let upper (x : BitVec 24) : Int := (own.extractLsb' 48 8 ++ x ++ own.extractLsb' 0 24 : BitVec 56).toInt
      let stored : BitVec 56 := BitVec.ofInt 56 R
      (op = .mpy → R = P) ∧ (op = .mpyn → R = -P) ∧ (op = .mac ∨ op = .tap → R = D + P) ∧
      (op = .macn ∨ op = .tapn → R = D - P) ∧ (op = .ld → R = S) ∧ (op = .add → R = D + S) ∧
      (op = .sub ∨ op = .cmp → R = D - S) ∧ (op = .neg → R = -D) ∧ (op = .abs → R = D.natAbs) ∧ (op = .clr → R = 0) ∧
      (op = .shl → R = D * 2 ^ (sb.toNat + 1)) ∧ (op = .shr → R = D / 2 ^ (sb.toNat + 1)) ∧
      (op = .and → R = upper (own.extractLsb' 24 24 &&& src.extractLsb' 24 24)) ∧
      (op = .or → R = upper (own.extractLsb' 24 24 ||| src.extractLsb' 24 24)) ∧
      (op = .eor → R = upper (own.extractLsb' 24 24 ^^^ src.extractLsb' 24 24)) ∧
      (op = .max → R = max D S) ∧ (op = .min → R = min D S) ∧
      (op = .clip → R = max (-(2 ^ 47)) (min (2 ^ 47 - 1) D)) ∧
      ctxE e (1 - d.toNat) = ctxE c (1 - d.toNat) ∧
      (op = .pmov → ctxE e d.toNat = own ∧ ∀ i, i ≠ 3 → e.sr.getLsbD i = c.sr.getLsbD i) ∧
      (op = .cmp → ctxE e d.toNat = own ∧ e.sr.getLsbD 0 = decide (R < 0) ∧ e.sr.getLsbD 1 = decide (R = 0) ∧
        e.sr.getLsbD 2 = decide (R < -(2 ^ 47) ∨ 2 ^ 47 ≤ R)) ∧
      (op ≠ .pmov → op ≠ .cmp → ctxE e d.toNat = stored ∧ e.sr.getLsbD 0 = stored.getLsbD 55 ∧
        e.sr.getLsbD 1 = decide (stored = 0) ∧ e.sr.getLsbD 2 = decide (stored.toInt < -(2 ^ 47) ∨ 2 ^ 47 ≤ stored.toInt) ∧
        e.sr.getLsbD 4 = (c.sr.getLsbD 4 || decide (stored.toInt ≠ R)))

/-- LDI and MOVE write their destination once they have completed: V0 to V3 take the value, an accumulator takes it aligned at
bit 24, SR its SAT, AOV and LIM bits, the address registers their low bits. A MOVE of an accumulator takes it as R173 reduces
it. MVX performs its parameter load, its input load and its memory load together, and nothing else: each register named takes
the value of the page, the input or the memory word, and the pointer of the memory load steps. -/
def Obligations.MacMoves : Prop :=
  (∀ (s : State) (u : MacUnit) (tp : Content), s.chip.clocked = true → (s.chip.macCell u).idlePipe →
     let m := s.chip.macCell u
     let c := m.ctx
     (∀ (dst : BitVec 4) (imm : BitVec 24), MacReady s.chip u tp (.ldi dst imm) → ∃ t, exec (.ldi u dst imm) s = .next t ∧
       let e := t.chip.macDrained u tp
       let n := (imm.extractLsb' 21 3).toNat
       (dst.toNat ≤ 3 → e = ctxSetV c dst.toNat imm) ∧
       (dst = 4 ∨ dst = 5 → ctxE e (dst.toNat - 4) = imm.signExtend 56 <<< 24 ∧ ctxE e (5 - dst.toNat) = ctxE c (5 - dst.toNat) ∧
         e.sr.getLsbD 0 = imm.getLsbD 23 ∧ e.sr.getLsbD 1 = decide (imm = 0) ∧ e.sr.getLsbD 2 = false ∧
         e = { c with e0 := e.e0, e1 := e.e1, sr := e.sr }) ∧
       (dst = 6 → e = { c with sr := (c.sr &&& 0xFFC7) ||| (imm.setWidth 16 &&& 0x38) }) ∧
       (dst = 7 → e = { c with am := imm.setWidth 16 }) ∧
       (dst = 8 → e = { c with c := tabSet c.c 0 n (imm.setWidth 10) }) ∧
       (dst = 9 → e = { c with h := tabSet c.h 0 n (imm.setWidth 10) }) ∧
       (dst = 10 → e = { c with t := tabSet c.t 0 n (imm.setWidth 11) }) ∧
       (dst = 11 → e = { c with w := tabSet c.w 0 n (imm.setWidth 10) })) ∧
     (∀ dst src : BitVec 6, MacReady s.chip u tp (.move dst src) → ∃ t, exec (.move u dst src) s = .next t ∧
       let e := t.chip.macDrained u tp
       let depth := if 7 ≤ dst.toNat then m.stack.length else (t.chip.macCell u).stack.length
       let v := (moveSource c depth src.toNat).1
       let c1 : MacCtx := if (moveSource c depth src.toNat).2 then { c with sr := c.sr ||| 8 } else c
       (dst.toNat ≤ 3 → e = ctxSetV c1 dst.toNat v) ∧
       (dst = 4 ∨ dst = 5 → ctxE e (dst.toNat - 4) = v.signExtend 56 <<< 24 ∧ e = { c1 with e0 := e.e0, e1 := e.e1, sr := e.sr } ∧
         ctxE e (5 - dst.toNat) = ctxE c (5 - dst.toNat)) ∧
       (dst = 6 → e = { c1 with sr := (c1.sr &&& 0xFFC7) ||| (v.setWidth 16 &&& 0x38) }) ∧
       (7 ≤ dst.toNat → e = setAddrReg c1 dst.toNat v))) ∧
  (∀ (s : State) (u : MacUnit) (tp : Content) (f : BitVec 29), s.chip.clocked = true → (s.chip.macCell u).idlePipe →
     MacReady s.chip u tp (.mvx f) → macDoubleLoad (.mvx f) = false → ∃ t, exec (.mvx u f) s = .next t ∧
       let m := s.chip.macCell u
       let e := t.chip.macDrained u tp
       let env := s.chip.macEnv tp m
       let r (n : Nat) : Q := ctxV e n
       (f.getLsbD 28 = true → r (bitsOf f 26 2) = env.par (bitsOf f 16 9) (f.getLsbD 25)) ∧
       (f.getLsbD 15 = true → r (bitsOf f 13 2) = if 8 * m.link ≤ bitsOf f 8 5 then 0
         else env.inp (bitsOf f 8 5) (decide (m.cyc < 128 * (bitsOf f 8 5 / 8)))) ∧
       (f.getLsbD 7 = true → f.getLsbD 6 = false →
         r (bitsOf f 4 2) = env.rdX (pointerAccess m.ctx env.space (bitsOf f 2 2) (bitsOf f 0 2)).1 ∧
         e.c = (pointerAccess m.ctx env.space (bitsOf f 2 2) (bitsOf f 0 2)).2.c) ∧
       (f.getLsbD 7 = true → f.getLsbD 6 = true →
         r (bitsOf f 4 2) = env.rdY (pointerAccess m.ctx env.space (bitsOf f 2 2 + 4) (bitsOf f 0 2)).1 ∧
         e.c = (pointerAccess m.ctx env.space (bitsOf f 2 2 + 4) (bitsOf f 0 2)).2.c) ∧
       (f.getLsbD 7 = false → e.c = m.ctx.c) ∧
       (∀ n, n < 4 → ¬(f.getLsbD 28 = true ∧ bitsOf f 26 2 = n) → ¬(f.getLsbD 15 = true ∧ bitsOf f 13 2 = n) →
         ¬(f.getLsbD 7 = true ∧ bitsOf f 4 2 = n) → r n = ctxV m.ctx n) ∧
       e = { m.ctx with v0 := e.v0, v1 := e.v1, v2 := e.v2, v3 := e.v3, c := e.c })

/-- Where the sequencer goes after a NOP, a branch, a DO and a REP: repeats first, then the delay slots of branches, then the
end of a DO body. A Bcc takes its branch by the flags its D stage reads; every issue counts a delay slot of each branch under
way, and a taken branch's target issues after its two; a fourth DO and a count above 1,024 are LOOP faults. -/
def Obligations.MacSequencing : Prop :=
  ∀ (s : State) (u : MacUnit) (tp : Content), s.chip.clocked = true →
    let m := s.chip.macCell u
    let after (t : State) : MacCell := t.chip.macCell u
    let sequenced (t : State) (new : List (Nat × Bool × Nat)) (stack : List DoEntry) (goes : Prop) : Prop :=
      Branched m (after t) new ∧ (¬m.noJump → (after t).rep = 0 ∧ (after t).stack = stack) ∧
      (m.noJump → 2 ≤ m.rep → (after t).pc = m.pc ∧ (after t).rep = m.rep - 1 ∧ (after t).stack = stack) ∧
      (m.noJump → m.rep < 2 → goes)
    (MacReady s.chip u tp .nop → ∃ t, exec (.nop u) s = .next t ∧ (after t).cyc = m.cyc + 1 ∧
      sequenced t [] m.stack ((after t).rep = 0 ∧ GoesOn m (after t))) ∧
    (∀ tg, MacReady s.chip u tp (.bra tg) → ∃ t, exec (.bra u tg) s = .next t ∧ (after t).cyc = m.cyc + 1 ∧
      sequenced t [(2, true, tg.toNat)] m.stack ((after t).rep = 0 ∧ GoesOn m (after t))) ∧
    (∀ (cond : BitVec 4) tg, MacReady s.chip u tp (.bcc cond tg) → ∃ t, exec (.bcc u cond tg) s = .next t ∧
      (after t).cyc = m.cyc + 1 ∧
        let n := m.ctx.sr.getLsbD 0
        let z := m.ctx.sr.getLsbD 1
        let v := m.ctx.sr.getLsbD 2
        sequenced t [(2, [z, !z, n, !n, v, !v, !n && !z, n || z].getD cond.toNat false, tg.toNat)] m.stack
          ((after t).rep = 0 ∧ GoesOn m (after t))) ∧
    (∀ (count : BitVec 10) stop, MacReady s.chip u tp (.doLoop count stop) → ∃ t, exec (.doLoop u count stop) s = .next t ∧
      (after t).cyc = min (m.cyc + 2) m.budget ∧
      (m.stack.length < 3 →
        let stack : List DoEntry :=
          { start := (m.pc + 1) % 512, stop := stop.toNat, count := if count = 0 then 1024 else count.toNat } :: m.stack
        sequenced t [] stack ((after t).pc = (m.pc + 1) % 512 ∧ (after t).rep = 0 ∧ (after t).stack = stack)) ∧
      (3 ≤ m.stack.length → sequenced t [] m.stack ((after t).rep = 0 ∧ GoesOn m (after t))) ∧
      (3 ≤ m.stack.length → m.badRead = false → t.chip.macFaultSays u m 0x12)) ∧
    (∀ count : BitVec 10, MacReady s.chip u tp (.rep count) → ∃ t, exec (.rep u count) s = .next t ∧
      sequenced t [] m.stack ((after t).pc = (m.pc + 1) % 512 ∧ (after t).stack = m.stack ∧
        (after t).rep = if count = 0 then 1024 else count.toNat)) ∧
    (∀ reg : BitVec 6, MacReady s.chip u tp (.repReg reg) → ∃ t, exec (.repFromRegister u reg) s = .next t ∧
      let n := (moveSource m.ctx 0 reg.toNat).1.toNat
      sequenced t [] m.stack ((n = 0 → (after t).rep = 0 ∧ GoesOn { m with pc := (m.pc + 1) % 512 } (after t)) ∧
        (0 < n → (after t).pc = (m.pc + 1) % 512 ∧ (after t).stack = m.stack ∧ (after t).rep = min n 1024)) ∧
      (1024 < n → m.badRead = false → t.chip.macFaultSays u m 0x12))

/-- INJ queues its entry; a page the voice has not, or a fifth waiting entry, is a PORT fault, and a glaze pass's injection is
discarded. At an interruptible point past its E stage the oldest entry, and one entry at each point, is written to the back
copy of its page, by the LOW view with its sign, by the HIGH view in bits [31:8]. END ends the pass: the instructions in flight
complete, member i's output port p takes the latched OUT(4i + p) as the value of the pass's sample, the registers are kept for
the slot's next pass, and the cell goes idle; where a fence waits END takes it, the outputs stay and the registers of the
pass's start return but for AOV and LIM. A reserved word, and a word that fails its parity check, issue as a NOP: the first
records ILLEGAL (0x11), the second 0x16. -/
def Obligations.MacInjectionEndAndBadWords : Prop :=
  (∀ (s : State) (u : MacUnit), s.chip.clocked = true →
     let m := s.chip.macCell u
     (∀ (tp : Content) (src page : BitVec 3) (view : BitVec 1) (word : BitVec 6),
       MacReady s.chip u tp (.inj src page view word) → ∃ t, exec (.inj u src page view word) s = .next t ∧
         (t.chip.macCell u).injq = injAge m.ctx m.injq ++
           (if m.glaze = true ∨ m.link ≤ page.toNat ∨ 4 ≤ m.injq.length then []
            else [{ page := page.toNat, view := view.getLsbD 0, word := word.toNat, age := 0, src := src.toNat, value := none }]) ∧
         (m.glaze = false → m.link ≤ page.toNat ∨ 4 ≤ m.injq.length → m.badRead = false → t.chip.macFaultSays u m 0x13)) ∧
     (m.delivered = true → exec (.injectionDelivery u) s = .next s) ∧
     (∀ (e : Inject) (rest : List Inject) (v : Q) (page : Nat), m.injq = e :: rest → m.running = true →
       m.delivered = false → s.chip.macAtPoint u → 2 ≤ e.age → e.value = some v → m.keys[e.page]? = some page →
       let key := if 18 ≤ page % 40 ∧ (s.chip.slot (page - 18)).role = .free then page - 18 else page
       ∃ t, exec (.injectionDelivery u) s = .next t ∧
         t = { s with chip := { s.chip with slots := t.chip.slots, blocks := t.chip.blocks } } ∧
         (let w : Word := if e.view then v ++ (0 : BitVec 8) else v.signExtend 32
          t.chip.slot key = { s.chip.slot key with back := tabSet (s.chip.slot key).back 0 e.word w }) ∧
         (∀ k, k ≠ key → t.chip.slot k = s.chip.slot k) ∧ t.chip.macCell u = { m with injq := rest, delivered := true } ∧
         (∀ k, k ≠ blkKey u.r u.b → t.chip.blk k = s.chip.blk k))) ∧
  (∀ (s : State) (u : MacUnit) (tp : Content), s.chip.clocked = true → MacReady s.chip u tp .endPass →
     let m := s.chip.macCell u
     let fin := (macFinish (s.chip.macEnv tp m) m).1
     let keys := m.keys
     ∃ t, exec (.endPass u) s = .next t ∧
       (s.chip.haltWaits (blkKey u.r u.b) → s.chip.cellsStand (blkKey u.r u.b) (some u.u) →
         t.chip.isPending 109 = true ∧ (t.chip.blk (blkKey u.r u.b)).haltDue = false) ∧
       (m.fenceReq = false → t.chip.macCell u = { halted := m.halted, fenced := m.fenced } ∧
         (t.chip.slot m.slot).macCtx m.kind = fin.ctx ∧
         (∀ i, i < keys.length → (∀ j, j < keys.length → keys.getD j 0 = keys.getD i 0 → j = i) → ∀ p, p < 4 →
           tabGet (t.chip.slot (keys.getD i 0)).outs {} (16 * (4 + m.kind) + p) =
             (tabGet (s.chip.slot (keys.getD i 0)).outs {} (16 * (4 + m.kind) + p)).push m.smp
               (tabGet fin.latch 0 (4 * i + p)))) ∧
       (m.fenceReq = true → t.chip.macCell u = { halted := m.halted, fenced := true } ∧
         (t.chip.slot m.slot).macCtx m.kind = { m.start with sr := (m.start.sr &&& 0xFFE7) ||| (fin.ctx.sr &&& 0x18) } ∧
         ∀ k, (t.chip.slot k).outs = (s.chip.slot k).outs) ∧
       (m.glaze = false → m.kind = 0 → t.chip.fld (BLK_PEAK_MC0 u.r u.b) =
         max (s.chip.fld (BLK_PEAK_MC0 u.r u.b)) (min (m.cyc + 1) 65535)) ∧
       (m.glaze = false → m.kind ≠ 0 → t.chip.fld (BLK_PEAK_MC1 u.r u.b) =
         max (s.chip.fld (BLK_PEAK_MC1 u.r u.b)) (min (m.cyc + 1) 65535))) ∧
  (∀ (s : State) (u : MacUnit) (tp : Content) (ins : MacIns), s.chip.clocked = true →
     let m := s.chip.macCell u
     let asNop (t : State) : Prop := t.chip.macCell u = { (macIssue (s.chip.macEnv tp m) m.glaze m .nop).1 with
       badX := (t.chip.macCell u).badX, badY := (t.chip.macCell u).badY }
     (∀ w, MacReady s.chip u tp (.illegal w) → ∃ t, exec (.illegal u w) s = .next t ∧ asNop t ∧
       (m.badRead = false → t.chip.macFaultSays u m 0x11)) ∧
     ((s.chip.blk (blkKey u.r u.b)).content = some tp → macCanIssue m = true →
       decodeMac ((s.chip.blk (blkKey u.r u.b)).fetch m) = ins → m.pc ∈ m.badI →
       ∃ t, exec (issueCmd u ins) s = .next t ∧ asNop t ∧ t.chip.macFaultSays u m 0x16))

/-- Whatever a MAC cell issues, only its own cell, the slots of the voice it serves, the block's fault record, overflow bits
and peaks, and the walk of the Restorer can change; where END leaves every cell of a halted block standing, the halt takes effect. -/
def Obligations.MacIssueFrame : Prop :=
  ∀ (s : State) (u : MacUnit) (ins : MacIns), ∃ t, exec (issueCmd u ins) s = .next t ∧
    let m := s.chip.macCell u
    let k := blkKey u.r u.b
    t = { s with chip := { s.chip with
      regs := t.chip.regs, blocks := t.chip.blocks, slots := t.chip.slots, rep := t.chip.rep } } ∧
    (∀ j, j ≠ k → t.chip.blk j = s.chip.blk j) ∧
    t.chip.blk k = { s.chip.blk k with cells := (t.chip.blk k).cells, haltDue := (t.chip.blk k).haltDue } ∧
    (ins ≠ .endPass → (t.chip.blk k).haltDue = (s.chip.blk k).haltDue ∧ t.chip.isPending 109 = s.chip.isPending 109) ∧
    (∀ v, v ≠ u.u.val → (t.chip.blk k).cell v = (s.chip.blk k).cell v) ∧
    (∀ j, j ∉ m.keys → j ∉ m.keys.map s.chip.homeKey → j ≠ m.slot → t.chip.slot j = s.chip.slot j) ∧
    s.chip.BitsKept t.chip (regField (BLK_MACOV u.r u.b) :: BLK_PEAK_MC0 u.r u.b :: BLK_PEAK_MC1 u.r u.b :: evBit 109 ::
      blkFaultBits u.r u.b)

/-- A pass that has not ended by the last cycle of its budget is cut: the registers of its start return but for AOV and LIM,
the block records code 0x10 and counts the cut, and a voice cut in four consecutive samples ramps to silence over 32 samples, after
which, and not before, its slots are empty.
A fence that waits is taken in the cut's place. At an interruptible point a cell takes the halt of its block, after the point's
delivery, or a fence: issued instructions drain, the registers of the pass's start return but for AOV and LIM, and the cell
stands fenced. The halt takes effect, with source 109, once no cell of the block runs on. -/
def Obligations.MacCutHaltAndFence : Prop :=
  (∀ (s : State) (u : MacUnit), s.chip.clocked = true → (s.chip.macCell u).running = true →
     (s.chip.macCell u).halted = false → (s.chip.macCell u).budget ≤ (s.chip.macCell u).cyc →
     let m := s.chip.macCell u
     let x := s.chip.slot m.slot
     ∃ t, exec (.budgetCut u) s = .next t ∧
       (s.chip.haltWaits (blkKey u.r u.b) → s.chip.cellsStand (blkKey u.r u.b) (some u.u) →
         t.chip.isPending 109 = true ∧ (t.chip.blk (blkKey u.r u.b)).haltDue = false) ∧
       t = { s with chip := { s.chip with
         regs := t.chip.regs, blocks := t.chip.blocks, slots := t.chip.slots, rep := t.chip.rep } } ∧
       (∀ tp, m.fenceReq = true → (s.chip.blk (blkKey u.r u.b)).content = some tp →
         t.chip.macCell u = { halted := m.halted, fenced := true } ∧ (t.chip.slot m.slot).macCtx m.kind =
           { m.start with sr := (m.start.sr &&& 0xFFE7) ||| ((s.chip.macDrained u tp).sr &&& 0x18) } ∧
         t.chip.fld (BLK_CNT_OVR u.r u.b) = s.chip.fld (BLK_CNT_OVR u.r u.b)) ∧
       (m.fenceReq = false → t.chip.macCell u = { halted := m.halted, fenced := m.fenced } ∧
         (t.chip.slot m.slot).macCtx m.kind = { m.start with sr := (m.start.sr &&& 0xFFE7) ||| (m.ctx.sr &&& 0x18) } ∧
         t.chip.fld (BLK_FAULT_SLOT u.r u.b) = m.home % 16 ∧
         t.chip.fld (BLK_FAULT_CELL u.r u.b) = (if m.glaze then 8 else (4 + m.kind) % 16) ∧
         t.chip.fld (BLK_FAULT_CODE u.r u.b) = 0x10 ∧ t.chip.is (BLK_FAULT_BUDGET u.r u.b) = true ∧
         t.chip.isPending (112 + 4 * u.r.val) = true ∧ t.chip.rep = s.chip.rep ∧
         t.chip.fld (BLK_CNT_OVR u.r u.b) = min (s.chip.fld (BLK_CNT_OVR u.r u.b) + 1) 65535 ∧
         (m.glaze = false → x.cuts0 = 3 → x.cuts1 + 1 = m.smp → (∃ base i, x.role = .member base i) → x.ramp = none →
           m.slot % 40 < 16 → t.chip.isPending 28 = true ∧
           ∀ k ∈ x.mates, (t.chip.slot k).ramp = some { start := m.smp + 1, n := 32 }))) ∧
  (∀ (s : State) (u : MacUnit), s.chip.clocked = true →
     let m := s.chip.macCell u
     let halt (t : State) : State :=
       { t with chip := t.chip.setCell (blkKey u.r u.b) u.u { t.chip.macCell u with halted := true } }
     s.chip.macAtPoint u →
     ((s.chip.blk (blkKey u.r u.b)).halted = true → m.fenceReq = false →
       ∃ d, exec (.injectionDelivery u) s = .next d ∧ ∃ t, exec (.haltTake u) s = .next t ∧ (t.chip.macCell u).halted = true ∧
         HaltSettles (halt d) t (blkKey u.r u.b)) ∧
     (∀ tp, (s.chip.blk (blkKey u.r u.b)).content = some tp → m.fenceReq = true →
       (m.running = false → ∃ t, exec (.fenceTake u) s = .next t ∧ HaltSettles
         { s with chip := s.chip.setCell (blkKey u.r u.b) u.u { m with fenceReq := false, fenced := true } } t (blkKey u.r u.b)) ∧
       (m.running = true → ∃ t, exec (.fenceTake u) s = .next t ∧
         (s.chip.haltWaits (blkKey u.r u.b) → s.chip.cellsStand (blkKey u.r u.b) (some u.u) →
           t.chip.isPending 109 = true ∧ (t.chip.blk (blkKey u.r u.b)).haltDue = false) ∧
         t = { s with chip := { s.chip with
           regs := t.chip.regs, blocks := t.chip.blocks, slots := t.chip.slots, rep := t.chip.rep } } ∧
         t.chip.macCell u = { halted := m.halted, fenced := true } ∧
         (t.chip.slot m.slot).macCtx m.kind =
           { m.start with sr := (m.start.sr &&& 0xFFE7) ||| ((s.chip.macDrained u tp).sr &&& 0x18) }))) ∧
  (∀ (s : State) (r : Fin 4) (b : Fin 24) (sl : Fin 16) (f : Fade), s.chip.clocked = true →
     let key := 40 * blkKey r b + sl.val
     (s.chip.slot key).ramp = some f → (s.chip.slot key).mates ≠ [] →
     (s.chip.clk.smp < f.start + f.n → exec (.budgetRampEnd r b sl) s = .next s) ∧
     (f.start + f.n ≤ s.chip.clk.smp → ∃ t, exec (.budgetRampEnd r b sl) s = .next t ∧
       ∀ j, t.chip.slot j = if j ∈ (s.chip.slot key).mates then (s.chip.slot j).emptied else s.chip.slot j))

/-! ### Fades and gains (R91, R106, R107, R314, R343, R350, R356) -/

/-- GLAZE_END, BUDGET_RAMP_END and TAIL_END complete in every state: a glaze, a ramp of R91 and a held tail end once their
length has run, and not before: a glaze slot's context is free, a voice's slots are empty but for their pages, partitions and
generations, and the tail is gone. The block reads empty once nothing runs in it. A glaze in place that a ramp of R91 has
taken over ends with that ramp: the model's choice (assumption 97). A write of a bus gain register is kept but for its
reserved bits [31:28] and starts a ramp at the next boundary. At close j the ramp's gain is g0 + (gt − g0) × j ÷ R, and gt at
the last. The live fade of a disabled bus block ends after its 64 samples, and not before: the block drops its template and
reads disabled, and CNV_BFADE no longer shows the fade. -/
def Obligations.FadesAndGains : Prop :=
  (∀ (s : State) (r : Fin 4) (b : Fin 24), s.chip.clocked = true →
     let k := blkKey r b
     let c := s.chip
     let others (t : State) : Prop := (∀ j, j ≠ k → t.chip.blk j = c.blk j) ∧
       t.chip.blk k = { c.blk k with st := (t.chip.blk k).st } ∧
       ((c.blk k).st = .running ∨ (c.blk k).st = .empty →
         (t.chip.blk k).st = if t.chip.blkEmpty k then .empty else .running)
     let ends (keys : List Nat) (t : State) : Prop := others t ∧ t = { s with chip := { c with
         regs := t.chip.regs, blocks := t.chip.blocks, slots := t.chip.slots, rmem := t.chip.rmem } } ∧
       c.BitsKept t.chip (keys.map fun j => RGNn_STRSTAT_RINGS (keyRegion j))
     let freed (keys : List Nat) (t : State) : Prop := ends keys t ∧
       ∀ j, t.chip.slot j = if j ∈ keys then (c.slot j).emptied else c.slot j
     let ended (f : Option Fade) : Prop := ∃ x, f = some x ∧ x.start + x.n ≤ c.clk.smp
     (∀ sl : Fin 18, let x := c.slot (40 * k + sl)
       ∃ t, exec (.glazeEnd r b sl) s = .next t ∧ (¬ended x.glaze → t = s) ∧
         (ended x.glaze → 16 ≤ sl.val → ends [40 * k + sl] t ∧ t.chip.slot (40 * k + sl) = {} ∧
           ∀ j, j ≠ 40 * k + sl → t.chip.slot j = c.slot j) ∧
         (ended x.glaze → sl.val < 16 → x.ramp = none → x.mates ≠ [] → freed x.mates t) ∧
         (sl.val < 16 → x.ramp ≠ none ∨ x.mates = [] → t = s)) ∧
     (∀ sl : Fin 16, let x := c.slot (40 * k + sl)
       ∃ t, exec (.budgetRampEnd r b sl) s = .next t ∧ (¬ended x.ramp ∨ x.mates = [] → t = s) ∧
         (ended x.ramp → x.mates ≠ [] → freed x.mates t)) ∧
     (∀ sl : Fin 16, ∃ t, exec (.tailEnd r b sl) s = .next t ∧ others t ∧
       t = { s with chip := { c with blocks := t.chip.blocks, tails := t.chip.tails } } ∧
       (∀ j, j ≠ 40 * k + sl → tabGet t.chip.tails [] j = tabGet c.tails [] j) ∧
       (∀ f, f ∈ tabGet t.chip.tails [] (40 * k + sl) ↔
         f ∈ tabGet c.tails [] (40 * k + sl) ∧ c.clk.smp < f.start + f.ng))) ∧
  ((∀ (s : State) (i : Fin 96) (v : Word), s.chip.clocked = true → ∃ t, exec (.busGainWrite i v) s = .next t ∧
     t = { s with chip := { s.chip with regs := t.chip.regs, cnv := { s.chip.cnv with gainPend := t.chip.cnv.gainPend } } } ∧
     t.chip.reg (if i.val < 64 then CNV_RBG i else CNV_CBG (i - 64)) = v &&& 0x0FFFFFFF ∧
     s.chip.BitsKept t.chip [regField (if i.val < 64 then CNV_RBG i else CNV_CBG (i - 64))] ∧
     (∀ j, j ∈ t.chip.cnv.gainPend ↔ j = i.val ∨ j ∈ s.chip.cnv.gainPend)) ∧
   (∀ c : Chip, c.startRamps.cnv.gainPend = [] ∧ ∀ i ∉ c.cnv.gainPend,
     tabGet c.startRamps.cnv.ramps {} i = tabGet c.cnv.ramps {} i) ∧
   (∀ g : GainRamp, g.j < g.r → g.close.2.j = g.j + 1 ∧ (g.j + 1 = g.r → g.close.1 = g.gt) ∧
     (g.j + 1 < g.r → g.close.1.toInt = g.g0.toInt + (g.gt.toInt - g.g0.toInt) * (g.j + 1 : Nat) / g.r))) ∧
  (∀ (s : State) (r : Fin 4) (b : Fin 24) (f : BlockFade), s.chip.clocked = true →
     let k := blkKey r b
     tabGet s.chip.cnv.fades none k = some f → f.heldKind = false → f.disable = true → (s.chip.blk k).draining = true →
     (s.chip.clk.smp < f.start + 64 → exec (.blockFadeEnd r b) s = .next s) ∧
     (f.start + 64 ≤ s.chip.clk.smp → ∃ t, exec (.blockFadeEnd r b) s = .next t ∧
       t = { s with chip := { s.chip with regs := t.chip.regs, blocks := t.chip.blocks, slots := t.chip.slots
                                          parts := t.chip.parts, cnv := { s.chip.cnv with fades := t.chip.cnv.fades } } } ∧
       (t.chip.blk k).st = .disabled ∧ (t.chip.blk k).content = none ∧ (t.chip.blk k).bus = false ∧
       (t.chip.blk k).draining = false ∧ (∀ j, j ≠ k → t.chip.blk j = s.chip.blk j) ∧
       (∀ i, i < 16 → t.chip.slot (40 * k + i) = (s.chip.slot (40 * k + i)).emptied) ∧
       (∀ j, j / 40 ≠ k → t.chip.slot j = s.chip.slot j) ∧
       (∀ j, tabGet t.chip.cnv.fades none j = if j = k then none else tabGet s.chip.cnv.fades none j) ∧
       t.chip.reg (CNV_BFADE r) = s.chip.reg (CNV_BFADE r) &&& ~~~(1#32 <<< b.val) ∧
       s.chip.BitsKept t.chip [regField (CNV_BFADE r)]))

/-! ### Blocks: loads, wakes, gating, disabling, cache and cell memories (R110 to R120, R198 to R200) -/

/-- A host's load request is accepted for an enabled, empty block on whose load path nothing waits, for a template of the
right kind that the palette holds: it queues a load, a wake where the template is resident in a gated block, or nothing where
it is resident. Any other request sets LOAD_REJ. TMPL, KEEP and MODE take what the write gives. A template load takes the
oldest request of its region's load path, quiesces the empty block and clears its memories. A load ends with the content that
the bank holds, checked by its CRC-32: the block holds it and source +1 of its region is raised. A content that fails its
check leaves the block empty with no template, records code 0x21 with SLOT 0 and CELL 15, and returns the entries that waited.
-/
def Obligations.BlockLoads : Prop :=
  (∀ (s : State) (r : Fin 4) (b : Fin 24) (v : Word), s.chip.clocked = true → v.getLsbD 0 = s.chip.is (BLK_CTL_EN r b) →
     let k := blkKey r b
     let x := s.chip.blk k
     let tm := (v.extractLsb' 8 5).toNat
     let bus := v.getLsbD 2
     let ok := (x.st = .empty ∨ x.st = .gated) ∧ x.draining = false ∧ x.evicting = false ∧ s.chip.blkEmpty k = true ∧
       (∀ q ∈ (s.chip.rgn r).loads, q.block ≠ b.val) ∧ (if bus then 16 ≤ tm ∧ tm ≤ 23 else tm ≤ 15) ∧
       s.chip.pal.loaded = true ∧ (s.chip.pal.tmpl tm).isSome = true
     ∃ t, exec (.blkLoadRequest r b v) s = .next t ∧
       t = { s with chip := { s.chip with regs := t.chip.regs, regions := t.chip.regions } } ∧
       s.chip.BitsKept t.chip [BLK_CTL_TMPL r b, BLK_CTL_KEEP r b, BLK_CTL_MODE r b, BLK_STAT_LOAD_REJ r b,
         evBit (113 + 4 * r)] ∧
       t.chip.fld (BLK_CTL_TMPL r b) = tm ∧ t.chip.is (BLK_CTL_KEEP r b) = v.getLsbD 3 ∧ t.chip.is (BLK_CTL_MODE r b) = bus ∧
       (∀ q, q ≠ r.val → t.chip.rgn q = s.chip.rgn q) ∧
       t.chip.rgn r = { s.chip.rgn r with loads := (t.chip.rgn r).loads } ∧
       (¬ok → t.chip.is (BLK_STAT_LOAD_REJ r b) = true ∧ t.chip.rgn r = s.chip.rgn r) ∧
       (ok → t.chip.is (BLK_STAT_LOAD_REJ r b) = s.chip.is (BLK_STAT_LOAD_REJ r b)) ∧
       (ok → x.tmplCode = tm → x.st = .empty → t.chip.isPending (113 + 4 * r) = true ∧ t.chip.rgn r = s.chip.rgn r) ∧
       (ok → x.tmplCode = tm → x.st = .gated → (t.chip.rgn r).loads =
         (s.chip.rgn r).loads ++ [{ block := b, wake := true, load := false, tmpl := tm, bus := bus, host := true }]) ∧
       (ok → x.tmplCode ≠ tm → (t.chip.rgn r).loads = (s.chip.rgn r).loads ++
         [{ block := b, wake := decide (x.st = .gated), load := true, tmpl := tm, bus := bus, host := true }])) ∧
  (∀ (s : State) (r : Fin 4) (q : LoadReq) (rest : List LoadReq), s.chip.clocked = true → (s.chip.rgn r).loads = q :: rest →
     let k := blkKey r q.block
     let starts := q.wake = false ∧ q.running = false ∧ q.load = true ∧ (s.chip.blk k).st = .empty ∧
       (s.chip.blk k).draining = false ∧ (q.host = true → ∀ i, i < 16 → (s.chip.slot (40 * k + i)).pend = none)
     (¬starts → exec (.templateLoad r) s = .next s) ∧
     (starts → ∃ t, exec (.templateLoad r) s = .next t ∧
       t = { s with chip := { s.chip with blocks := t.chip.blocks, slots := t.chip.slots, regions := t.chip.regions } } ∧
       t.chip.rgn r = { s.chip.rgn r with loads := { q with running := true } :: rest } ∧
       (∀ p, p ≠ r.val → t.chip.rgn p = s.chip.rgn p) ∧
       t.chip.blk k = { s.chip.blk k with st := .loading, content := none, cache := [], refills := [], gateCnt := 0 } ∧
       (∀ j, j ≠ k → t.chip.blk j = s.chip.blk j) ∧
       (∀ i, i < 16 → t.chip.slot (40 * k + i) =
         { s.chip.slot (40 * k + i) with x0 := [], y0 := [], x1 := [], y1 := [] }) ∧
       (∀ j, ¬(40 * k ≤ j ∧ j < 40 * k + 16) → t.chip.slot j = s.chip.slot j))) ∧
  (∀ (s : State) (r : Fin 4) (q : LoadReq) (rest : List LoadReq), s.chip.clocked = true → (s.chip.rgn r).loads = q :: rest →
     q.running = true → q.wake = false → q.load = true →
     let k := blkKey r q.block
     let image (tm : Template) : List Word := (List.range (s.chip.pal.imageSize tm r)).map fun i =>
       s.mem.rd (contentAddr r (s.chip.pal.imageBase tm.id r + i))
     ∃ t, exec (.templateLoadDone r) s = .next t ∧ s.SameStore t ∧ (t.chip.rgn r).loads = rest ∧
       (∀ tm, s.chip.pal.tmpl q.tmpl = some tm → crcWords (image tm).dropLast = (image tm).getLast?.getD 0 →
         (t.chip.blk k).content = some (s.chip.pal.contentOf tm (image tm)).1 ∧
         (t.chip.blk k).pm0 = progMem (s.chip.pal.contentOf tm (image tm)).2.1 ∧
         (t.chip.blk k).pm1 = progMem (s.chip.pal.contentOf tm (image tm)).2.2 ∧ (t.chip.blk k).bus = q.bus ∧
         t.chip.isPending (113 + 4 * r) = true ∧ s.chip.BitsKept t.chip (evBit (113 + 4 * r) :: s.readBits r) ∧
         ∀ j, j ≠ k → t.chip.blk j = s.chip.blk j) ∧
       ((∀ tm, s.chip.pal.tmpl q.tmpl = some tm → crcWords (image tm).dropLast ≠ (image tm).getLast?.getD 0) →
         (t.chip.blk k).content = none ∧ (t.chip.blk k).st = .empty ∧ (t.chip.blk k).bus = false ∧
         t.chip.FaultSays r q.block 0 15 0x21 ∧ (∀ w ∈ t.chip.ez.evicts, ¬(w.entry.region = r.val ∧ w.entry.block = q.block)) ∧
         ∀ e ∈ (t.chip.rgn r).ready ++ (t.chip.rgn r).held, ¬(e.region = r.val ∧ e.block = q.block)))

/-- Writing EN = 1 returns a disabled block to the empty state, and ends a drain; the slots of a bus block that a load left
idle while it drained become active. Writing EN = 0 to a block in service starts its drain: entries that target it return to
the allocator, those that wait for it to empty among them, loads of it that wait are dropped, its voices glaze in place from
the next sample on over the glaze times they started with, and a bus block's live fade starts with the next sample. A
draining block that has become empty drops its template and reads disabled; one that has not stays as it is. A bus block does so when
its live fade has run its 64 samples, and not before. -/
def Obligations.BlockEnableAndDisable : Prop :=
  (∀ (s : State) (r : Fin 4) (b : Fin 24), s.chip.clocked = true →
     let k := blkKey r b
     let c := s.chip
     let x := c.blk k
     (∃ t, exec (.blockEnable r b) s = .next t ∧
       t = { s with chip := { c with
         regs := t.chip.regs, blocks := t.chip.blocks, slots := t.chip.slots, pwr := t.chip.pwr } } ∧
       c.BitsKept t.chip [BLK_CTL_EN r b] ∧ t.chip.is (BLK_CTL_EN r b) = true ∧
       (∀ j, j ≠ k → t.chip.blk j = c.blk j) ∧
       (¬(x.st = .empty ∧ x.draining = true ∧ x.bus = true) → t.chip.slots = c.slots) ∧
       (x.st = .disabled → t.chip.blk k = { x with st := .empty } ∧ tabGet t.chip.pwr.point 0 r =
         if r.val ∈ c.pwr.dozing then tabGet c.pwr.point 0 r else max (tabGet c.pwr.point 0 r) (t.chip.wantPoint r)) ∧
       (x.st ≠ .disabled → t.chip.pwr = c.pwr ∧ t.chip.blk k = { x with
           draining := false, st := (t.chip.blk k).st, seen := if x.draining then c.clk.smp + 1 else x.seen } ∧
         (∀ tp, x.st = .empty → x.draining = true → x.bus = true → x.content = some tp → (t.chip.blk k).st = .running ∧
           ∀ i, i < c.slotCount → (t.chip.slot (40 * k + i)).role = .bus ∧ (t.chip.slot (40 * k + i)).first = c.clk.smp + 1) ∧
         (x.st ≠ .empty ∨ x.draining = false ∨ x.bus = false ∨ x.content = none → (t.chip.blk k).st = x.st))) ∧
     (∃ t, exec (.blockDisable r b) s = .next t ∧ s.SameStore t ∧ t.chip.is (BLK_CTL_EN r b) = false ∧
       (x.st = .disabled ∨ x.st = .failed ∨ x.draining = true → OnlyFields s t [BLK_CTL_EN r b]) ∧
       (x.st ≠ .disabled → x.st ≠ .failed → x.draining = false →
         (t.chip.blk k).draining = true ∧
         (∀ e ∈ (t.chip.rgn r).ready ++ (t.chip.rgn r).held, ¬(e.region = r.val ∧ e.block = b.val)) ∧
         (∀ e, e ∈ t.chip.returned ↔ e ∈ c.returned ∨ e ∈ goingBack (c.naming r b)) ∧
         (∀ w, w ∈ t.chip.ez.evicts ↔ w ∈ c.ez.evicts ∧ ¬(w.entry.region = r.val ∧ w.entry.block = b.val)) ∧
         (∀ q, q ∈ (t.chip.rgn r).loads ↔ q ∈ (c.rgn r).loads ∧ (q.block ≠ b.val ∨ q.running = true)) ∧
         (x.bus = true → tabGet c.cnv.fades none k = none →
           tabGet t.chip.cnv.fades none k = some { heldKind := false, start := c.clk.smp + 1, disable := true }) ∧
         (x.bus = false → ∀ (key : Nat) (v : Voice), (key, v) ∈ c.voicesIn → key / 40 = k → v.st = .gated ∨ v.st = .release →
           key ∈ (c.slot key).mates → (∀ p ∈ c.voicesIn, key ∈ (c.slot p.1).mates → p = (key, v)) →
           (t.chip.slot key).glaze = some { start := c.clk.smp + 1, n := c.glazeLen v.glz })))) ∧
  (∀ (s : State) (r : Fin 4) (b : Fin 24), s.chip.clocked = true →
     let k := blkKey r b
     let x := s.chip.blk k
     let ended := x.draining = true ∧ (x.st = .empty ∨ x.st = .running ∨ x.st = .gated) ∧
       s.chip.blkEmpty k = true
     (¬ended → exec (.blockDrainEnd r b) s = .next s) ∧
     (ended → ∃ t, exec (.blockDrainEnd r b) s = .next t ∧
       t = { s with chip := { s.chip with blocks := t.chip.blocks, slots := t.chip.slots, parts := t.chip.parts } } ∧
       t.chip.blk k = { x with st := .disabled, content := none, bus := false, draining := false, cache := [], refills := []
                               gateCnt := 0, cells := [] } ∧
       (∀ j, j ≠ k → t.chip.blk j = s.chip.blk j) ∧
       (∀ i, i < 16 → t.chip.slot (40 * k + i) = (s.chip.slot (40 * k + i)).emptied) ∧
       (∀ j, j / 40 ≠ k → t.chip.slot j = s.chip.slot j))) ∧
  (∀ (s : State) (r : Fin 4) (b : Fin 24) (f : BlockFade), s.chip.clocked = true →
     let k := blkKey r b
     tabGet s.chip.cnv.fades none k = some f → f.heldKind = false → f.disable = true → (s.chip.blk k).draining = true →
     (s.chip.clk.smp < f.start + 64 → exec (.blockFadeEnd r b) s = .next s) ∧
     (f.start + 64 ≤ s.chip.clk.smp → ∃ t, exec (.blockFadeEnd r b) s = .next t ∧ (t.chip.blk k).st = .disabled ∧
       (t.chip.blk k).content = none ∧ (∀ j, j ≠ k → t.chip.blk j = s.chip.blk j) ∧ tabGet t.chip.cnv.fades none k = none))

/-- A wake takes the oldest request of the load path and, when it ends, leaves the block empty with its pinned lines refilled
from the bank, with source +1 of the region raised; a load asked for with it follows, unless the block drains. A voice block that has
stood empty for ⌈MS × Fs ÷ 1,000⌉ boundaries is power-gated, unless MS = 0 or KEEP = 1: its cache is lost, its slots
hold nothing but their generations and pending voices, and its template stays named; a load that waits for it wakes it first, and a
note-on placed in it asks for a wake, by the model's own choice (assumption 118). -/
def Obligations.BlockWakesAndGates : Prop :=
  (∀ (s : State) (r : Fin 4) (q : LoadReq) (rest : List LoadReq), s.chip.clocked = true → (s.chip.rgn r).loads = q :: rest →
     q.wake = true →
     let k := blkKey r q.block
     (q.running = false → ∃ t, exec (.blockWake r) s = .next t ∧
       t = { s with chip := { s.chip with
         regs := t.chip.regs, blocks := t.chip.blocks, regions := t.chip.regions, rmem := t.chip.rmem, pwr := t.chip.pwr } } ∧
       (t.chip.rgn r).loads = { q with running := true } :: rest ∧ t.chip.blk k = { s.chip.blk k with st := .waking } ∧
       (∀ j, j ≠ k → t.chip.blk j = s.chip.blk j) ∧ s.chip.BitsKept t.chip [PWR_RGSTAT_DOZING r] ∧
       ((s.chip.rm r).retained = true ∨ r.val ∉ s.chip.pwr.dozing →
         tabGet t.chip.pwr.point 0 r = max (tabGet s.chip.pwr.point 0 r) (t.chip.wantPoint r))) ∧
     (q.running = true → ∃ t, exec (.blockWakeDone r) s = .next t ∧ s.SameStore t ∧
       t.chip.blk k = { s.chip.blk k with
         st := .empty, gateCnt := 0, refills := [], cache := (match (s.chip.blk k).content with
           | some tp => tp.pinned
           | none => []).map fun l => { line := l, words := (List.range 16).map fun i => s.mem.rd (contentAddr r (16 * l + i))
                                        used := 0, pinned := true } } ∧
       (∀ j, j ≠ k → t.chip.blk j = s.chip.blk j) ∧
       (t.chip.rgn r).loads = (if q.load = true ∧ (s.chip.blk k).draining = false then
         { q with wake := false, running := false } :: rest else rest) ∧
       t.chip.isPending (113 + 4 * r) = true ∧ s.chip.BitsKept t.chip (evBit (113 + 4 * r) :: s.readBits r))) ∧
  (∀ (s : State) (r : Fin 4) (b : Fin 24), s.chip.clocked = true →
     let k := blkKey r b
     let x := s.chip.blk k
     let ms := s.chip.fld (RGNn_PGDLY_MS r)
     let gates := x.st = .empty ∧ x.bus = false ∧ ms ≠ 0 ∧ s.chip.is (BLK_CTL_KEEP r b) = false ∧
       (ms * s.chip.fs + 999) / 1000 ≤ x.gateCnt
     let loads := (s.chip.rgn r).loads
     ∃ t, exec (.blockPowerGate r b) s = .next t ∧
       t = { s with chip := { s.chip with
         blocks := t.chip.blocks, slots := t.chip.slots, regions := t.chip.regions, ctr := s.chip.ctr + 1 } } ∧
       (∀ j, j ≠ k → t.chip.blk j = s.chip.blk j) ∧ (∀ q, q ≠ r.val → t.chip.rgn q = s.chip.rgn q) ∧
       (¬gates → t.chip.blocks = s.chip.blocks ∧ t.chip.slots = s.chip.slots ∧ t.chip.regions = s.chip.regions) ∧
       (gates → t.chip.blk k = { x with st := .gated, cache := [], refills := [] } ∧
         t.chip.rgn r = { s.chip.rgn r with loads :=
           if ∃ q ∈ loads, q.block = b.val then loads.map fun q => if q.block = b.val then { q with wake := true } else q
           else if ∃ i, i < 16 ∧ (s.chip.slot (40 * k + i)).pend ≠ none then
             loads ++ [{ block := b, wake := true, load := false, tmpl := x.tmplCode, bus := false }]
           else loads } ∧
         (∀ j, ¬(40 * k ≤ j ∧ j < 40 * k + s.chip.slotCount) → t.chip.slot j = s.chip.slot j) ∧
         ∀ i, i < s.chip.slotCount → (t.chip.slot (40 * k + i)).role = .free ∧
           (t.chip.slot (40 * k + i)).gen = (s.chip.slot (40 * k + i)).gen ∧
           (t.chip.slot (40 * k + i)).pend = (s.chip.slot (40 * k + i)).pend))

/-- A requested cache line arrives with the words that the bank holds, to serve reads from the next sample on: it takes a
free way of its set of four, or the place of the set's least recently used line that is not pinned. Access to a block's cell
memories: MEM = 3, a program address above 511, a program memory of a block that runs, and PROT refuse it, set BLK_MACC.ERR
and give the host WHY 4. Any other read gives the host the word, and any other write stores it; ADDR then advances where INC
= 1. -/
def Obligations.CacheAndCellMemories : Prop :=
  (∀ (s : State) (r : Fin 4) (b : Fin 24) (line : BitVec 16), s.chip.clocked = true →
     let k := blkKey r b
     let x := s.chip.blk k
     let n := line.toNat
     let set := x.cache.filter fun l => decide (l.line % 128 = n % 128)
     ∃ t, exec (.cacheRefillDone r b line) s = .next t ∧
       t = { s with chip := { s.chip with regs := t.chip.regs, blocks := t.chip.blocks, ctr := s.chip.ctr + 1 } } ∧
       s.chip.BitsKept t.chip (s.readBits r) ∧ (∀ j, j ≠ k → t.chip.blk j = s.chip.blk j) ∧
       (n ∉ x.refills → t.chip.blocks = s.chip.blocks ∧ t.chip.regs = s.chip.regs) ∧
       (n ∈ x.refills → ∃ new : CacheLine, new.line = n ∧ new.pinned = false ∧ new.ready = s.chip.clk.smp + 1 ∧
         new.words = ((List.range 16).map fun i => s.mem.rd (contentAddr r (16 * n + i))) ∧
         t.chip.blk k = { x with cache := (t.chip.blk k).cache, refills := x.refills.filter fun l => decide (l ≠ n) } ∧
         ((∃ l ∈ x.cache, l.line = n) → (t.chip.blk k).cache = x.cache) ∧
         ((∀ l ∈ x.cache, l.line ≠ n) → set.length < 4 → (t.chip.blk k).cache = x.cache ++ [new]) ∧
         ((∀ l ∈ x.cache, l.line ≠ n) → 4 ≤ set.length → (∃ l ∈ set, l.pinned = false) →
           ∃ v ∈ set, v.pinned = false ∧ (∀ o ∈ set, o.pinned = false → v.used ≤ o.used) ∧
             (t.chip.blk k).cache = (x.cache.filter fun l => decide (l.line ≠ v.line)) ++ [new]))) ∧
  (∀ (s : State) (r : Fin 4) (b : Fin 24) (v : Word), s.chip.clocked = true →
     let k := blkKey r b
     let c := s.chip
     let m := c.fld (BLK_MACC_MEM r b)
     let a := c.fld (BLK_MACC_ADDR r b)
     let cell := c.fld (BLK_MACC_CELL r b)
     let key := 40 * k + a / (64 * 2 ^ c.mode)
     let off := a % (64 * 2 ^ c.mode)
     let refused := m = 3 ∨ (m = 2 ∧ 511 < a) ∨ (m = 2 ∧ (c.blk k).st ≠ .empty ∧ (c.blk k).st ≠ .gated) ∨ c.saf.prot = true
     let stepped (t : State) : Prop := t.chip.fld (BLK_MACC_ADDR r b) =
       if c.is (BLK_MACC_INC r b) then (a + 1) % 2 ^ (BLK_MACC_ADDR r b).width else a
     let bad (t : State) (words : List Word) : Prop := HostErrs c t.chip 4 ∧ t.chip.is (BLK_MACC_ERR r b) = true ∧
       (c.saf.prot = true → t.chip.isPending 108 = true) ∧
       t = { s with chip := { c with regs := t.chip.regs, host := { c.host with err := true, words := words } } } ∧
       c.BitsKept t.chip (BLK_MACC_ERR r b :: evBit 108 :: hostErrBits)
     (∃ t, exec (.mdatRead r b) s = .next t ∧ (refused → bad t [0]) ∧
       (¬refused → stepped t ∧ c.BitsKept t.chip [BLK_MACC_ADDR r b] ∧
         t = { s with chip := { c with regs := t.chip.regs, host := { c.host with words := t.chip.host.words } } } ∧
         t.chip.host.words = [if m = 2 then tabGet (if cell = 0 then (c.blk k).pm0 else (c.blk k).pm1) 0 a
           else (tabGet ((c.slot key).part_ cell (decide (m = 1))) 0 off).signExtend 32])) ∧
     (∃ t, exec (.mdatWrite r b v) s = .next t ∧ (refused → bad t c.host.words) ∧
       (¬refused → stepped t ∧ c.BitsKept t.chip [BLK_MACC_ADDR r b] ∧
         t = { s with chip := { c with regs := t.chip.regs, blocks := t.chip.blocks, slots := t.chip.slots } } ∧
         (m = 2 → t.chip.slots = c.slots ∧ (∀ j, j ≠ k → t.chip.blk j = c.blk j) ∧
           (cell = 0 → t.chip.blk k = { c.blk k with pm0 := tabSet (c.blk k).pm0 0 a v }) ∧
           (cell ≠ 0 → t.chip.blk k = { c.blk k with pm1 := tabSet (c.blk k).pm1 0 a v })) ∧
         (m ≠ 2 → t.chip.blocks = c.blocks ∧ (∀ j, j ≠ key → t.chip.slot j = c.slot j) ∧
           t.chip.slot key = (c.slot key).setPart cell (decide (m = 1))
             (tabSet ((c.slot key).part_ cell (decide (m = 1))) 0 off (v.setWidth 24))))))

/-! ### The easel: host frames, service and the operations of frames (R261 to R274, R276 to R284, R311, R316, R319, R655) -/

/-- A host frame or channel voice packet is accepted when its lane has room for the whole of it, and waits at the lane's end
with TB[31:0] of its arrival. Otherwise it is rejected whole: the lane's counter and source say so, REJ is set, no queue
changes, and every later frame of the same write is rejected with it. -/
def Obligations.HostFrameAccepted : Prop :=
  ∀ (s : State) (lane : Fin 3) (ump later : Bool) (words : List Word), s.chip.clocked = true →
    words.length = (if ump then umpLen (words.getD 0 0) else frameLen lane words) →
    (ump = true → umpVoice (words.getD 0 0) = true) →
    let z := s.chip.ez
    let room := (lane = 0 → z.laneA.length < 128) ∧ (lane = 1 → z.laneB.length < 256) ∧
      (lane = 2 → words.length + (z.laneC.map fun e => e.words.length).sum ≤ 1024)
    let cnt : Field := if lane = 0 then EZ_CNT0_REJ_A else if lane = 1 then EZ_CNT0_REJ_B else EZ_CNT1_REJ_C
    ∃ t, exec (.hostFrameAccept lane ump later words) s = .next t ∧
      (room → ¬(later = true ∧ s.chip.host.rejecting = true) →
        (∃ e : LaneEntry, e.words = words ∧ e.ump = ump ∧ e.tb = s.chip.tbLow ∧ e.stamp = z.stamp ∧
          e.posted = s.chip.host.posted ∧ t.chip.ez.lane lane = z.lane lane ++ [e]) ∧
        (∀ l, l < 3 → l ≠ lane.val → t.chip.ez.lane l = z.lane l) ∧
        t = { s with chip := { s.chip with ez := t.chip.ez, host := { s.chip.host with rejecting := false } } }) ∧
      (¬room ∨ (later = true ∧ s.chip.host.rejecting = true) →
        t.chip.fld cnt = min (s.chip.fld cnt + 1) (2 ^ cnt.width - 1) ∧ t.chip.isPending (16 + lane) = true ∧
        t = { s with chip := { s.chip with
          regs := t.chip.regs, host := { s.chip.host with rej := true, rejecting := true } } } ∧
        s.chip.BitsKept t.chip [cnt, evBit (16 + lane)])

/-- In each service slot the easel takes, of the events that wait, the most urgent class and in it the oldest arrival, with the
splitter's events of the packets that have arrived among them; an entry that came back goes ahead of them. While it is held it
takes nothing. The easel writes a held entry once its region's list has room, and not before. An entry of kinds 3 to 5 that came
back is written again. An evicted block that has emptied takes the load of the template its note-on was served with, once its region's
load path holds none for it, and the note-on is pending in its slot 0, its entry last of the region's. -/
def Obligations.EaselServesAndEntriesMove : Prop :=
  (∀ s : State, s.chip.clocked = true → ∃ t, exec .easelService s = .next t ∧ t.chip.ctr = s.chip.ctr + 1 ∧
     (s.chip.easelHeld = true → t = { s with chip := { s.chip with ctr := s.chip.ctr + 1 } }) ∧
     (s.chip.easelHeld = false → s.chip.returned ≠ [] →
       t = { s with chip := { s.chip.entryReturn with ctr := s.chip.ctr + 1 } }) ∧
     (s.chip.easelHeld = false → s.chip.returned = [] → let c := s.chip.splitAll
       (c.waiting = [] → t = { s with chip := { c with ctr := s.chip.ctr + 1 } }) ∧
       (c.waiting ≠ [] → (∀ v ∈ c.waiting, v.stamp < 2 ^ 64) → ∃ w ∈ c.waiting,
         (∀ v ∈ c.waiting, c.waitClass w < c.waitClass v ∨ (c.waitClass w = c.waitClass v ∧ w.stamp ≤ v.stamp)) ∧
         t = { s with chip := { c.serve w with ctr := s.chip.ctr + 1 } }))) ∧
  ((∀ (s : State) (r : Fin 4) (e : Entry) (rest : List Entry), s.chip.clocked = true → (s.chip.rgn r).held = e :: rest →
     e.region = r.val →
     (64 ≤ (s.chip.rgn r).ready.length → exec (.readyListWrite r) s = .next s) ∧
     ((s.chip.rgn r).ready.length < 64 → ∃ t, exec (.readyListWrite r) s = .next t ∧
       (t.chip.rgn r).ready = (s.chip.rgn r).ready ++ [e] ∧ (t.chip.rgn r).held = rest ∧
       t.chip.fld (RGNn_RDY_OCC r) = (s.chip.rgn r).ready.length + 1 ∧ t.chip.slots = s.chip.slots ∧
       ∀ q, q ≠ r.val → t.chip.rgn q = s.chip.rgn q)) ∧
   (∀ (s : State) (e : Entry) (rest : List Entry), s.chip.clocked = true → s.chip.easelHeld = false →
     s.chip.returned = e :: rest →
     (3 ≤ e.kind → ∃ t, exec .entryReturn s = .next t ∧ t.chip.returned = rest ∧ t.chip.slots = s.chip.slots ∧
       e ∈ t.chip.queued e.region ∧ ∀ r, r ≠ e.region → t.chip.queued r = s.chip.queued r) ∧
     (e.kind ≤ 2 → s.chip.partExists e.part = false →
       exec .entryReturn s = .next { s with chip := { s.chip with returned := rest } }) ∧
     (∀ (tm : Template) (base : Nat), e.kind ≤ 2 → s.chip.partExists e.part = true →
       let c : Chip := { s.chip with returned := rest }
       c.pal.tmpl (c.fld (PAL_PCFG_TEMPLATE e.part)) = some tm → c.maskOf e.part ≠ 0 → c.fld (PAL_PCFG_VLIMIT e.part) = 0 →
       c.affinitySlot e.part e.key tm = some base → ∃ t, exec .entryReturn s = .next t ∧
         (∃ v, (t.chip.slot base).pend = some v ∧ v.part = e.part ∧ v.key = e.key ∧ v.st = .pending) ∧
         ∃ f, t.chip.Waits 0 base (s.chip.slot base).gen f ∧ f.seq = e.seq ∧ f.key = e.key ∧ f.value = e.value ∧ f.aux = e.aux)) ∧
   (∀ (s : State) (r : Fin 4) (b : Fin 24) (w : EvictWait), s.chip.clocked = true →
     let k := blkKey r b
     (s.chip.ez.evicts.find? fun w => decide (w.entry.region = r.val) && decide (w.entry.block = b.val)) = some w →
     let free := s.chip.blkEmpty k = true ∧ (s.chip.blk k).evicting = true ∧
       (∀ i, i < 16 → (s.chip.slot (40 * k + i)).pend = none) ∧ ∀ q ∈ (s.chip.rgn r).loads, q.block ≠ b.val
     (¬free → exec (.evictLoad r b) s = .next s) ∧
     (free → ∃ t, exec (.evictLoad r b) s = .next t ∧
       (t.chip.rgn r).loads = (s.chip.rgn r).loads ++ [{ block := b, wake := decide ((s.chip.blk k).st = .gated), load := true
                                                         tmpl := w.voice.tmpl, bus := false }] ∧
       (t.chip.blk k).evicting = false ∧
       (∀ x, x ∈ t.chip.ez.evicts ↔ x ∈ s.chip.ez.evicts ∧ ¬(x.entry.region = r.val ∧ x.entry.block = b.val)) ∧
       (t.chip.slot (40 * k)).pend = some w.voice ∧ t.chip.queued r = s.chip.queued r ++ [w.entry])))

/-- An event changes nothing outside the easel, its parts, voices, blocks and regions, the registers and the host port. -/
def Obligations.EventFrame : Prop :=
  ∀ (i : Instr) (s : State), isEvent i = true → ∃ t, exec i s = .next t ∧ t = { s with chip := eventFrame s.chip t.chip }

/-- Entries that came back are served first. A note-on that finds its affinity slot, or else the best usable block's lowest
free group, is placed there: its voice is pending with the group's generation, its entry carries velocity and pitch and waits
for its scan, and VX_LAST names tag and handle. One whose part has no template or no region is dropped: PAL_CNT.DROP, source
26, and a handle of 0. A note-off that no pedal holds goes to the oldest pending or gated voice of its part and key as an
entry of kind 3 with its velocity; with none it does nothing. While the part's pedal is down it is kept, the last velocity
for each key. -/
def Obligations.NotesServed : Prop :=
  (∀ (s : State) (w0 w2 : Word), FrameTaken s.chip 2 w0 [0, w2] →
     let c := s.chip.serveReturned
     let p := framePart w0
     let key := frameKey w0
     let tmpl := c.pal.tmpl (c.fld (PAL_PCFG_TEMPLATE p))
     let limit := c.fld (PAL_PCFG_VLIMIT p)
     ∃ t, exec (.noteOn w0 0 w2) s = .next t ∧
       (tmpl = none ∨ c.maskOf p = 0 → t.chip.fld PAL_CNT_DROP = min (c.fld PAL_CNT_DROP + 1) (2 ^ PAL_CNT_DROP.width - 1) ∧
         t.chip.isPending 26 = true ∧ t.chip.fld VX_LAST_TAG = (frameTag w0).toNat ∧ t.chip.fld VX_LAST_HANDLE = 0 ∧
         t = { s with chip := { c with regs := t.chip.regs, ez := { c.ez with stamp := c.ez.stamp + 1 } } } ∧
         c.BitsKept t.chip [PAL_CNT_DROP, evBit 26, VX_LAST_TAG, VX_LAST_HANDLE]) ∧
       (∀ (tm : Template) (base : Nat), tmpl = some tm → c.maskOf p ≠ 0 →
         limit = 0 ∨ 1536 < limit ∨ c.voiceCount p < limit →
         (c.affinitySlot p key tm = some base ∨ (c.affinitySlot p key tm = none ∧
           ∃ k, c.best p ((List.range 96).filter fun k => c.usable p tm k && !(c.freeGroups k tm.link).isEmpty) = some k ∧
             base = (c.freeGroups k tm.link).headD 0)) →
         t.chip.fld VX_LAST_TAG = (frameTag w0).toNat ∧ t.chip.fld VX_LAST_HANDLE = handleOf base (c.slot base).gen ∧
         (∃ v, (t.chip.slot base).pend = some v ∧ v.part = p ∧ v.key = key ∧ v.st = .pending ∧ v.link = tm.link ∧
           v.gen = (c.slot base).gen) ∧
         ∃ e, t.chip.Waits 0 base (c.slot base).gen e ∧ e.key = key ∧ e.tag = frameTag w0 ∧ e.aux = w2.extractLsb' 16 16 ∧
           e.value = BitVec.ofNat 32 (key * 65536) + (w2.extractLsb' 0 16).signExtend 32 <<< 7)) ∧
  (∀ (s : State) (w0 w2 : Word), FrameTaken s.chip 1 w0 [0, w2] →
     let c := s.chip.serveReturned
     let p := framePart w0
     let key := frameKey w0
     let vel := w2.extractLsb' 16 16
     let l := c.targets p fun v => decide (v.key = key) && decide (v.st = .pending ∨ v.st = .gated)
     ∃ t, exec (.noteOff w0 0 w2) s = .next t ∧
       ((c.part p).pedal = true → t.chip.regions = c.regions ∧ t.chip.regs = c.regs ∧ (key, vel.toNat) ∈ (t.chip.part p).heldOff ∧
         (∀ h ∈ (t.chip.part p).heldOff, h.1 = key → h.2 = vel.toNat) ∧
         (∀ h, h.1 ≠ key → (h ∈ (t.chip.part p).heldOff ↔ h ∈ (c.part p).heldOff))) ∧
       ((c.part p).pedal = false → l = [] →
         t = { s with chip := { c with ez := { c.ez with stamp := c.ez.stamp + 1 } } }) ∧
       ((c.part p).pedal = false → l ≠ [] → ∃ x ∈ l, (∀ y ∈ l, x.2.ord ≤ y.2.ord) ∧
         ∃ e, t.chip.Waits 3 x.1 x.2.gen e ∧ e.aux = vel ∧ e.arrival = c.ez.stamp + 1 ∧ t.chip.slots = c.slots))

/-- Entries that came back are served first. NOTE_CTL reaches every voice of the part on the key that is not detached,
ALL_OFF every pending or gated voice of the part and ALL_SOUND_OFF every sounding one, each as an entry for that voice;
VOICE_WORD reaches the voice its handle names, a pending one too, and a stale handle counts in STALE. NOP does nothing.
PART_WORD goes to the palette unit, BULK writes the words of parameter memory from its index up, SUSTAIN moves the part's
pedal, and CANCEL removes the waiting events and entries of its part and tag, counting hits and misses. -/
def Obligations.VoiceAndParameterEvents : Prop :=
  (∀ (s : State) (w0 w1 w2 : Word),
     let c := s.chip.serveReturned
     let p := framePart w0
     let word := fieldOf w2 24 8
     let ctl : Word := (w2.setWidth 24).signExtend 32
     (FrameTaken s.chip 3 w0 [0, w2] → ∃ t, exec (.noteCtl w0 0 w2) s = .next t ∧ t.chip.slots = c.slots ∧
       ∀ x ∈ c.targets p fun v => decide (v.key = frameKey w0) && !v.detached && decide (v.st ≠ .glazing),
         ∃ e, t.chip.Waits 4 x.1 x.2.gen e ∧ e.word = word ∧
           e.value = if word = 0 then BitVec.ofNat 32 (frameKey w0 * 65536) + ctl else ctl) ∧
     (FrameTaken s.chip 8 w0 [0, 0] → ∃ t, exec (.allOff w0 0 0) s = .next t ∧ t.chip.slots = c.slots ∧
       (t.chip.part p).heldOff = [] ∧
       ∀ x ∈ c.targets p fun v => decide (v.st = .pending ∨ v.st = .gated), ∃ e, t.chip.Waits 3 x.1 x.2.gen e ∧ e.aux = 0) ∧
     (FrameTaken s.chip 9 w0 [0, 0] → ∃ t, exec (.allSoundOff w0 0 0) s = .next t ∧
       ∀ x ∈ c.targets p fun v => decide (v.st ≠ .glazing), x.2.st ≠ .pending →
         ∃ e, t.chip.Waits 6 x.1 x.2.gen e ∧ e.aux = BitVec.ofNat 16 x.2.glz) ∧
     (FrameTaken s.chip 5 w0 [w1, w2] → ∃ t, exec (.voiceWord w0 w1 w2) s = .next t ∧ t.chip.slots = c.slots ∧
       let h := (w2.extractLsb' 16 16).toNat
       let x := c.slot (handleKey h)
       (∀ v, x.voice = some v → x.gen = v.gen → v.gen.toNat = h / 2048 → h / 16 % 32 < 24 →
         ∃ e, t.chip.Waits 5 (handleKey h) v.gen e ∧ e.word = fieldOf w2 10 6 ∧ e.value = w1) ∧
       (∀ v, x.pend = some v → v.gen.toNat = h / 2048 → h / 16 % 32 < 24 →
         ∃ e g, t.chip.Waits 5 (handleKey h) g e ∧ g.toNat = h / 2048 ∧ e.word = fieldOf w2 10 6 ∧ e.value = w1) ∧
       (24 ≤ h / 16 % 32 ∨ (∀ v, x.voice = some v → ¬(x.gen = v.gen ∧ v.gen.toNat = h / 2048)) ∧
           (∀ v, (handleKey h, v) ∈ c.pendsIn → v.gen.toNat ≠ h / 2048) →
         t.chip.fld EZ_CNT2_STALE = min (c.fld EZ_CNT2_STALE + 1) (2 ^ EZ_CNT2_STALE.width - 1) ∧
         t.chip.regions = c.regions ∧ c.BitsKept t.chip [EZ_CNT2_STALE]))) ∧
  (∀ (s : State) (w0 w2 : Word),
     let c := s.chip.serveReturned
     let p := framePart w0
     let tag := frameTag w0
     (FrameTaken s.chip 0 w0 [0, 0] → exec (.frameNop w0 0 0) s =
       .next { s with chip := { c with ez := { c.ez with stamp := c.ez.stamp + 1 } } }) ∧
     (FrameTaken s.chip 4 w0 [0, w2] → exec (.partWord w0 0 w2) s = .next { s with chip := { c with
       ez := { c.ez with stamp := c.ez.stamp + 1, palQ := c.ez.palQ ++ [{ page := p, word := frameKey w0, value := w2 }] } } }) ∧
     (∀ data, FrameTaken s.chip 6 w0 (0 :: w2 :: data) → data.length = fieldOf w2 24 8 + 1 →
       ∃ t, exec (.bulk w0 0 w2 data) s = .next t ∧ t.chip.regs = c.regs ∧
         (∀ i, i < data.length → t.chip.paramRead (fieldOf w2 0 24 + i) =
           (c.paramWrite (fieldOf w2 0 24 + i) (data.getD i 0)).paramRead (fieldOf w2 0 24 + i)) ∧
         (∀ i, i < fieldOf w2 0 24 ∨ fieldOf w2 0 24 + data.length ≤ i → t.chip.paramRead i = c.paramRead i)) ∧
     (FrameTaken s.chip 10 w0 [0, w2] → ∃ t, exec (.sustain w0 0 w2) s = .next t ∧ (t.chip.part p).pedal = w2.getLsbD 0 ∧
       (w2.getLsbD 0 = true → (t.chip.part p).heldOff = (c.part p).heldOff ∧ t.chip.regions = c.regions) ∧
       (w2.getLsbD 0 = false → (t.chip.part p).heldOff = [])) ∧
     (FrameTaken s.chip 7 w0 [0, 0] → ∃ t, exec (.cancel w0 0 0) s = .next t ∧
       (tag = 0 → t = { s with chip := { c with ez := { c.ez with stamp := c.ez.stamp + 1 } } }) ∧
       (tag ≠ 0 → (∀ e, e ∈ t.chip.ez.store ↔ e ∈ c.ez.store ∧ ¬(e.part = p ∧ e.tag = tag)) ∧
         (∀ r, r < 4 → ∀ e, e ∈ t.chip.queued r ↔ e ∈ c.queued r ∧ ¬(e.part = p ∧ e.tag = tag)) ∧
         (∀ e, e ∈ t.chip.returned ↔ e ∈ c.returned ∧ ¬(e.part = p ∧ e.tag = tag)) ∧
         (∀ w, w ∈ t.chip.ez.evicts ↔ w ∈ c.ez.evicts ∧ ¬(w.entry.part = p ∧ w.entry.tag = tag)) ∧
         t.chip.fld EZ_CANCELLED_HIT = min (2 ^ EZ_CANCELLED_HIT.width - 1) (c.fld EZ_CANCELLED_HIT +
           (c.ez.store.filter fun e => decide (e.part = p ∧ e.tag = tag)).length +
           (((c.ez.evicts.map fun w => w.entry) ++ c.returned ++ c.queued 0 ++ c.queued 1 ++ c.queued 2 ++ c.queued 3).filter
             fun e => decide (e.part = p ∧ e.tag = tag)).length) ∧
         t.chip.ez.chosen = c.ez.chosen ∧
         t.chip.fld EZ_CANCELLED_MISS = min (2 ^ EZ_CANCELLED_MISS.width - 1)
           (c.fld EZ_CANCELLED_MISS + (c.ez.chosen.filter fun x => decide (x = (p, tag))).length) ∧
         (p ≠ 0 → (p, tag) ∈ c.ez.chosen → t.chip.isPending 30 = true))))

/-- Entries that came back are served first. A frame that the conditions of R264 turn away is discarded: the count, its
source and reason, and source 22 say so, and no queue or page changes. A timed event more than two samples ahead goes to the
timed store while the store has room, and one less than two samples ahead counts as late. An untimed event goes to allocation
behind the stored event of its part that is due before it. The store gives up the event due first, by due sample and then by
arrival, once it is due in two samples. -/
def Obligations.BadAndTimedFrames : Prop :=
  (∀ (s : State) (op why : Nat) (w0 w1 w2 : Word) (i : Instr), s.chip.clocked = true → s.chip.easelHeld = false →
     (op, i) ∈ [(0, .frameNop w0 w1 w2), (1, .noteOff w0 w1 w2), (2, .noteOn w0 w1 w2), (3, .noteCtl w0 w1 w2),
       (4, .partWord w0 w1 w2), (5, .voiceWord w0 w1 w2), (7, .cancel w0 w1 w2), (8, .allOff w0 w1 w2),
       (9, .allSoundOff w0 w1 w2), (10, .sustain w0 w1 w2)] →
     let c := s.chip.serveReturned
     c.frameReject 0 [frameWord op w0, w1, w2] = some why → why < 16 →
     ∃ t, exec i s = .next t ∧
       t = { s with chip := { c with regs := t.chip.regs, ez := { c.ez with stamp := c.ez.stamp + 1 } } } ∧
       t.chip.fld EZ_CNT2_DISC = min (c.fld EZ_CNT2_DISC + 1) 65535 ∧ t.chip.fld EZ_DISCWHY_SOURCE = 0x10 ∧
       t.chip.fld EZ_DISCWHY_REASON = why ∧ (c.fld EZ_CNT2_DISC ≠ 65535 → t.chip.isPending 22 = true) ∧
       c.BitsKept t.chip [EZ_CNT2_DISC, EZ_DISCWHY_SOURCE, EZ_DISCWHY_REASON, evBit 22]) ∧
  ((∀ (s : State) (w0 ts w2 : Word) (i : Instr) (op : Nat), s.chip.clocked = true → s.chip.easelHeld = false →
     (op, i) ∈ [(1, .noteOff w0 ts w2), (2, .noteOn w0 ts w2), (3, .noteCtl w0 ts w2), (4, .partWord w0 ts w2),
       (8, .allOff w0 ts w2), (9, .allSoundOff w0 ts w2), (10, .sustain w0 ts w2)] →
     let c := s.chip.serveReturned
     w0.getLsbD 25 = true → c.frameReject 0 [frameWord op w0, ts, w2] = none →
     c.ez.store.length < 1024 → 2 < timeDiff ts c.tbLow →
     ∃ t, exec i s = .next t ∧
       t.chip.ez = { c.ez with stamp := c.ez.stamp + 1, store := t.chip.ez.store } ∧
       (∃ e : Ev, t.chip.ez.store = c.ez.store ++ [e] ∧ e.op = op ∧ e.part = framePart w0 ∧ e.ts = ts ∧
         e.tag = frameTag w0 ∧ e.stamp = c.ez.stamp) ∧
       t.chip.fld EZ_STORE_OCC = c.ez.store.length + 1 ∧
       (c.ez.store.length + 1 = c.fld EZ_STHWM_HWM → t.chip.isPending 23 = true) ∧
       (timeDiff ts c.tbLow ≤ 4 → t.chip.isPending 21 = true ∧
         t.chip.fld EZ_CNT1_LATE = min (c.fld EZ_CNT1_LATE + 1) (2 ^ EZ_CNT1_LATE.width - 1)) ∧
       t = { s with chip := { c with regs := t.chip.regs, ez := t.chip.ez } } ∧
       c.BitsKept t.chip [EZ_STORE_OCC, EZ_STORE_PEAK, evBit 21, evBit 23, EZ_CNT1_LATE]) ∧
   (∀ (s : State) (w0 w2 : Word) (i : Instr) (op : Nat) (e : Ev), s.chip.clocked = true → s.chip.easelHeld = false →
     (op, i) ∈ [(1, .noteOff w0 0 w2), (2, .noteOn w0 0 w2), (3, .noteCtl w0 0 w2), (4, .partWord w0 0 w2), (7, .cancel w0 0 w2),
       (8, .allOff w0 0 w2), (9, .allSoundOff w0 0 w2), (10, .sustain w0 0 w2)] →
     let c := s.chip.serveReturned
     w0.getLsbD 25 = false → c.frameReject 0 [frameWord op w0, 0, w2] = none →
     (c.ez.store.filter fun f => decide (f.part = framePart w0) && decide (timeDiff f.ts c.tbLow ≤ 2)) = [e] →
     timeDiff e.ts c.tbLow = 2 → 4 < timeDiff e.ts e.tb → e.stamp < c.ez.stamp →
     let ev := frameEv 0 [frameWord op w0, 0, w2] c.ez.stamp c.tbLow
     let d : Chip := { c with ez := { c.ez with
       stamp := c.ez.stamp + 1, store := c.ez.store.filter fun f => decide (f ≠ e) } }
     exec i s = .next { s with chip := (d.storeStat.applyEv e).applyEv ev }) ∧
   (∀ s : State, s.chip.clocked = true → s.chip.easelHeld = false →
     let c := s.chip.serveReturned
     ((∀ e ∈ c.ez.store, 2 < timeDiff e.ts c.tbLow) → exec .timedStoreRelease s = .next { s with chip := c }) ∧
     (∀ e ∈ c.ez.store, timeDiff e.ts c.tbLow = 2 → 4 < timeDiff e.ts e.tb → c.partExists e.part = true →
       (∀ f ∈ c.ez.store, f ≠ e → timeDiff f.ts c.tbLow < 2 → False) →
       (∀ f ∈ c.ez.store, f ≠ e → f.ts = e.ts → e.stamp < f.stamp) →
       ∃ t, exec .timedStoreRelease s = .next t ∧
         t = { s with chip := ({ c with ez := { c.ez with store := c.ez.store.erase e } }.storeStat).applyEv e })))

/-! ### UMP, MIDI and detectors (R268 to R274, R284 to R288) -/

/-- JR Clock sets its group's anchor and JR Timestamp the time of the group's next packet in its lane, while JR_EN = 1; a
Program Change writes bank and program to word 53 of every part it reaches; a packet of a type the easel does not take is
discarded with reason 2, and one that reaches no part with reason 4. Entries that came back are served before a packet. -/
def Obligations.UmpPacketsTaken : Prop :=
  ∀ s : State, s.chip.clocked = true →
    (∀ (g : BitVec 4) (time : BitVec 16), exec (.jrClock g time) s =
      .next (if s.chip.is EZ_CFG_JR_EN then { s with chip := { s.chip with ez := { s.chip.ez with
        anchors := tabSet s.chip.ez.anchors none g.toNat (some (time.toNat, s.chip.tbLow)) } } } else s)) ∧
    (∀ (lane : Fin 3) (g : BitVec 4) (time : BitVec 16) (a : Nat) (k : Word), s.chip.is EZ_CFG_JR_EN = true →
      tabGet s.chip.ez.anchors none g.toNat = some (a, k) → ∃ t, exec (.jrTimestamp lane g time) s = .next t ∧
        t = { s with chip := { s.chip with ez := { s.chip.ez with jr := t.chip.ez.jr } } } ∧
        (∀ i, i ≠ 16 * lane.val + g.toNat → tabGet t.chip.ez.jr none i = tabGet s.chip.ez.jr none i) ∧
        tabGet t.chip.ez.jr none (16 * lane.val + g.toNat) = some (k +
          BitVec.ofInt 32 ((BitVec.ofInt 16 ((time.toNat : Int) - a)).toInt * s.chip.fs / 31250) +
          BitVec.ofNat 32 (s.chip.fld EZ_CFG_JRDLY)).toNat) ∧
    (∀ (lane : Fin 3) (w : Word), s.chip.easelHeld = false → fieldOf w 28 4 = 4 → fieldOf w 20 4 = 0xC →
      let c := s.chip.serveReturned
      let src := 0x10 + fieldOf w 24 4
      let ch := fieldOf w 16 4
      c.zoneMaster (mpeIdx src) ch = none → tabGet c.ez.jr none (16 * lane.val + fieldOf w 24 4) = none →
      (∀ p ∈ c.reach src ch none, c.partExists p = true) → ∀ w1 : Word, ∃ t,
        exec (.umpPacket lane [w, w1]) s = .next t ∧
        (c.reach src ch none ≠ [] → t.chip.ez.palQ = c.ez.palQ ++ (c.reach src ch none).map fun p =>
          { page := p, word := 53, value := BitVec.ofNat 32 (fieldOf w1 24 7 + 128 *
            (if w.getLsbD 0 then fieldOf w1 8 7 * 128 + fieldOf w1 0 7 else (c.chanOf (mpeIdx src) ch).bank)) }) ∧
        (c.reach src ch none = [] → t.chip.ez.palQ = c.ez.palQ ∧
          t.chip.fld EZ_DISCWHY_SOURCE = 0x10 + lane.val ∧ t.chip.fld EZ_DISCWHY_REASON = 4)) ∧
    (∀ (lane : Fin 3) (w : Word) (rest : List Word), s.chip.easelHeld = false →
      let c := s.chip.serveReturned
      fieldOf w 28 4 ≠ 0 → fieldOf w 28 4 ≠ 2 → fieldOf w 28 4 ≠ 4 → ∃ t, exec (.umpPacket lane (w :: rest)) s = .next t ∧
        t = { s with chip := { c with regs := t.chip.regs } } ∧
        c.BitsKept t.chip [EZ_CNT2_DISC, EZ_DISCWHY_SOURCE, EZ_DISCWHY_REASON, evBit 22] ∧
        t.chip.fld EZ_CNT2_DISC = min (c.fld EZ_CNT2_DISC + 1) 65535 ∧
        t.chip.fld EZ_DISCWHY_SOURCE = 0x10 + lane.val ∧ t.chip.fld EZ_DISCWHY_REASON = 2)

/-- The parser of an enabled MIDI input takes its bytes one by one: a status byte sets running status and begins a message,
data bytes collect until the message is whole, and framing errors, orphan data and undefined bytes count in EZ_MIDIERR and
raise source 19. While the easel is halted the bytes wait, and beyond 256 they are dropped and counted. 300 ms of silence on
an armed port sends ALL_OFF to every part its channel map names and disarms it. A detector's pulse or its release enters the
easel's queue of 32 with the events that EZ_DET has it make, a release none unless OFF = 1; there the oldest gives way and is
counted as discarded with reason 9 under its own channel. A write of EZ_MOTX queues a byte for its output, or is discarded
with OVF while the queue of 64 is full. An enabled output sends a realtime byte of the clock or of the host's queue between
any two bytes, and a whole host message when nothing else is under way; a disabled one sends none. -/
def Obligations.MidiAndDetectors : Prop :=
  (∀ (s : State) (i : Fin 4) (b : Byte) (bad : Bool), s.chip.clocked = true →
     let x := s.chip.midiOf i
     let n := b.toNat
     let counts (t : State) (f : Field) : Prop := t.chip.fld f = min (s.chip.fld f + 1) 255 ∧
       (s.chip.fld f ≠ 255 → t.chip.isPending 19 = true)
     ∃ t, exec (.midiByte i b bad) s = .next t ∧
       (s.chip.is (EZ_MIDICFG_EN i) = false → t = { s with chip := { s.chip with ctr := s.chip.ctr + 1 } }) ∧
       (s.chip.is (EZ_MIDICFG_EN i) = true → s.chip.ez.halted = false → x.rx = [] → x.dropped = false →
         (∀ j : Fin 4, j ≠ i → t.chip.midiOf j = s.chip.midiOf j) ∧
         (bad = true → t.chip.midiOf i = { x with status := 0, data := [], running := 0, sysex := false } ∧
           counts t (EZ_MIDIERR_FRAME i)) ∧
         (bad = false → 0x80 ≤ n → n < 0xF0 →
           t.chip.midiOf i = { x with status := n, running := n, data := [], sysex := false } ∧
           (x.status ≠ 0 → counts t (EZ_MIDIERR_TRUNC i)) ∧ (x.status = 0 → t.chip.regs = s.chip.regs)) ∧
         (bad = false → n < 0x80 → x.sysex = true → t.chip.midiOf i = x ∧ t.chip.regs = s.chip.regs) ∧
         (bad = false → n < 0x80 → x.sysex = false → x.status = 0 → x.running = 0 → t.chip.midiOf i = x ∧
           counts t (EZ_MIDIERR_ORPHAN i)) ∧
         (bad = false → n < 0x80 → x.sysex = false → x.status ≠ 0 → x.data.length + 1 < midiNeed x.status →
           t.chip.midiOf i = { x with data := x.data ++ [n] } ∧ t.chip.ez.msgs = s.chip.ez.msgs) ∧
         (∀ d ch : Nat, bad = false → n < 0x80 → 0 < n → x.sysex = false → x.status = 0x90 + ch → ch < 16 → x.data = [d] →
           s.chip.zoneMaster i ch = none → s.chip.reach i ch (some d) ≠ [] →
           t.chip.midiOf i = { x with status := 0, data := [] } ∧
           ∃ evs : List Ev, t.chip.ez.msgs = s.chip.ez.msgs ++ evs ∧
             evs.map (fun e => (e.part, e.op, e.key)) = (s.chip.reach i ch (some d)).map (fun p => (p, 2, d)) ∧
             ∀ e ∈ evs, e.vel16 = BitVec.ofNat 16 (scale7to16 n) ∧ e.timed = false ∧ e.src = i.val ∧
               e.stamp = s.chip.ez.stamp ∧ e.tb = s.chip.tbLow) ∧
         (bad = false → n = 0xF9 ∨ n = 0xFD → t.chip.midiOf i = x ∧ counts t (EZ_MIDIERR_UNDEF i)) ∧
         (bad = false → n = 0xFE → t.chip.midiOf i = { x with sense := x.sense || s.chip.is (EZ_MIDICFG_ASENSE i) })) ∧
       (s.chip.is (EZ_MIDICFG_EN i) = true → s.chip.ez.halted = true →
         ((x.rx.filter fun e => e.isSome).length < 256 → t.chip.midiOf i = { x with rx := x.rx ++ [some
           { byte := b, bad := bad, stamp := s.chip.ez.stamp, tb := s.chip.tbLow }] }) ∧
         (256 ≤ (x.rx.filter fun e => e.isSome).length → (t.chip.midiOf i).dropped = true ∧ t.chip.isPending 20 = true ∧
           t.chip.fld (dropCnt i) = min (s.chip.fld (dropCnt i) + 1) 255))) ∧
  ((∀ (s : State) (i : Fin 4), s.chip.clocked = true →
     let x := s.chip.midiOf i
     (x.sense = false → exec (.activeSensingTimeout i) s = .next s) ∧
     (x.sense = true → ∃ t, exec (.activeSensingTimeout i) s = .next t ∧ t.chip.midiOf i = { x with sense := false } ∧
       ∃ evs : List Ev, t.chip.ez.msgs = s.chip.ez.msgs ++ evs ∧ (∀ e ∈ evs, e.timed = false) ∧
         evs.map (fun e => (e.op, e.part, e.src)) =
           (((s.chip.pal.chanMap.filter fun e => decide (e.source = i.val)).map fun e => e.part).eraseDups).map
             fun p => (8, p, i.val))) ∧
   (∀ (s : State) (k : Fin 16) (release : Bool) (peak : BitVec 16), s.chip.clocked = true →
     let x := s.chip.aiOf k
     let cy := (aiDelayG x.active x.dec + s.chip.fld (AI_DETCFG_PKWIN k)) * aiFdCycles x.dec
     let back (n : Nat) : Word := s.chip.tbLow - BitVec.ofNat 32 n
     let dly := BitVec.ofNat 32 (s.chip.fld (EZ_DET_DLY k))
     ∃ t, exec (.detectorEvent k release peak) s = .next t ∧
       (s.chip.is (EZ_DET_EN k) = false → t = { s with chip := { s.chip with ctr := s.chip.ctr + 1 } }) ∧
       (s.chip.is (EZ_DET_EN k) = true → ∃ d : DetEv,
         t.chip.ez.dets = (if 32 ≤ s.chip.ez.dets.length then s.chip.ez.dets.drop 1 else s.chip.ez.dets) ++ [d] ∧
         d.chan = k.val ∧ d.cls = s.chip.fld (EZ_DET_CLASS k) ∧ d.stamp = s.chip.ez.stamp ∧
         (release = true → s.chip.fld (EZ_DET_OFF k) ≠ 1 → d.evs = []) ∧
         (release = false ∨ s.chip.fld (EZ_DET_OFF k) = 1 → ∃ (e : Ev) (rest : List Ev), d.evs = e :: rest ∧
           e.op = (if release then 1 else 2) ∧ e.part = s.chip.fld (EZ_DET_PART k) ∧ e.key = s.chip.fld (EZ_DET_KEY k) ∧
           e.timed = s.chip.is (EZ_DET_TIMED k) ∧ (release = false → e.vel16 =
             if s.chip.is (EZ_DET_VELSRC k) then peak else BitVec.ofNat 16 (scale7to16 (s.chip.fld (EZ_DET_VEL k)))) ∧
           rest.map (fun f => (f.op, f.part, f.key, f.timed, f.ts)) =
             (if release = false ∧ (s.chip.fld (EZ_DET_OFF k) = 0 ∨ s.chip.fld (EZ_DET_OFF k) = 3) then
               [(1, e.part, e.key, e.timed, e.ts)] else []) ∧
           (s.chip.is (AI_DETCFG_TSC k) = false → e.ts = s.chip.tbLow + dly) ∧
           (s.chip.is (AI_DETCFG_TSC k) = true → e.ts = back (cy / s.chip.smpCycles) + dly ∨
             (cy % s.chip.smpCycles ≠ 0 ∧ e.ts = back (cy / s.chip.smpCycles + 1) + dly)))) ∧
       (s.chip.is (EZ_DET_EN k) = true →
         (∀ (o : DetEv) (l : List DetEv), s.chip.ez.dets = o :: l → 32 ≤ s.chip.ez.dets.length →
           t.chip.fld EZ_DISCWHY_SOURCE = (0x20 + o.chan) % 256 ∧ t.chip.fld EZ_DISCWHY_REASON = 9 ∧
           t.chip.fld EZ_CNT2_DISC = min (s.chip.fld EZ_CNT2_DISC + 1) 65535 ∧
           (s.chip.fld EZ_CNT2_DISC ≠ 65535 → t.chip.isPending 22 = true))))) ∧
  (∀ (s : State) (o : Fin 2) (b : Byte), s.chip.clocked = true →
     let x := s.chip.moOf o
     let free : Field := if o = 0 then EZ_MOSTAT_FREE0 else EZ_MOSTAT_FREE1
     (64 ≤ x.host.length → ∃ t, exec (.motxWrite o b) s = .next t ∧
       OnlyFields s t [if o = 0 then EZ_MOSTAT_OVF0 else EZ_MOSTAT_OVF1] ∧
       t.chip.is (if o = 0 then EZ_MOSTAT_OVF0 else EZ_MOSTAT_OVF1) = true) ∧
     (x.host.length < 64 → ∃ t, exec (.motxWrite o b) s = .next t ∧
       t = { s with chip := { s.chip with regs := t.chip.regs, ez := { s.chip.ez with outs := t.chip.ez.outs } } } ∧
       t.chip.moOf o = { x with host := x.host ++ [b] } ∧ s.chip.BitsKept t.chip [free] ∧
       t.chip.fld free = 63 - x.host.length) ∧
     (∃ t, exec (.midiOutByte o) s = .next t ∧
       t = { s with chip := { s.chip with regs := t.chip.regs, ez := { s.chip.ez with outs := t.chip.ez.outs }
                                          ctr := s.chip.ctr + 1 } } ∧
       s.chip.BitsKept t.chip [free] ∧ (∀ j : Fin 2, j ≠ o → t.chip.moOf j = s.chip.moOf j) ∧
       (s.chip.is (EZ_MO_EN o) = false → t.chip.moOf o = { x with last := none }) ∧
       (∀ (q : Byte) (rest : List Byte), s.chip.is (EZ_MO_EN o) = true → x.clock = q :: rest → x.thru.find? isRealtime = none →
         (∀ y l, x.host = y :: l → isRealtime y = false ∨ x.cur = 2 ∨ s.chip.is (EZ_MO_GEN o) = false) →
         t.chip.moOf o = { x with clock := rest, last := some q }) ∧
       (∀ (q : Byte) (rest : List Byte), s.chip.is (EZ_MO_EN o) = true → s.chip.is (EZ_MO_GEN o) = true → x.clock = [] →
         x.thru.find? isRealtime = none → x.cur ≠ 2 → x.host = q :: rest → isRealtime q = true →
         t.chip.moOf o = { x with host := rest, last := some q }) ∧
       (∀ (q : Byte) (rest : List Byte) (n : Nat), s.chip.is (EZ_MO_EN o) = true → s.chip.is (EZ_MO_GEN o) = true → x.clock = [] →
         x.thru = [] → x.cur = 0 → x.host = q :: rest → isRealtime q = false → hostMsg x.running x.host = some (n + 1) →
         (t.chip.moOf o).last = some q ∧ (t.chip.moOf o).host = rest ∧ (t.chip.moOf o).left = n)))

/-! ### Inputs and serial ports (R389 to R409, R416 to R432, R565) -/

/-- A synchronising reset, by AI_SYNC on the channels its mask names and by a write of EN from 0 to 1, takes MODE, DEC
and RESP as stored, clears history and detectors, restarts the settling and, of a running channel, sets UNSET; the host queue stays.
AI_DLY is G × 16 × D cycles, the resampler's and the engine's delay, and a part of an output period that is left free, but equal for
channels of one write at one DEC. EN = 0 stops a running
channel at its next output, and marks the words still queued. A write of RESP starts a cross-fade at the next output, or is
latched while one runs; the fade ends after 64 outputs with the standby response active, and a latched one follows unless it
equals it. -/
def Obligations.InputResetsAndResponses : Prop :=
  (∀ (s : State) (mask : BitVec 16) (k : Fin 16), s.chip.clocked = true →
     let c := s.chip
     let dec := c.fld (AI_CFG_DEC k)
     let resp := c.fld (AI_RESP_RESP k)
     let reset (run : Bool) (t : State) : Prop :=
       let y := t.chip.aiOf k
       y.running = run ∧ y.mode = c.fld (AI_CFG_MODE k) ∧ y.dec = dec ∧ y.active = resp ∧ y.settle = aiSettle resp dec ∧
       y.resLeft = 32 ∧ y.mods = [] ∧
       y.fading = false ∧ y.latched = none ∧ y.p = 0 ∧ y.m = 0 ∧ y.r = 0 ∧ y.e = 0 ∧ y.trig = .off ∧
       y.queue = (c.aiOf k).queue ∧ (run = true → t.chip.is (AI_STAT_UNSET k) = true) ∧ t.chip.fld (AI_PEAK_P k) = 0 ∧
       t.chip.fld (AI_RMS_R k) = 0 ∧ t.chip.fld (AI_ENV_E k) = 0 ∧ y.theta < 256 * 2 ^ dec ∧
       t.chip.fld (AI_DLY_CYCLES k) = aiDelayG resp dec * (256 * 2 ^ dec) +
         (if c.aiResamples k dec then 16 * max (256 * 2 ^ dec) c.smpCycles else 0) + 2 * c.smpCycles + y.theta
     let frame (t : State) : Prop := t = { s with chip := { c with regs := t.chip.regs, ai := t.chip.ai, ctr := c.ctr + 1 } }
     (∃ t, exec (.aiSync mask) s = .next t ∧ frame t ∧ (mask.getLsbD k = true → reset (c.aiOf k).running t) ∧
       (mask.getLsbD k = false → t.chip.aiOf k = c.aiOf k) ∧
       (∀ j : Fin 16, mask.getLsbD k = true → mask.getLsbD j = true → c.fld (AI_CFG_DEC j) = dec →
         (t.chip.aiOf j).theta = (t.chip.aiOf k).theta)) ∧
     (∃ t, exec (.aiEnable k) s = .next t ∧ frame t ∧ OnlyAi c t.chip k ∧ t.chip.is (AI_CFG_EN k) = true ∧
       c.BitsKept t.chip (AI_CFG_EN k :: aiBits k) ∧
       (c.is (AI_CFG_EN k) = true ∨ c.pwr.convOff = true ∨ c.pwrState ≠ 0 → t.chip.aiOf k = c.aiOf k) ∧
       (c.is (AI_CFG_EN k) = false → c.pwr.convOff = false → c.pwrState = 0 → reset true t))) ∧
  (∀ (s : State) (k : Fin 16), s.chip.clocked = true →
     let c := s.chip
     let x := c.aiOf k
     let frame (t : State) (l : List Field) : Prop := OnlyAi c t.chip k ∧ c.BitsKept t.chip (l ++ aiBits k) ∧
       t = { s with chip := { c with regs := t.chip.regs, ai := t.chip.ai } }
     (∃ t, exec (.aiDisable k) s = .next t ∧ frame t [AI_CFG_EN k] ∧ t.chip.is (AI_CFG_EN k) = false ∧
       (x.running = true → t.chip.aiOf k = { x with stopPend := true, drain := x.queue.length }) ∧
       (x.running = false → t.chip.aiOf k = x)) ∧
     (∀ resp : BitVec 3, ∃ t, exec (.aiRespWrite k resp) s = .next t ∧ frame t [] ∧
       t.chip.fld (AI_RESP_RESP k) = resp.toNat ∧
       (x.running = false → t.chip.aiOf k = x) ∧
       (x.running = true → 0 < x.fadeJ → t.chip.aiOf k = { x with latched := some resp.toNat } ∧
         t.chip.is (AI_RESP_PEND k) = true ∧ t.chip.fld (AI_RESP_LATCHED k) = resp.toNat) ∧
       (x.running = true → x.fadeJ = 0 → resp.toNat = x.active → t.chip.aiOf k = x) ∧
       (x.running = true → x.fadeJ = 0 → resp.toNat ≠ x.active →
         t.chip.aiOf k = { x with standby := resp.toNat, fading := true })) ∧
     ((x.fading = false ∨ x.fadeJ < 64 → exec (.xfadeEnd k) s = .next s) ∧
      (x.fading = true → 64 ≤ x.fadeJ → ∃ t, exec (.xfadeEnd k) s = .next t ∧ frame t [] ∧
       (t.chip.aiOf k).active = x.standby ∧ (t.chip.aiOf k).fadeJ = 0 ∧ (t.chip.aiOf k).latched = none ∧
       (t.chip.aiOf k).queue = x.queue ∧ t.chip.is (AI_STAT_FADEDONE k) = true ∧
       (c.is (AI_CFG_IE_FADE k) = true → t.chip.isPending (48 + k) = true) ∧
       (∀ r, x.latched = some r → r ≠ x.standby → (t.chip.aiOf k).fading = true ∧ (t.chip.aiOf k).standby = r) ∧
       (x.latched = none ∨ x.latched = some x.standby → (t.chip.aiOf k).fading = false))))

/-- A delivered sample goes to the channel's host queue with its flags, or, when the 64 words are full, counts as dropped and
sets OVR; the engine reads it two samples later, and 0 while the channel is delivered at Fd. AI_DATA gives the oldest word,
LASTQ on the words that a disable left, and EMPTY when there is none. A failed residue check records 0x44 and sets the
recovery going. An output of a running channel is the active response's of its voltage, in Vd ÷ (2√2 V) or Vd ÷ 10.24 V by MODE,
mixed with the standby's in a cross-fade, saturated, in audio mode after the high-pass, within the bound of the model's own
(assumption 20); or the mean of the modulator outputs
since the reset while the sketch serves. Settling and recovery count down with it. An overdriven modulator saturates the
value, on the side of the response's output by the model's own choice (assumption 20); a saturation sets CLIP. A channel that
is stopping stops at it, and reports neither UNSET nor SKACT. -/
def Obligations.InputOutputsAndDelivery : Prop :=
  (∀ (s : State) (k : Fin 16) (y : Q), s.chip.clocked = true →
     let c := s.chip
     let x := c.aiOf k
     let v : Q := if c.aiResamples k x.dec then y else x.lastOut
     (∃ t, exec (.aiDeliver k y) s = .next t ∧ OnlyAi c t.chip k ∧ c.BitsKept t.chip (aiBits k) ∧
       t = { s with chip := { c with regs := t.chip.regs, ai := t.chip.ai } } ∧
       (x.running = false → (t.chip.aiOf k).queue = x.queue) ∧
       (c.is (AI_CFG_ORATE k) = true → (t.chip.aiOf k).engine = 0 ∧ (t.chip.aiOf k).crossing = []) ∧
       (c.is (AI_CFG_ORATE k) = false → ∀ a b, x.crossing = [a, b] → (t.chip.aiOf k).engine = a ∧
         (t.chip.aiOf k).crossing = [b, if c.pwr.convOff = false ∧ x.running = true then v else 0]) ∧
       (x.running = true → c.pwr.convOff = false → x.queue.length < 64 →
         (t.chip.aiOf k).queue = x.queue ++ [x.flags ++ v] ∧ t.chip.fld (AI_STAT_OCC k) = x.queue.length + 1 ∧
         (t.chip.aiOf k).drain = if x.stopPend then x.drain + 1 else x.drain) ∧
       (x.running = true → 64 ≤ x.queue.length → (t.chip.aiOf k).queue = x.queue ∧ t.chip.is (AI_STAT_OVR k) = true ∧
         t.chip.fld (AI_STAT_DROP k) = min (c.fld (AI_STAT_DROP k) + 1) 65535 ∧
         (c.is (AI_CFG_IE_OVR k) = true → t.chip.isPending (48 + k) = true))) ∧
     (∃ t, exec (.aiDataRead k) s = .next t ∧ OnlyAi c t.chip k ∧ c.BitsKept t.chip (aiBits k) ∧
       t = { s with chip := { c with regs := t.chip.regs, ai := t.chip.ai
                                     host := { c.host with words := t.chip.host.words } } } ∧
       (x.queue = [] → t.chip.host.words = [0x80000000] ∧ t.chip.aiOf k = x) ∧
       (∀ w rest, x.queue = w :: rest → t.chip.aiOf k = { x with queue := rest, drain := x.drain - 1 } ∧
         t.chip.host.words = [if 0 < x.drain then w ||| 0x08000000 else w])) ∧
     (∃ t, exec (.decimFault k) s = .next t ∧ OnlyAi c t.chip k ∧ (x.running = false → t = s) ∧
       (x.running = true → t.chip.aiOf k = { x with recover := aiSettle x.active x.dec, resLeft := 32 } ∧
         t.chip.isPending 12 = true ∧
         t.chip.fld CHIP_FAULT_CODE = 0x44 ∧ t.chip.fld CHIP_FAULT_UNIT = k.val ∧ t.chip.is CHIP_FAULT_CONV = true ∧
         t.chip.is CHIP_FAULT_FAULT = true ∧ t = { s with chip := { c with regs := t.chip.regs, ai := t.chip.ai } } ∧
         c.BitsKept t.chip (regField CHIP_FAULT :: evBit 12 :: aiBits k)))) ∧
  (∀ (s : State) (k : Fin 16) (y yNew mods : Word) (ovl : Bool), s.chip.clocked = true →
     let c := s.chip
     let x := c.aiOf k
     let j := if x.fading then min (x.fadeJ + 1) 64 else 0
     let at_ (z : Word) : Int := aiScale x.mode z.toInt
     let val (z : Word) : Int := if ovl then (if z.toInt < 0 then -8388608 else 8388607) else (satQ (at_ z)).toInt
     let raw : Int := if x.fading then val y * (64 - j : Nat) / 64 + val yNew * j / 64 else val y
     let ms := (at_ mods :: x.mods).take (1024 / (16 * 2 ^ x.dec))
     let sk := (0 < x.settle ∧ c.is (AI_CFG_SKETCH k) = true) ∨ 0 < x.recover
     ∃ t, exec (.decimOutput k y yNew mods ovl) s = .next t ∧ OnlyAi c t.chip k ∧
       t = { s with chip := { c with regs := t.chip.regs, ai := t.chip.ai, ez := t.chip.ez, trg := t.chip.trg, ctr := c.ctr + 1 } } ∧
       (x.running = false → t = { s with chip := { c with ctr := c.ctr + 1 } }) ∧
       (x.running = true → x.stopPend = true → (t.chip.aiOf k).running = false ∧ (t.chip.aiOf k).queue = x.queue ∧
         (t.chip.aiOf k).fading = false ∧ t.chip.is (AI_STAT_UNSET k) = false ∧ t.chip.is (AI_STAT_SKACT k) = false) ∧
       (x.running = true → x.stopPend = false → ∃ w : Int, (x.mode ≠ 0 → w = raw) ∧
         (x.mode = 0 → (w - (raw - x.dc / 65536)).natAbs ≤
           ((raw * 65536 - x.dc) * 12566 / (1000 * c.aiFd x.dec : Nat)).natAbs / 65536 + 1) ∧
         let clip := ovl = true ∨ (satQ (at_ y)).toInt ≠ at_ y ∨ (x.fading = true ∧ (satQ (at_ yNew)).toInt ≠ at_ yNew) ∨
           (satQ w).toInt ≠ w
         (t.chip.aiOf k).running = true ∧ (t.chip.aiOf k).fadeJ = j ∧ (t.chip.aiOf k).mods = ms ∧
         (t.chip.aiOf k).settle = x.settle - 1 ∧ (t.chip.aiOf k).recover = x.recover - 1 ∧
         (t.chip.aiOf k).resLeft = (if 0 < x.settle ∨ 0 < x.recover then x.resLeft else x.resLeft - 1) ∧
         (t.chip.aiOf k).lastOut = (if sk then satQ (ms.foldl (· + ·) 0 / (max 1 (ms.length * (16 * 2 ^ x.dec)) : Nat)) else satQ w) ∧
         (t.chip.aiOf k).flags.getLsbD 2 = decide clip ∧ (t.chip.aiOf k).flags.getLsbD 1 = decide sk ∧
         (t.chip.aiOf k).flags.getLsbD 0 =
           decide (0 < x.settle ∨ 0 < x.recover ∨ (0 < x.resLeft ∧ c.aiResamples k x.dec = true)) ∧
         t.chip.is (AI_STAT_UNSET k) = (t.chip.aiOf k).flags.getLsbD 0 ∧
         (t.chip.aiOf k).p = max (min (satQ w).toInt.natAbs 0x7FFFFF) (x.p - x.p / 2 ^ shift1 (c.fld (AI_DETCFG_PKREL k))) ∧
         (clip → t.chip.is (AI_STAT_CLIP k) = true ∧ (c.is (AI_CFG_IE_CLIP k) = true → t.chip.isPending (48 + k) = true))))

/-- A port enables only a configuration that R420 does not refuse: then it runs, a master locked, with the nominal ratio, a
slave output with 8 frames in its queue. A refused one sets CFGREJ and raises 68 + p. EN = 0 starts the fade, and the pins
are released when it and an output's zeros have run. A frame at a running output sends the values of its slots, each word
left-aligned in its slot: those of the last engine sample, or the queue's oldest where the port resamples; an input takes the
words of its slots, left-aligned there, a slave into its queue of 32. A frame at a slave moves its loop: the error is
recorded, 16 in a row within 8 cycles lock it and one beyond 256 loses the lock and leaves the ratio, which stays within
2,000 ppm of nominal and, once the loop has settled on a constant master, within 10⁻⁹ of the master's. Two frame periods with
none end a slave's lock, and that of the port that shares its loop, and the ratio stands until the loop has locked again: an
output's queue drops to 8 frames, an input's refills. An input reports the lock, ratio and error of the loop it shares.
SA_DATA gives the oldest word, with LASTQ where it was in the queue at a disable or came after it, and EMPTY when there is
none. -/
def Obligations.SerialPorts : Prop :=
  (∀ (s : State) (p : Fin 4), s.chip.clocked = true →
     let c := s.chip
     let x := c.saOf p
     let frame (t : State) (l : List Field) : Prop := (∀ q, q ≠ p.val → t.chip.saOf q = c.saOf q) ∧
       c.BitsKept t.chip (l ++ saBits p) ∧ t = { s with chip := { c with regs := t.chip.regs, sa := t.chip.sa } }
     (c.is (SA_CFG_EN p) = true → exec (.saEnable p) s = .next s) ∧
     (c.is (SA_CFG_EN p) = false → c.saConfigOk p = false → ∃ t, exec (.saEnable p) s = .next t ∧
       OnlyFields s t [SA_STAT_CFGREJ p, evBit (68 + p)] ∧ t.chip.is (SA_STAT_CFGREJ p) = true ∧
       t.chip.isPending (68 + p) = true ∧ t.chip.is (SA_CFG_EN p) = false) ∧
     (c.is (SA_CFG_EN p) = false → c.saConfigOk p = true → ∃ t, exec (.saEnable p) s = .next t ∧
       frame t (SA_CFG_EN p :: regField (SA_RATIO p) :: (if p.val < 2 then [SA_STAT_LOCK (p + 2), evBit (66 + p)] else [])) ∧
       t.chip.is (SA_CFG_EN p) = true ∧ (t.chip.saOf p).running = true ∧
       (t.chip.saOf p).host = x.host ∧ (t.chip.saOf p).drain = x.drain ∧ t.chip.is (SA_STAT_LOCK p) = !c.saActsSlave p ∧
       (p.val < 2 → c.saSlave p = false → c.saSharer p = true → t.chip.is (SA_STAT_LOCK (p + 2)) = true) ∧
       (p.val < 2 → c.saSharer p = false → t.chip.is (SA_STAT_LOCK (p + 2)) = c.is (SA_STAT_LOCK (p + 2))) ∧
       (t.chip.saOf p).queue =
         (if p.val < 2 ∧ c.saSlave p = true then List.replicate 8 (List.replicate (c.saSlots p) 0) else []) ∧
       t.chip.reg (SA_RATIO p) = BitVec.ofNat 32 (((c.saRate p).getD 0) * 2 ^ 28 / c.fs)) ∧
     (∃ t, exec (.saDisable p) s = .next t ∧ frame t [SA_CFG_EN p] ∧ t.chip.is (SA_CFG_EN p) = false ∧
       (x.running = true → x.fade = none → t.chip.saOf p = { x with
         fade := some 0, zeros := if p.val < 2 then 2 else 0, drain := x.host.length }) ∧
       (x.running = false ∨ x.fade ≠ none → t.chip.saOf p = x)) ∧
     (∃ t, exec (.saFadeEnd p) s = .next t ∧ frame t [] ∧
       (∀ j, x.fade = some j → j < 64 ∨ 0 < x.zeros → t = s) ∧ (x.fade = none → t = s) ∧
       (∀ j, x.fade = some j → 64 ≤ j → x.zeros = 0 → (t.chip.saOf p).running = false ∧ (t.chip.saOf p).fade = none ∧
         (t.chip.saOf p).queue = [] ∧ (t.chip.saOf p).host = x.host ∧ t.chip.is (SA_STAT_LOCK p) = false))) ∧
  (∀ (s : State) (p : Fin 4) (words : List Word) (err : BitVec 16) (master : Word), s.chip.clocked = true →
     let c := s.chip
     let x := c.saOf p
     let runs := x.running = true ∧ ¬(2 ≤ p.val ∧ c.is (SA_CFG_SHARE p) = true ∧ (c.saOf (p - 2)).running = false)
     let slot (q : Q) : Word := saWord (c.saWl p) q <<< (c.saWidth p - c.saWl p)
     let taken (w : Word) : Q :=
       saValue (c.saWl p) ((w &&& BitVec.ofNat 32 (2 ^ c.saWidth p - 1)) >>> (c.saWidth p - c.saWl p))
     let sharers : List Field :=
       if p.val < 2 then regField (SA_RATIO (p + 2)) :: regField (SA_PHERR (p + 2)) :: SA_STAT_LOCK (p + 2) :: [evBit (66 + p)] else []
     let nom := c.saNominal p
     let pull := nom * 2000 / 1000000
     (∃ t, exec (.saFrame p words ⟨err, master⟩) s = .next t ∧ (∀ q, q ≠ p.val → t.chip.saOf q = c.saOf q) ∧
       t = { s with chip := { c with regs := t.chip.regs, sa := t.chip.sa, ctr := c.ctr + 1 } } ∧
       c.BitsKept t.chip (regField (SA_RATIO p) :: regField (SA_PHERR p) :: sharers ++ saBits p) ∧
       (¬runs → t = { s with chip := { c with ctr := c.ctr + 1 } }) ∧
       (runs → (t.chip.saOf p).running = true ∧ (t.chip.saOf p).framed = true ∧ (t.chip.saOf p).lost = false) ∧
       (runs → p.val < 2 → c.saResamples p = false → x.fade ≠ some 65 → (t.chip.saOf p).sent = x.vals.map slot) ∧
       (runs → p.val < 2 → (t.chip.saOf p).before = x.sent) ∧
       (runs → x.lost = false → p.val < 2 → c.saResamples p = true → (t.chip.saOf p).queue = x.queue.drop 1 ∧
         (x.fade ≠ some 65 → ∀ q l, x.queue = q :: l → (t.chip.saOf p).sent = q.map slot)) ∧
       (runs → x.lost = true → p.val < 2 → c.saResamples p = true →
         (t.chip.saOf p).queue = (x.queue.drop (x.queue.length - 8)).drop 1) ∧
       (runs → x.lost = true → 2 ≤ p.val → (t.chip.saOf p).refill = true ∧ (t.chip.saOf p).rise = 0) ∧
       (runs → p.val < 2 → x.fade = some 65 → (t.chip.saOf p).zeros = x.zeros - 1 ∧
         ∀ w ∈ (t.chip.saOf p).sent, w = 0) ∧
       (runs → 2 ≤ p.val → c.saSlave p = true → (t.chip.saOf p).queue =
         (x.queue ++ [(List.range (c.saSlots p)).map fun j => taken (words.getD j 0)]).drop (x.queue.length + 1 - 32)) ∧
       (runs → 2 ≤ p.val → c.saSlave p = false → (t.chip.saOf p).due =
         x.due ++ [(c.clk.smp + 2, (List.range (c.saSlots p)).map fun j => taken (words.getD j 0))]) ∧
       (runs → c.saSlave p = true → c.saSharer p = true → t.chip.reg (SA_RATIO (p + 2)) = t.chip.reg (SA_RATIO p) ∧
         t.chip.is (SA_STAT_LOCK (p + 2)) = t.chip.is (SA_STAT_LOCK p)) ∧
       (runs → c.saSlave p = true → c.saShared p = false → t.chip.fld (SA_PHERR_ERR p) = err.toNat ∧
         (err.toInt.natAbs ≤ 8 → 15 ≤ x.good → t.chip.is (SA_STAT_LOCK p) = true) ∧
         (256 < err.toInt.natAbs → t.chip.is (SA_STAT_LOCK p) = false) ∧
         let held := (256 < err.toInt.natAbs ∧ c.is (SA_STAT_LOCK p) = true) ∨
           (x.hold = true ∧ (8 < err.toInt.natAbs ∨ x.good < 15))
         (held → t.chip.reg (SA_RATIO p) = c.reg (SA_RATIO p)) ∧
         (¬held →
           let near := nom - pull ≤ master.toNat ∧ master.toNat ≤ nom + pull
           let ratio := (t.chip.reg (SA_RATIO p)).toNat
           (c.saSettle p ≤ (t.chip.saOf p).steady → near →
             (((ratio : Int) - master.toNat).natAbs : Nat) ≤ master.toNat / 1000000000) ∧
           (¬(c.saSettle p ≤ (t.chip.saOf p).steady ∧ near) → nom - pull ≤ ratio ∧ ratio ≤ nom + pull)))) ∧
     (∃ t, exec (.saLoopTimeout p) s = .next t ∧ t = { s with chip := { c with regs := t.chip.regs, sa := t.chip.sa } } ∧
       c.BitsKept t.chip ((List.range 4).flatMap fun q => [regField (SA_STAT q), evBit (64 + q)]) ∧
       ∀ q : Fin 4, let y := c.saOf q
         let loses := (q = p ∨ (p.val < 2 ∧ q.val = p.val + 2 ∧ c.saSharer p = true) ∨ (q.val + 2 = p.val ∧ c.saShared p = true)) ∧
           y.running = true ∧ c.saActsSlave q = true
         (loses → t.chip.saOf q = { y with lost := true, hold := true, good := 0, steady := 0 } ∧
           t.chip.is (SA_STAT_LOCK q) = false ∧ (c.is (SA_STAT_LOCK q) = true → t.chip.isPending (64 + q) = true)) ∧
         (¬loses → t.chip.saOf q = y ∧ t.chip.is (SA_STAT_LOCK q) = c.is (SA_STAT_LOCK q))) ∧
     (∀ q : Fin 2, ∃ t, exec (.saDataRead q) s = .next t ∧
       t = { s with chip := { c with regs := t.chip.regs, sa := t.chip.sa, host := { c.host with words := t.chip.host.words } } } ∧
       ((c.saOf (2 + q)).host = [] → t.chip.host.words = [0x80000000] ∧ t.chip.sa = c.sa) ∧
       (∀ w rest, (c.saOf (2 + q)).host = w :: rest → t.chip.saOf (2 + q) =
           { c.saOf (2 + q) with host := rest, drain := (c.saOf (2 + q)).drain - 1 } ∧
         t.chip.host.words = [if 0 < (c.saOf (2 + q)).drain then w ||| 0x40000000 else w])))

/-! ### Parts (R301, R302, R328) -/

/-- PAL_CMD creates and destroys parts. It is refused, with REJ, the first reason that holds and source 27, when no primer is
loaded, for part 0, for a part that exists or does not, and for a part whose template the palette lacks; a created part has no
affinity and starts its LFOs at their START. A destroy takes its events out of every queue and leaves its voices to no part,
and those voices glaze over 5 ms at the first boundary after it. -/
def Obligations.PartsCreatedAndDestroyed : Prop :=
  ∀ (s : State) (p : BitVec 6), s.chip.clocked = true →
    let c := s.chip
    let x := c.part p.toNat
    let missing := c.pal.tmpl (c.fld (PAL_PCFG_TEMPLATE p.toNat)) = none
    let refused (t : State) (why : Nat) : Prop := t.chip.is PAL_STAT_REJ = true ∧ t.chip.fld PAL_STAT_WHY = why ∧
      t.chip.isPending 27 = true ∧ t = { s with chip := { c with regs := t.chip.regs, ctr := t.chip.ctr } } ∧
      c.BitsKept t.chip [PAL_STAT_REJ, PAL_STAT_WHY, evBit 27]
    let counted (t : State) : Prop := t.chip.fld PAL_STAT_PARTS =
      ((List.range 63).filter fun i => (t.chip.part (i + 1)).exists_).length
    (∃ t, exec (.partCreate p) s = .next t ∧ (c.pal.loaded = false → refused t 5) ∧
      (c.pal.loaded = true → p = 0 → refused t 1) ∧
      (c.pal.loaded = true → p ≠ 0 → x.exists_ = true → refused t 2) ∧
      (c.pal.loaded = true → p ≠ 0 → x.exists_ = false → missing → refused t 4) ∧
      (c.pal.loaded = true → p ≠ 0 → x.exists_ = false → ¬missing → counted t ∧
        t = { s with chip := { c with regs := t.chip.regs, parts := t.chip.parts, ctr := c.ctr + 1 } } ∧
        c.BitsKept t.chip [PAL_STAT_PARTS] ∧ (∀ q, q ≠ p.toNat → t.chip.part q = c.part q) ∧
        t.chip.part p.toNat =
          { x with exists_ := true, lfos := (t.chip.part p.toNat).lfos, aff := [], pedal := false, heldOff := [] } ∧
        ∀ q, q < 4 → (tabGet (t.chip.part p.toNat).lfos {} q).phi =
          BitVec.ofNat 32 (fieldOf (tabGet x.back 0 (56 + q)) 22 2 * 2 ^ 30))) ∧
    (∃ t, exec (.partDestroy p) s = .next t ∧ (c.pal.loaded = false → refused t 5) ∧
      (c.pal.loaded = true → p = 0 → refused t 1) ∧ (c.pal.loaded = true → p ≠ 0 → x.exists_ = false → refused t 3) ∧
      (c.pal.loaded = true → p ≠ 0 → x.exists_ = true → counted t ∧
        t.chip.part p.toNat =
          { x with exists_ := false, aff := [], pedal := false, heldOff := [], destroyAt := some c.clk.smp } ∧
        (∀ q, q ≠ p.toNat → t.chip.part q = c.part q) ∧
        t.chip.ez.store = c.ez.store.filter (fun e => decide (e.part ≠ p.toNat)) ∧
        t.chip.returned = c.returned.filter (fun e => decide (e.part ≠ p.toNat)) ∧
        (∀ r, r < 4 → t.chip.queued r = (c.queued r).filter fun e => decide (e.part ≠ p.toNat)) ∧
        (∀ key v, (t.chip.slot key).voice = some v ∨ (t.chip.slot key).pend = some v → v.part ≠ p.toNat) ∧
        (∀ e, e ∈ c.ez.store → e.part = p.toNat → t.chip.fld EZ_DISCWHY_REASON = 3 ∧
          (c.fld EZ_CNT2_DISC ≠ 65535 → t.chip.isPending 22 = true)))) ∧
    (∃ t, exec (.partDestroyGlaze p) s = .next t ∧ s.SameStore t ∧ t.chip.regs = c.regs ∧
      (x.destroyAt = none → t = s) ∧ (∀ n, x.destroyAt = some n → c.clk.smp ≤ n → t = s) ∧
      (∀ n, x.destroyAt = some n → n < c.clk.smp → t.chip.part p.toNat = { x with destroyAt := none } ∧
        ∀ (key : Nat) (v : Voice), (key, v) ∈ c.voicesIn → v.part = 0 → v.st = .gated ∨ v.st = .release →
          (c.slot key).pend = none → (c.slot key).part = p.toNat → key ∈ (c.slot key).mates →
          (∀ q ∈ c.voicesIn, key ∈ (c.slot q.1).mates → q = (key, v)) →
          (t.chip.slot key).glaze = some { start := c.clk.smp, n := c.glazeLen 50 }))

/-! ### Outputs (R359 to R383, R564) -/

/-- EN, MUTE and the ends of the ramps take an audio channel through the states of R361 and R362, with each fade from the mute
gain in force; LIVE and source 33 follow the Live state. The gain in force moves one step a sample toward ATTEN. A current
limit sets its bit of ILIM and source 32, and the channel runs on. -/
def Obligations.AudioOutputStates : Prop :=
  (∀ (s : State) (k : Fin 16), s.chip.clocked = true →
    let c := s.chip
    let x := c.aoOf k
    let mute := c.is (AO_CTL_MUTE k)
    let runs := c.clk.started = true ∧ c.pwr.convOff = false ∧ c.pwr.waitStart = false ∧ c.pwrState = 0
    let frame (t : State) (l : List Field) : Prop :=
      t = { s with chip := { c with regs := t.chip.regs, ao := t.chip.ao } } ∧
      c.BitsKept t.chip (⟨AO_STAT, k, 1⟩ :: evBit 33 :: l) ∧ (∀ j, j ≠ k.val → t.chip.aoOf j = c.aoOf j) ∧
      ((x.st = .live ↔ (t.chip.aoOf k).st = .live) → c.BitsKept t.chip l) ∧
      (¬(x.st = .live ↔ (t.chip.aoOf k).st = .live) → t.chip.isPending 33 = true ∧
        (t.chip.reg AO_STAT).getLsbD k = decide ((t.chip.aoOf k).st = .live))
    let fade (st : AoSt) : AoChan := { x with st := st, mg0 := aoMuteGain x, j := 0 }
    (∃ t, exec (.aoEnable k) s = .next t ∧ frame t [AO_CTL_EN k] ∧ t.chip.is (AO_CTL_EN k) = true ∧
      (¬runs → x.st = .clamped → t.chip.aoOf k = x) ∧
      (runs → x.st = .clamped → t.chip.aoOf k = { x with st := .rising, legs := 0 }) ∧
      (runs → x.st = .falling → t.chip.aoOf k = { x with st := .rising }) ∧
      (runs → x.st = .fadeOut → mute = false → t.chip.aoOf k = fade .fadeIn) ∧
      (runs → x.st = .rising ∨ x.st = .fadeOut ∧ mute = true ∨ x.st = .muted ∧ mute = true ∨
        (x.st = .fadeIn ∨ x.st = .live) ∧ mute = false → t.chip.aoOf k = x)) ∧
    (∃ t, exec (.aoDisable k) s = .next t ∧ frame t [AO_CTL_EN k] ∧ t.chip.is (AO_CTL_EN k) = false ∧
      (x.st = .rising ∨ x.st = .muted → t.chip.aoOf k = { x with st := .falling }) ∧
      (x.st = .fadeIn ∨ x.st = .live → t.chip.aoOf k = fade .fadeOut) ∧
      (x.st = .clamped ∨ x.st = .fadeOut ∨ x.st = .falling → t.chip.aoOf k = x)) ∧
    (∃ t, exec (.aoMute k) s = .next t ∧ frame t [AO_CTL_MUTE k] ∧ t.chip.is (AO_CTL_MUTE k) = true ∧
      (x.st = .fadeIn ∨ x.st = .live → t.chip.aoOf k = fade .fadeOut) ∧
      (runs → c.is (AO_CTL_EN k) = true → x.st = .rising ∨ x.st = .fadeOut ∨ x.st = .muted → t.chip.aoOf k = x)) ∧
    (∃ t, exec (.aoUnmute k) s = .next t ∧ frame t [AO_CTL_MUTE k] ∧ t.chip.is (AO_CTL_MUTE k) = false ∧
      (runs → c.is (AO_CTL_EN k) = true → x.st = .muted ∨ x.st = .fadeOut → t.chip.aoOf k = fade .fadeIn) ∧
      (runs → c.is (AO_CTL_EN k) = true → x.st = .rising ∨ x.st = .fadeIn ∨ x.st = .live → t.chip.aoOf k = x)) ∧
    (∃ t, exec (.aoRampEnd k) s = .next t ∧ frame t [] ∧
      (x.st = .rising → c.aoFull ≤ x.legs → t.chip.aoOf k =
        if mute then { x with st := .muted } else { x with st := .fadeIn, mg0 := 0, j := 0 }) ∧
      (x.st = .fadeIn → 64 ≤ x.j → t.chip.aoOf k = { x with st := .live }) ∧
      (x.st = .fadeOut → 64 ≤ x.j → t.chip.aoOf k = { x with st := if c.aoOn k then .muted else .falling }) ∧
      (x.st = .falling → x.legs = 0 → t.chip.aoOf k = { x with st := .clamped }) ∧
      (x.st = .rising ∧ x.legs < c.aoFull ∨ (x.st = .fadeIn ∨ x.st = .fadeOut) ∧ x.j < 64 ∨ x.st = .falling ∧ 0 < x.legs →
        t = s)) ∧
    (∃ t, exec (.aoCurrentLimit k) s = .next t ∧ OnlyFields s t [⟨AO_STAT, 16 + k, 1⟩, evBit 32] ∧
      (t.chip.reg AO_STAT).getLsbD (16 + k) = true ∧ t.chip.isPending 32 = true)) ∧
  (∀ (c : Chip) (k : Nat) (v : Q),
    let a := (c.aoOf k).att
    let w := c.fld (AO_CTL_ATTEN k)
    let y := (c.aoSample k v).aoOf k
    (a < w → y.att = a + 1) ∧ (w < a → y.att = a - 1) ∧ (a = w → y.att = a) ∧
      ((c.aoOf k).st ≠ .live → (c.aoOf k).st ≠ .fadeIn → (c.aoOf k).st ≠ .fadeOut → y.out = 0))

/-- The update of a CV channel: its code comes from the source that SRC names, trimmed as R367 says; a driving channel drives
it, after the hold of R371 where the upper byte changes; a clamped one is released once R374 allows; a span change clamps for
200 µs, and a band or VNEG lost since the last update clamps with source 42; the disable ramp runs to the code of 0 V. Source 39
rises when a count of discarded exports or host codes advances. The sine phase advances by INC. -/
def Obligations.CvUpdates : Prop :=
  ∀ (s : State) (k : Fin 32), s.chip.clocked = true →
    let c := s.chip
    let x := c.cvOf k
    let span := c.fld (CV_CFG_SPAN k)
    let src := c.fld (CV_CFG_SRC k)
    let due := ∃ n, x.hostPend = some n ∧ n < c.clk.smp
    let exports := c.cvNow.filter fun e => decide (e.chan = k.val) && c.is (CV_CFG_EN k)
    let ok := spanBand span ≤ c.fld CV_STAT_VINBAND ∧ (spanBipolar span = true → c.is CV_STAT_VNEG_OK = true) ∧
      c.pwr.convOff = false ∧ x.lost = false
    let on := c.is (CV_CFG_EN k) = true ∧ c.pwr.waitStart = false ∧ c.pwrState = 0
    ∃ t, exec (.cvUpdate k) s = .next t ∧
      t = { s with chip := { c with regs := t.chip.regs, cv := t.chip.cv, cvg := t.chip.cvg, ctr := c.ctr + 1 } } ∧
      c.BitsKept t.chip [regField (CV_OUT k), CV_CNT_XDISC, CV_CNT_HOSTLOST, evBit 39, evBit 42] ∧
      (∀ j, j ≠ k.val → t.chip.cvOf j = c.cvOf j) ∧ (∀ g, g ≠ k.val / 8 → t.chip.cvGrp g = c.cvGrp g) ∧
      let y := t.chip.cvOf k
      let code := cvTrim span (c.sfld (CV_TRIM_GAIN k)) (c.sfld (CV_TRIM_OFFSET k)) y.d
      y.phi = (if x.phrst then 0 else x.phi) + c.reg (CV_SINC k) ∧ y.phrst = false ∧
      (due → y.hostPend = none) ∧ (¬due → y.hostPend = x.hostPend) ∧
      t.chip.fld (CV_OUT_STATE k) = cvStCode y.st ∧ t.chip.fld (CV_OUT_CODE k) = y.code % 65536 ∧
      (src = 0 → x.written = true → x.hostPend = none ∨ due → y.d = c.fld (CV_CODE_CODE k)) ∧
      (src = 0 → x.written = true → x.hostPend ≠ none → ¬due → y.d = x.hostOld) ∧
      (src = 1 → y.d = cvCodeOf span (c.sinkValue (CNV_CVMAP (k / 4)) (k % 4))) ∧
      (src = 2 → exports = [] → y.d = (if x.hostPend ≠ none ∧ y.hostPend = none then
        c.fld (CV_CODE_CODE k) else x.d)) ∧
      (src = 2 → exports ≠ [] → (∃ e ∈ exports, (∀ f ∈ exports, e.low ≤ f.low) ∧
        y.d = cvCodeOf span e.value) ∧
        t.chip.fld CV_CNT_XDISC = min (c.fld CV_CNT_XDISC + (exports.length - 1)) (2 ^ CV_CNT_XDISC.width - 1) ∧
        (due → t.chip.fld CV_CNT_HOSTLOST = min (c.fld CV_CNT_HOSTLOST + 1) (2 ^ CV_CNT_HOSTLOST.width - 1)) ∧
        (t.chip.fld CV_CNT_XDISC ≠ c.fld CV_CNT_XDISC ∨ t.chip.fld CV_CNT_HOSTLOST ≠ c.fld CV_CNT_HOSTLOST →
          t.chip.isPending 39 = true)) ∧
      (src = 3 → ∃ w : Q, y.d = cvCodeOf span (satQ (c.sfld (CV_GAMP_OFFSET k) * 256 + c.sfld (CV_GAMP_AMP k) * w.toInt / 32768)) ∧
        (c.fld (CV_CFG_GSEL k) = 1 → w = (t.chip.cvGrp (k / 8)).wTri) ∧
        (c.fld (CV_CFG_GSEL k) = 2 → w = (t.chip.cvGrp (k / 8)).wSaw) ∧
        (c.fld (CV_CFG_GSEL k) = 3 → w = (t.chip.cvGrp (k / 8)).wPep)) ∧
      (x.st = .driving → x.clampReq = false → x.bandReq = false → y.st = .driving ∧ y.code = code ∧
        (code / 256 = x.code / 256 → y.drive = some code ∧ y.hold = false) ∧
        (code / 256 ≠ x.code / 256 → y.drive = x.drive ∧ y.hold = true)) ∧
      (x.st = .driving ∨ x.st = .ramp → x.bandReq = true →
        y.st = .bandClamp ∧ y.code = spanZero span ∧ y.drive = none ∧ t.chip.isPending 42 = true) ∧
      (x.st = .driving → x.clampReq = true → x.bandReq = false →
        y.st = .spanClamp ∧ y.timed = true ∧ y.code = spanZero span ∧ y.drive = none) ∧
      (x.st = .ramp → x.clampReq = false → x.bandReq = false → y.st = .ramp ∧ y.rampJ = min (x.rampJ + 1) 64 ∧
        y.code = ((x.rampD0 : Int) + ((spanZero span : Int) - x.rampD0) * (min (x.rampJ + 1) 64 : Nat) / 64).toNat) ∧
      (x.st = .clamped → x.clampReq = false →
        (on → ok → x.timed = false → src = 0 ∧ x.written = true ∨ src = 1 ∨ src = 3 ∨ src = 2 ∧ (exports ≠ [] ∨ due) →
          y.st = .driving ∧ y.code = code ∧ y.hold = true ∧ y.drive = x.drive) ∧
        (¬on ∨ ¬ok ∨ x.timed = true ∨ src = 0 ∧ x.written = false ∨ src = 2 ∧ exports = [] ∧ ¬due →
          y.st = .clamped ∧ y.code = spanZero span))

/-- What the host and the times of a CV channel do: a code written waits for the next sample's update; a refused span sets
SPANREJ and source 38, an accepted one clamps a driving channel; EN = 0 starts the ramp, EN = 1 stops it; the clamp's 200 µs,
the ramp's 64 steps and the deglitcher's hold end; CV_PHRST and PRST reset phases. A current limit sets its bit and source
41. VNEG_OK follows the rail; its fall raises source 40 and clamps the driving channels of bipolar spans at their next
updates; the pump stops once the time of its last need has run. The check of a group compares a driving channel with the
spare: three differences in a row, confirmed with another channel, put the spare in the channel's place with code 0x42 and
source 34 + g, or condemn the spare with code 0x43; where no spare works, the channel is lost, and stays clamped, with code 0x43. -/
def Obligations.CvCommandsRailAndSpares : Prop :=
  (∀ (s : State) (k : Fin 32), s.chip.clocked = true →
     let c := s.chip
     let x := c.cvOf k
     let frame (t : State) (l : List Field) : Prop :=
       t = { s with chip := { c with regs := t.chip.regs, cv := t.chip.cv, pumpStop := t.chip.pumpStop } } ∧
       c.BitsKept t.chip (regField (CV_OUT k) :: l) ∧ (∀ j, j ≠ k.val → t.chip.cvOf j = c.cvOf j)
     let pump (t : State) : Prop :=
       (t.chip.pumpNeed = true → c.pwrState = 0 → c.pwr.convOff = false →
         t.chip.is CV_STAT_PUMP = true ∧ t.chip.pumpStop = false) ∧
       (t.chip.pumpNeed = false → t.chip.is CV_STAT_PUMP = c.is CV_STAT_PUMP ∧
         (c.is CV_STAT_PUMP = true → t.chip.pumpStop = true))
     (∀ v : BitVec 16, ∃ t, exec (.cvCodeWrite k v) s = .next t ∧ frame t [CV_CODE_CODE k] ∧
       t.chip.pumpStop = c.pumpStop ∧ t.chip.fld (CV_CODE_CODE k) = v.toNat ∧ t.chip.is (CV_OUT_WRITTEN k) = true ∧
       t.chip.cvOf k = { x with hostPend := some c.clk.smp, written := true
                                hostOld := if x.hostPend = none then c.fld (CV_CODE_CODE k) else x.hostOld }) ∧
     (∀ span : BitVec 3, ∃ t, exec (.cvSpanWrite k span) s = .next t ∧
       (6 ≤ span.toNat ∨ c.fld CV_STAT_VINBAND < span.toNat % 3 → OnlyFields s t [CV_STAT_SPANREJ, evBit 38] ∧
         t.chip.is CV_STAT_SPANREJ = true ∧ t.chip.isPending 38 = true) ∧
       (span.toNat < 6 → span.toNat % 3 ≤ c.fld CV_STAT_VINBAND → frame t [CV_CFG_SPAN k, CV_STAT_PUMP] ∧ pump t ∧
         t.chip.fld (CV_CFG_SPAN k) = span.toNat ∧
         (x.st = .driving ∨ x.st = .spanClamp → t.chip.cvOf k = { x with clampReq := true }) ∧
         (x.st ≠ .driving → x.st ≠ .spanClamp → t.chip.cvOf k = x))) ∧
     (∃ t, exec (.cvDisable k) s = .next t ∧ frame t [CV_CFG_EN k, CV_STAT_PUMP] ∧ pump t ∧ t.chip.is (CV_CFG_EN k) = false ∧
       (x.st = .driving → t.chip.cvOf k = { x with st := .ramp, rampD0 := x.code, rampJ := 0 }) ∧
       (x.st ≠ .driving → t.chip.cvOf k = x)) ∧
     (∃ t, exec (.cvSpanClampEnd k) s = .next t ∧ frame t [] ∧ (x.timed = false → t = s) ∧
       (x.timed = true → t.chip.cvOf k = { x with timed := false, st := .clamped })) ∧
     (∃ t, exec (.cvRampEnd k) s = .next t ∧ frame t [] ∧ (x.st ≠ .ramp ∨ x.rampJ < 64 → t = s) ∧
       (x.st = .ramp → 64 ≤ x.rampJ → t.chip.cvOf k =
         { x with st := .clamped, timed := false, drive := none, hold := false, clampReq := false, bandReq := false })) ∧
     (∃ t, exec (.deglitchHoldEnd k) s = .next t ∧ frame t [] ∧ (x.hold = false → t = s) ∧
       (x.hold = true → t.chip.cvOf k = { x with hold := false, drive := some x.code })) ∧
     (∃ t, exec (.cvCurrentLimit k) s = .next t ∧ OnlyFields s t [⟨CV_ILIM, k, 1⟩, evBit 41] ∧
       (t.chip.reg CV_ILIM).getLsbD k = true ∧ t.chip.isPending 41 = true) ∧
     (∀ mask : Word, ∃ t, exec (.cvPhrst mask) s = .next t ∧
       t = { s with chip := { c with regs := t.chip.regs, cv := t.chip.cv } } ∧
       c.BitsKept t.chip ((List.range 32).map fun j => regField (CV_OUT j)) ∧
       t.chip.cvOf k = if mask.getLsbD k then { x with phrst := true } else x) ∧
     (∀ g : Fin 4, ∃ t, exec (.cvGroupPrst g) s = .next t ∧ t = { s with chip := { c with cvg := t.chip.cvg } } ∧
       t.chip.cvGrp g = { c.cvGrp g with prst := true } ∧ ∀ j, j ≠ g.val → t.chip.cvGrp j = c.cvGrp j)) ∧
  (∀ s : State, s.chip.clocked = true →
     let c := s.chip
     (∃ t, exec .vnegOkRise s = .next t ∧ OnlyFields s t [CV_STAT_VNEG_OK] ∧ t.chip.is CV_STAT_VNEG_OK = true) ∧
     (∃ t, exec .vnegOkFall s = .next t ∧ t = { s with chip := { c with regs := t.chip.regs, cv := t.chip.cv } } ∧
       c.BitsKept t.chip (CV_STAT_VNEG_OK :: evBit 40 :: (List.range 32).map fun k => regField (CV_OUT k)) ∧
       t.chip.is CV_STAT_VNEG_OK = false ∧ (c.is CV_STAT_VNEG_OK = true → t.chip.isPending 40 = true) ∧
       ∀ k : Fin 32, t.chip.cvOf k = if c.is CV_STAT_VNEG_OK = true ∧ ((c.cvOf k).st = .driving ∨ (c.cvOf k).st = .ramp) ∧
         spanBipolar (c.fld (CV_CFG_SPAN k)) = true then { c.cvOf k with bandReq := true } else c.cvOf k) ∧
     (c.pumpStop = false → exec .chargePumpStop s = .next s) ∧
     (c.pumpStop = true → ∃ t, exec .chargePumpStop s = .next t ∧ t.chip.is CV_STAT_PUMP = false ∧
       t = { s with chip := { c with regs := t.chip.regs, pumpStop := false } } ∧ c.BitsKept t.chip [CV_STAT_PUMP]) ∧
     (∀ (g : Fin 4) (differs agrees : Bool),
       let x := c.cvGrp g
       ∃ t, exec (.cvCheck g differs agrees) s = .next t ∧
         (c.is RST_CCFG_CVEN = false ∨ c.cvNextDriving g x.next = none → t = s) ∧
         (c.is RST_CCFG_CVEN = true → ∀ i, c.cvNextDriving g x.next = some i →
           let n := if differs then tabGet x.fails 0 i + 1 else 0
           let spare := c.is (CV_GCTL_SPUSE g) = false ∧ x.spareBad = false
           (n < 3 → t = { s with chip := { c with cvg := t.chip.cvg } } ∧ (∀ j, j ≠ g.val → t.chip.cvGrp j = c.cvGrp j) ∧
             t.chip.cvGrp g = { x with fails := (t.chip.cvGrp g).fails, next := (i + 1) % 8 } ∧
             ∀ j, tabGet (t.chip.cvGrp g).fails 0 j = if j = i then n else tabGet x.fails 0 j) ∧
           (∀ i2, 3 ≤ n → c.cvNextDriving g ((i + 1) % 8) = some i2 → i2 ≠ i →
             t.chip.is RST_CCFG_CVEN = true ∧
             (agrees = true ∨ spare → t.chip.isPending 12 = true ∧ t.chip.is CHIP_FAULT_FAULT = true ∧
               t.chip.is CHIP_FAULT_CONV = true ∧ t.chip.fld CHIP_FAULT_UNIT = 8 * g.val + i) ∧
             (agrees = true → spare → t.chip.fld CHIP_FAULT_CODE = 0x42 ∧ t.chip.is (CV_GCTL_SPUSE g) = true ∧
               t.chip.fld (CV_GCTL_SPCH g) = i ∧ t.chip.isPending (34 + g) = true ∧
               t.chip.cvOf (8 * g + i) = { c.cvOf (8 * g + i) with hold := true } ∧
               (∀ j, j ≠ 8 * g.val + i → t.chip.cvOf j = c.cvOf j) ∧
               ∃ q : Repair, t.chip.rep.map = c.rep.map ++ [q] ∧ q.kind = 5 ∧ q.unit = g.val ∧ q.loc = i ∧ q.code = 0x42) ∧
             (agrees = true → ¬spare → t.chip.fld CHIP_FAULT_CODE = 0x43 ∧
               (t.chip.cvOf (8 * g + i)).lost = true ∧ (t.chip.cvOf (8 * g + i)).st = .clamped ∧
               (t.chip.cvOf (8 * g + i)).drive = none ∧ (∀ j, j ≠ 8 * g.val + i → t.chip.cvOf j = c.cvOf j) ∧
               ∃ q : Repair, t.chip.rep.map = c.rep.map ++ [q] ∧ q.kind = 6 ∧ q.unit = g.val ∧ q.loc = i ∧ q.code = 0x43) ∧
             (agrees = false → spare → t.chip.fld CHIP_FAULT_CODE = 0x43 ∧ (t.chip.cvGrp g).spareBad = true ∧ t.chip.cv = c.cv ∧
               t.chip.rep = c.rep) ∧
             (agrees = false → ¬spare → t = { s with chip := { c with cvg := t.chip.cvg } } ∧
               t.chip.cvGrp g = { x with fails := [], next := (i + 1) % 8 })))))

/-! ### Banks, flash and streams (R443 to R466) -/

/-- The oldest buffered write of a region lands, in awake banks: its word reads as written and no other word changes. Where
it meets a write of port A in the same cycle, port A's lands first: the ring keeps the word to land after its own; where it
meets a read of port A or a write, and where a read of port B meets a write of port A, which returns any value, BUSY counts.
When accesses meet is the model's free choice (assumption 102). A fence completes once the writes before it have landed, and
gives their number. An access to banks in retention wakes them, and their region's buck rises to the point that R598 wants. A
corrected word counts in CE with its place and source 96. An uncorrectable one counts in UE, raises source 97 and its
region's fault with code 0x30, and reads 0 until it is written; no other word changes, and every later read finds such a word
again. A step of the Restorer saves the row group that RST_POS names and tests it: a row fails when a read of its March test
does not return b or ~b as R451 has them, for b all 0 and then a checkerboard. When it ends, the saved words stand in the
group again, every other word is as it was, a row that failed is bound to a spare with source 101, the lowest that no record
has named by the model's own choice (assumption 93), or reported with code 0x31 and source 102. RST_POS names the next group
from the step's start on; WRAP and source 100 rise at the end of the last. PHASE is 1 at the start and 3 at the end, and
follows the step by boundaries, by the model's own choice (assumption 19). -/
def Obligations.BankMemory : Prop :=
  (∀ (s : State) (r : Fin 4), s.chip.clocked = true →
     let c := s.chip
     let x := c.rm r
     let others (t : State) : Prop := ∀ q, q ≠ r.val → t.chip.rm q = c.rm q
     (∃ t, exec (.writeBufferLand r) s = .next t ∧ others t ∧ (x.wbuf = [] → t = { s with chip := { c with ctr := c.ctr + 1 } }) ∧
       (∀ a v rest, x.wbuf = (a, v) :: rest → x.retained = true → t.mem = s.mem ∧
         t.chip.rm r = { x with waking := true, held := true } ∧ t.chip.is (PWR_RGSTAT_DOZING r) = false) ∧
       (∀ a v rest, x.wbuf = (a, v) :: rest → x.retained = false → bankRegion a = r.val →
         (t.chip.rm r).wbuf = rest ∧ (t.chip.rm r).fences = (x.fences.map fun f => { f with left := f.left - 1 }) ∧
         RingsTake (c.updRm r fun y => { y with wbuf := (t.chip.rm r).wbuf, fences := (t.chip.rm r).fences }) t.chip r a v ∧
         t.chip.fld (RGNn_MSTAT_WBOCC r) = rest.length % 2 ^ (RGNn_MSTAT_WBOCC r).width ∧ c.busyUpTo t.chip r 1 ∧
         (c.ringFills r (contentWord a) = false → c.portAReads r (contentWord a) = false → c.busyUpTo t.chip r 0) ∧
         c.BitsKept t.chip [RGNn_MSTAT_WBOCC r, RGNn_MSTAT_BUSY r] ∧ t.mem.rd a = v ∧
         (0x1000000 ≤ a → a % 4 = 0 → ∀ b, 0x1000000 ≤ b → b % 4 = 0 → b ≠ a → t.mem.rd b = s.mem.rd b) ∧
         (c.rep.step.on = true → bankOf a = c.rep.step.bank → bankWord a / 256 = c.rep.step.group →
           t.chip.rep.step.save = c.rep.step.save.set (bankWord a % 256) v) ∧
         t = { s with mem := t.mem, chip := { c with
           regs := t.chip.regs, rmem := t.chip.rmem, ctr := c.ctr + 1
           rep := { c.rep with step := { c.rep.step with save := t.chip.rep.step.save } } } })) ∧
     (∀ dma : Bool, ∃ t, exec (.fenceRead r dma) s = .next t ∧ t = { s with chip := { c with rmem := t.chip.rmem } } ∧ others t ∧
       t.chip.rm r = { x with fences := x.fences ++ [{ dma := dma, left := x.wbuf.length, count := x.wbuf.length }] }) ∧
     (∃ t, exec (.fenceReadComplete r) s = .next t ∧ others t ∧ (x.fences = [] → t = s) ∧
       (∀ f rest, x.fences = f :: rest → f.left ≠ 0 → t = s) ∧
       (∀ f rest, x.fences = f :: rest → f.left = 0 → t.chip.rm r = { x with fences := rest } ∧
         t.chip.fld (RGNn_FENCE_DRAINED r) = f.count % 2 ^ (RGNn_FENCE_DRAINED r).width ∧
         c.BitsKept t.chip [RGNn_FENCE_DRAINED r] ∧
         t = { s with chip := { c with
           regs := t.chip.regs, rmem := t.chip.rmem
           host := if f.dma then c.host else { c.host with words := [BitVec.ofNat 32 f.count] } } })) ∧
     (∃ t, exec (.bankWake r) s = .next t ∧ others t ∧ (x.retained = false → t = s) ∧
       (x.retained = true → t.chip.rm r = { x with waking := true, held := true } ∧ c.BitsKept t.chip [PWR_RGSTAT_DOZING r] ∧
         t.chip.is (PWR_RGSTAT_DOZING r) = false ∧ r.val ∉ t.chip.pwr.dozing ∧
         tabGet t.chip.pwr.point 0 r = max (tabGet c.pwr.point 0 r) (c.wantPoint r))) ∧
     (∃ t, exec (.bankWakeEnd r) s = .next t ∧ t = { s with chip := { c with rmem := t.chip.rmem } } ∧ others t ∧
       (x.waking = false → t = s) ∧
       (x.waking = true → t.chip.rm r = { x with waking := false, held := false, retained := false })) ∧
     (∀ a, bankRegion a = r.val → x.retained = false →
       (s.quietRead a → (s.portBRead a).1 = s.portWord a ∧ c.busyUpTo (s.portBRead a).2.chip r 0) ∧
       ((s.portBRead a).1 = s.portWord a ∧ c.busyUpTo (s.portBRead a).2.chip r 0 ∨
         c.ringFills r (contentWord a) = true ∧ c.busyUpTo (s.portBRead a).2.chip r 1))) ∧
  (∀ (s : State) (k : Fin 8) (w : BitVec 19), s.chip.clocked = true →
     let c := s.chip
     let place (t : State) (kind : Nat) : Prop := t.chip.fld MEM_EADDR_KIND = kind ∧ t.chip.fld MEM_EADDR_BANK = k.val ∧
       t.chip.fld MEM_EADDR_WORD = w.toNat
     let places : List Field := [MEM_EADDR_KIND, MEM_EADDR_BANK, MEM_EADDR_WORD]
     (∃ t, exec (.eccCorrect k w) s = .next t ∧ (∀ b, t.mem.rd b = s.mem.rd b) ∧
       t = { s with mem := { s.mem with ecc := t.mem.ecc }, chip := { c with regs := t.chip.regs, ctr := c.ctr + 1 } } ∧
       (s.mem.ErrAt (bankAddr k w.toNat) 2 → t = { s with chip := { c with ctr := c.ctr + 1 } }) ∧
       (¬s.mem.ErrAt (bankAddr k w.toNat) 2 → c.BitsKept t.chip (MEM_ECC_CE :: evBit 96 :: places) ∧ place t 0 ∧
         t.chip.isPending 96 = true ∧ t.chip.fld MEM_ECC_CE = min (c.fld MEM_ECC_CE + 1) (2 ^ MEM_ECC_CE.width - 1) ∧
         t.mem.ErrAt (bankAddr k w.toNat) 1)) ∧
     (∀ a, bankAddr k w.toNat = a → (c.rm (bankRegion a)).wbuf = [] → (c.rm (bankRegion a)).retained = false → s.quietRead a →
       (s.mem.ErrAt a 0 → (s.portBRead a).2 = s) ∧
       (s.mem.ErrAt a 1 → (s.portBRead a).1 = s.mem.rd a ∧ (s.portBRead a).2.chip.isPending 96 = true ∧
         (s.portBRead a).2.chip.fld MEM_ECC_CE = min (c.fld MEM_ECC_CE + 1) (2 ^ MEM_ECC_CE.width - 1) ∧
         place (s.portBRead a).2 0) ∧
       (s.mem.ErrAt a 2 → (s.portBRead a).1 = 0 ∧ (s.portBRead a).2.chip.isPending 97 = true ∧
         (s.portBRead a).2.chip.fld MEM_ECC_UE = min (c.fld MEM_ECC_UE + 1) (2 ^ MEM_ECC_UE.width - 1) ∧
         place (s.portBRead a).2 1 ∧ (s.portBRead a).2.chip.fld (RGNn_FAULT_CODE (k / 2)) = 0x30)) ∧
     (∃ t, exec (.eccUncorrectable k w) s = .next t ∧ place t 1 ∧ t.chip.isPending 97 = true ∧
       t.chip.fld MEM_ECC_UE = min (c.fld MEM_ECC_UE + 1) (2 ^ MEM_ECC_UE.width - 1) ∧
       t.chip.fld (RGNn_FAULT_CODE (k / 2)) = 0x30 ∧ t.chip.is (RGNn_FAULT_FAULT (k / 2)) = true ∧
       t.chip.isPending (115 + 4 * (k / 2)) = true ∧
       t = { s with mem := { s.mem with ecc := t.mem.ecc }, chip := { c with regs := t.chip.regs, ctr := c.ctr + 1 } } ∧
       c.BitsKept t.chip (MEM_ECC_UE :: evBit 97 :: RGNn_FAULT_CODE (k / 2) :: RGNn_FAULT_FAULT (k / 2) ::
         evBit (115 + 4 * (k / 2)) :: places) ∧
       t.mem.rd (bankAddr k w.toNat) = 0 ∧
       ∀ b, 0x1000000 ≤ b → b % 4 = 0 → b ≠ bankAddr k w.toNat → t.mem.rd b = s.mem.rd b)) ∧
  (∀ s : State, s.chip.clocked = true →
     let c := s.chip
     let k := c.fld RST_POS_BANK
     let g := c.fld RST_POS_GROUP
     let waits := c.is RST_CFG_EN = false ∨ c.rep.step.on = true ∨ (c.rm (k / 2)).retained = true ∨
       c.boot.loading.isSome = true ∨ c.pwrState ≠ 0
     (∃ t, exec .restorerStep s = .next t ∧ (waits → t = { s with chip := { c with ctr := c.ctr + 1 } }) ∧
       (¬waits → t = { s with chip := { c with
           regs := t.chip.regs, ctr := c.ctr + 1
           rep := { c.rep with step := { on := true, bank := k, group := g, save := t.chip.rep.step.save } } } } ∧
         t.chip.rep.step.save.length = 256 ∧
         (∀ i, i < 256 → t.chip.rep.step.save.getD i 0 = s.mem.rd (bankAddr k (256 * g + i))) ∧
         c.busyUpTo t.chip (k / 2) 256 ∧
         ((∀ i, i < 256 → c.ringFills (k / 2) (contentWord (bankAddr k (256 * g + i))) = false) → c.busyUpTo t.chip (k / 2) 0) ∧
         c.BitsKept t.chip ([RST_STAT_PHASE, RST_POS_GROUP, RST_POS_BANK, RGNn_MSTAT_BUSY (k / 2)] ++ s.readBits (k / 2)) ∧
         t.chip.fld RST_STAT_PHASE = 1 ∧
         (g < 2047 → t.chip.fld RST_POS_GROUP = g + 1 ∧ t.chip.fld RST_POS_BANK = k) ∧
         (g = 2047 → t.chip.fld RST_POS_GROUP = 0 ∧ t.chip.fld RST_POS_BANK = (k + 1) % 8))) ∧
     (∀ (reads : List MarchRead) (row : Nat), (row ∈ failedRows reads ↔ row < 4 ∧ ∃ m ∈ reads, m.word.toNat / 64 = row ∧
       ∃ i, i < 39 ∧ m.value.getLsbD i ≠ ((m.run && decide ((row + i) % 2 = 1)) ^^ decide (m.elem.val % 2 = 1)))) ∧
     (∀ reads : List MarchRead,
       let p := c.rep.step
       let failed := failedRows reads
       ∃ t, exec (.restorerStepDone reads) s = .next t ∧ (p.on = false → t = { s with chip := { c with ctr := c.ctr + 1 } }) ∧
         (p.on = true → p.bank < 8 → p.group < 2048 → p.save.length = 256 →
           t.chip.rep.step = {} ∧ t.chip.fld RST_STAT_PHASE = 3 ∧
           (∀ i, i < 256 → t.mem.rd (bankAddr p.bank (256 * p.group + i)) = p.save.getD i 0) ∧
           (∀ b, 0x1000000 ≤ b → b % 4 = 0 → (∀ i, i < 256 → b ≠ bankAddr p.bank (256 * p.group + i)) →
             t.mem.rd b = s.mem.rd b) ∧
           t = { s with mem := t.mem, chip := { c with
             regs := t.chip.regs, ctr := c.ctr + 1, rmem := t.chip.rmem
             rep := { c.rep with map := t.chip.rep.map, pend := t.chip.rep.pend, step := {} } } } ∧
           (∀ r, t.chip.rm r = { c.rm r with rings := (t.chip.rm r).rings }) ∧ c.busyUpTo t.chip (p.bank / 2) 256 ∧
           (∀ r, (∀ i, i < 256 → c.ringAt (p.bank / 2) (contentWord (bankAddr p.bank (256 * p.group + i))) = none) →
             t.chip.rm r = c.rm r) ∧
           t.chip.fld RST_POS_GROUP = g ∧ t.chip.fld RST_POS_BANK = k ∧
           (p.group = 2047 → p.bank = 7 → t.chip.is RST_STAT_WRAP = true ∧ t.chip.isPending 100 = true) ∧
           (failed = [] → t.chip.rep.map = c.rep.map ∧ t.chip.rep.pend = c.rep.pend ∧
             c.BitsKept t.chip [RST_STAT_PHASE, RST_STAT_WRAP, evBit 100, RGNn_MSTAT_BUSY (p.bank / 2)]) ∧
           (∀ row i, failed = [row] → i < 32 → i ∉ sparesOf c.rep.map p.bank → (∀ j, j < i → j ∈ sparesOf c.rep.map p.bank) →
             t.chip.fld (MEM_SPARE_USED p.bank) = (sparesOf (mergeMap t.chip.rep.map) p.bank).length ∧
             t.chip.is RST_STAT_REPAIR = true ∧
             t.chip.isPending 101 = true ∧ ∃ q : Repair, t.chip.rep.map = c.rep.map ++ [q] ∧ q.kind = 1 ∧ q.unit = p.bank ∧
               q.loc = 4 * p.group + row ∧ q.spare = i) ∧
           (∀ row, failed = [row] → (∀ i, i < 32 → i ∈ sparesOf c.rep.map p.bank) → t.chip.rep.map = c.rep.map ∧
             t.chip.is RST_STAT_NOSPARE = true ∧ t.chip.isPending 102 = true ∧
             t.chip.fld (RGNn_FAULT_CODE (p.bank / 2)) = 0x31 ∧ t.chip.isPending (115 + 4 * (p.bank / 2)) = true))))

/-- XS_DATA fills a port's buffer of 256 bytes; XS_CMD starts a program of its first bytes, or an erase of the addressed 4 KiB
or 64 KiB, unless a command runs. When the flash is ready, a program has cleared the bits its data clear, within its page, and
an erase has set its unit to 0xFF; no other byte of flash changes. After 4 s without, TOUT counts and what reached the flash
is open. PROTO = 1 selects 8D-8D-8D again. A read that fails counts in TOUT, and the fourth in a row of a port with AUTOFB falls
back: PROTO 0, a quarter of the clock, FB and source 99. A port whose flash is not busy serves a head fetch, or the refill
with the least time to underrun: the ring's words are the stream's frames, and after them the words of port B that met their
writing; no other word of the banks changes. -/
def Obligations.FlashAndStreams : Prop :=
  (∀ (s : State) (x : Fin 2), s.chip.clocked = true →
     let c := s.chip
     let p := c.xs x
     let busy : List Field := [XS_STAT_CBUSY x, XS_STAT_FBUSY x]
     let frame (t : State) (n : Nat) : Prop := (∀ y, y < 2 → y ≠ x.val → t.chip.xs y = c.xs y) ∧
       t = { s with nv := t.nv, chip := { c with
         regs := t.chip.regs, ctr := n, rep := { c.rep with xs0 := t.chip.rep.xs0, xs1 := t.chip.rep.xs1 } } }
     let started (t : State) (o : XsOp) : Prop := t.nv = s.nv ∧ c.BitsKept t.chip busy ∧ (t.chip.xs x).op = some o ∧
       o.addr = c.fld (XS_ADDR_ADDR x) ∧ t.chip.is (XS_STAT_CBUSY x) = true ∧ t.chip.is (XS_STAT_FBUSY x) = true
     (∀ n : Byte, ∃ t, exec (.xsPageProgram x n) s = .next t ∧ frame t (c.ctr + 1) ∧
       (c.is (XS_STAT_CBUSY x) = true → t = { s with chip := { c with ctr := c.ctr + 1 } }) ∧
       (c.is (XS_STAT_CBUSY x) = false → ∃ o, started t o ∧ o.op = 1 ∧ o.data.length = n.toNat + 1 ∧ (t.chip.xs x).buf = [] ∧
         ∀ i, i ≤ n.toNat → i < p.buf.length → o.data.getD i 0 = p.buf.getD i 0)) ∧
     (∀ op : Nat, op = 2 ∨ op = 3 → ∃ t, exec (if op = 2 then .xsErase4k x else .xsErase64k x) s = .next t ∧ frame t c.ctr ∧
       (c.is (XS_STAT_CBUSY x) = true → t = s) ∧
       (c.is (XS_STAT_CBUSY x) = false → ∃ o, started t o ∧ o.op = op ∧ (t.chip.xs x).buf = p.buf)) ∧
     (∀ ready : Bool, ∃ t, exec (.xsCmdDone x ready) s = .next t ∧ frame t (c.ctr + 1) ∧
       (p.op = none → t = { s with chip := { c with ctr := c.ctr + 1 } }) ∧
       (∀ o, p.op = some o →
         let n : NonVol := s.nv.xsApply x o
         t.chip.xs x = { p with op := none } ∧ t.chip.is (XS_STAT_CBUSY x) = false ∧ t.chip.is (XS_STAT_FBUSY x) = false ∧
         (ready = true → t.nv = n ∧ c.BitsKept t.chip busy) ∧
         (ready = false → (t.nv = n ∨ t.nv = s.nv) ∧ c.BitsKept t.chip (XS_STAT_TOUT x :: busy) ∧
           t.chip.fld (XS_STAT_TOUT x) = min (c.fld (XS_STAT_TOUT x) + 1) (2 ^ (XS_STAT_TOUT x).width - 1)) ∧
         n = { s.nv with xa := n.xa, xb := n.xb } ∧ (∀ b, n.flash (1 - x.val) b = s.nv.flash (1 - x.val) b) ∧
         (o.op = 1 → o.data.length ≤ 256 → (∀ i, i < o.data.length →
             n.flash x (o.addr / 256 * 256 + (o.addr + i) % 256) =
               s.nv.flash x (o.addr / 256 * 256 + (o.addr + i) % 256) &&& o.data.getD i 0) ∧
           ∀ b, (∀ i, i < o.data.length → b ≠ o.addr / 256 * 256 + (o.addr + i) % 256) → n.flash x b = s.nv.flash x b) ∧
         (o.op = 2 → ∀ b, n.flash x b = if b / 4096 = o.addr / 4096 then 0xFF else s.nv.flash x b) ∧
         (o.op = 3 → ∀ b, n.flash x b = if b / 65536 = o.addr / 65536 then 0xFF else s.nv.flash x b))) ∧
     (∀ v : Word, ∃ t, exec (.xsDataWrite x v) s = .next t ∧ frame t c.ctr ∧ t.nv = s.nv ∧ t.chip.regs = c.regs ∧
       t.chip.xs x = { p with buf := (p.buf ++ wordBytes v).take 256 }) ∧
     (∀ b : Byte, ∃ t, exec (.xsReadStatus x b) s = .next t ∧ frame t c.ctr ∧ t.nv = s.nv ∧ t.chip.regs = c.regs ∧
       t.chip.xs x = { p with status := b })) ∧
  (∀ (s : State) (x : Fin 2), s.chip.clocked = true →
     let c := s.chip
     let p := c.xs x
     let frame (t : State) : Prop := (∀ y, y < 2 → y ≠ x.val → t.chip.xs y = c.xs y) ∧
       t = { s with mem := t.mem, chip := { c with
         regs := t.chip.regs, ctr := t.chip.ctr, rmem := t.chip.rmem
         rep := { c.rep with
           xs0 := t.chip.rep.xs0, xs1 := t.chip.rep.xs1, step := { c.rep.step with save := t.chip.rep.step.save } } } }
     (∃ t, exec (.xsProtoWrite x) s = .next t ∧ frame t ∧ t.mem = s.mem ∧ t.chip.rmem = c.rmem ∧ t.chip.rep.step = c.rep.step ∧
       c.BitsKept t.chip [XS_CFG_PROTO x, XS_STAT_FB x] ∧ t.chip.is (XS_CFG_PROTO x) = true ∧ t.chip.is (XS_STAT_FB x) = false ∧
       t.chip.xs x = { p with fails := 0, retry := false }) ∧
     (let falls := 3 ≤ p.fails ∧ c.is (XS_CFG_AUTOFB x) = true
      ∃ t, exec (.xspiReadFail x) s = .next t ∧ frame t ∧ t.mem = s.mem ∧ t.chip.rmem = c.rmem ∧ t.chip.rep.step = c.rep.step ∧
       t.chip.fld (XS_STAT_TOUT x) = min (c.fld (XS_STAT_TOUT x) + 1) (2 ^ (XS_STAT_TOUT x).width - 1) ∧
       (¬falls → t.chip.xs x = { p with fails := p.fails + 1, retry := false } ∧ c.BitsKept t.chip [XS_STAT_TOUT x]) ∧
       (falls → t.chip.xs x = { p with fails := 0, retry := true } ∧ t.chip.is (XS_CFG_PROTO x) = false ∧ t.chip.fld (XS_CFG_CLKDIV x) = 3 ∧
         t.chip.is (XS_STAT_FB x) = true ∧ t.chip.isPending 99 = true ∧
         c.BitsKept t.chip [XS_STAT_TOUT x, XS_CFG_PROTO x, XS_CFG_CLKDIV x, XS_STAT_FB x, evBit 99])) ∧
     (let serves := if (c.nextHead x).isSome then c.nextHead x else c.nextRefill x
      ∃ t, exec (.streamRefill x) s = .next t ∧ frame t ∧ t.chip.regs = c.regs ∧ t.chip.ctr = c.ctr + 1 ∧
       (c.is (XS_STAT_FBUSY x) = true ∨ c.is (XS_STAT_NODEV x) = true ∨ serves = none →
         t = { s with chip := { c with ctr := c.ctr + 1 } }) ∧
       (∀ (r n k : Nat) (g : Ring) (z : StreamRec), c.is (XS_STAT_FBUSY x) = false → c.is (XS_STAT_NODEV x) = false →
         serves = some (r, n, k) → tabGet (c.rm r).rings none n = some g →
         (c.pal.streams.find? fun z => decide (z.id = g.stream)) = some z →
         let from_ := if 256 * k + 256 ≤ c.ringPos r n z then c.ringPos r n z else 256 * k
         let place (i : Nat) : Nat := contentAddr r (0xC0000 + 1024 * n + (from_ + i) % 1024)
         let late (i : Nat) : List (Nat × Word) := g.late.filter fun p => decide (p.1 = place i)
         (∀ i, i < 256 → t.mem.rd (place i) = match (late i).getLast? with
           | some p => p.2
           | none => (s.nv.streamSample z (z.frameOf g.start ((from_ + i) / z.channels))
             ((from_ + i) % z.channels)).signExtend 32) ∧
         (∀ i, i < 256 → c.rep.step.on = true → c.rep.step.save.length = 256 → c.rep.step.bank = bankOf (place i) →
           c.rep.step.group = bankWord (place i) / 256 →
           t.chip.rep.step.save.getD (bankWord (place i) % 256) 0 = t.mem.rd (place i)) ∧
         (c.rep.step.on = false ∨ c.rep.step.save.length = 256 → ∀ j, (∀ i, i < 256 → ¬(c.rep.step.on = true ∧
             c.rep.step.bank = bankOf (place i) ∧ c.rep.step.group = bankWord (place i) / 256 ∧ j = bankWord (place i) % 256)) →
           t.chip.rep.step.save.getD j 0 = c.rep.step.save.getD j 0) ∧
         (∀ b, 0x1000000 ≤ b → b % 4 = 0 → (∀ i, i < 256 → b ≠ place i) → t.mem.rd b = s.mem.rd b) ∧
         (∀ q, q ≠ r → t.chip.rm q = c.rm q) ∧ t.chip.xs x = { p with fails := 0, retry := false } ∧
         ∃ h : Ring, tabGet (t.chip.rm r).rings none n = some h ∧
           (∀ p ∈ h.late, p ∈ g.late ∧ ∀ i, i < 256 → p.1 ≠ place i) ∧
           (∀ w, let written := (w % 1024 + 1024 - from_ % 1024) % 1024 < 256
             (written → (h.holds w = true ↔ from_ ≤ w ∧ w < from_ + 256)) ∧
             (¬written → from_ < w + 768 → g.holds w = true → h.holds w = true)) ∧
           h = { g with late := h.late, want := g.want.filter fun j => decide (j ≠ k), fills := h.fills } ∧
           t.chip.rm r = { c.rm r with
             heads := (c.rm r).heads.filter fun h => decide (h ≠ (n, k))
             rings := tabSet (c.rm r).rings none n (some h) })))

/-! ### The DMA engine (R467 to R481) -/

/-- A start of a channel that is not active takes unless a condition of R472 holds: then STATE keeps its value, WHY names the
first that holds, and the channel's bit of DMA_ERR and source 72 + ⌊n ÷ 2⌋ set. STOP stops an active channel. The engine moves
the next burst of the channel with the highest priority that is ready, with all its reads before its writes. A burst between
banks leaves each destination with the word that its source held, every other word of the banks as it was, CNT less its
length, and STATE done with the pulse of CTRG after the last word. A refused read ends the transfer as a stop does, with WHY
5. -/
def Obligations.DmaEngine : Prop :=
  (∀ (s : State) (n : Fin 16), s.chip.clocked = true →
     let c := s.chip
     let src := (c.reg (DMAn_SRC n)).toNat
     let dst := (c.reg (DMAn_DST n)).toNat
     let cnt := c.fld (DMAn_CNT_CNT n)
     let ilv := c.fld (DMAn_CFG_ILV n)
     let w := c.fld (DMAn_CFG_WAYS n) + 1
     let req := c.fld (DMAn_CFG_REQ n)
     let sLen := if c.is (DMAn_CFG_SINC n) then 4 * cnt else 4
     let dLen := if c.is (DMAn_CFG_DINC n) then 4 * cnt else 4
     let meet := src < dst + dLen ∧ dst < src + sLen
     let w1 := (ilv = 1 ∨ ilv = 2) ∧ meet
     let w2 := src % 4 ≠ 0 ∨ dst % 4 ≠ 0
     let w3 := 0x04000000 ≤ dst ∧ dst ≤ 0x0BFFFFFF
     let w4 := cnt = 0 ∨ 5 ≤ c.fld (DMAn_CFG_BURST n) ∨ (19 ≤ req ∧ req ≤ 31) ∨ ilv = 3 ∨ ilv ≠ 0 ∧ (w = 1 ∨ cnt % w ≠ 0) ∨
       ilv = 1 ∧ c.is (DMAn_CFG_SINC n) = false ∨ ilv = 2 ∧ c.is (DMAn_CFG_DINC n) = false
     let w6 := ilv = 0 ∧ c.is (DMAn_CFG_SINC n) ≠ c.is (DMAn_CFG_DINC n) ∧ meet
     let refused (t : State) (why : Nat) : Prop := OnlyFields s t [DMAn_STAT_WHY n, ⟨DMA_ERR, n, 1⟩, evBit (72 + n / 2)] ∧
       t.chip.fld (DMAn_STAT_WHY n) = why ∧ (t.chip.reg DMA_ERR).getLsbD n = true ∧ t.chip.isPending (72 + n / 2) = true
     (∃ t, exec (.dmaStart n) s = .next t ∧ (c.dmaActive n = true → t = s) ∧ (c.dmaActive n = false →
       (w1 → refused t 1) ∧ (¬w1 → w2 → refused t 2) ∧ (¬w1 → ¬w2 → w3 → refused t 3) ∧
       (¬w1 → ¬w2 → ¬w3 → w4 → refused t 4) ∧ (¬w1 → ¬w2 → ¬w3 → ¬w4 → w6 → refused t 6) ∧
       (¬w1 → ¬w2 → ¬w3 → ¬w4 → ¬w6 → t = { s with chip := { c with regs := t.chip.regs, dma := t.chip.dma } } ∧
         c.BitsKept t.chip [DMAn_STAT_STATE n] ∧ t.chip.dmaActive n = true ∧
         t.chip.dmaOf n = { pulse := false, full := cnt } ∧ ∀ j, j ≠ n.val → t.chip.dmaOf j = c.dmaOf j))) ∧
     (∃ t, exec (.dmaStop n) s = .next t ∧ OnlyFields s t [DMAn_STAT_STATE n] ∧ (c.dmaActive n = false → t = s) ∧
       (c.dmaActive n = true → t.chip.fld (DMAn_STAT_STATE n) = 3))) ∧
  (∀ s : State, s.chip.clocked = true →
     let c := s.chip
     (c.dmaNext = none → ∀ same, exec (.dmaBurst same) s = .next { s with chip := { c with ctr := c.ctr + 1 } }) ∧
     (∀ n, c.dmaNext = some n → n < 16 ∧ c.dmaReady n = true ∧
       ∀ j, j < 16 → c.dmaReady j = true → c.fld (DMAn_CFG_PRIO j) ≤ c.fld (DMAn_CFG_PRIO n)) ∧
     (∀ n, c.dmaNext = some n →
       let len := min (2 ^ c.fld (DMAn_CFG_BURST n)) (c.fld (DMAn_CNT_CNT n))
       let src (i : Nat) : Nat := (c.dmaAddrs n i).1
       let dst (i : Nat) : Nat := (c.dmaAddrs n i).2
       let left := c.fld (DMAn_CNT_CNT n) - len
       (c.dmaOf n).full ≠ 0 → (∀ i, i < len → c.bankOpen (dst i)) → (∀ i, i < len → c.bankOpen (src i) ∨ placeOf (src i) = .outside) →
       c.buffersSound →
       ∀ same, ∃ t, exec (.dmaBurst same) s = .next t ∧ t.chip.dmaLast = n ∧ t.chip.fld (DMAn_CNT_CNT n) = left ∧
         (32 ≤ c.fld (DMAn_CFG_REQ n) → (t.chip.dmaOf n).pulse = false) ∧
         ((∀ i, i < len → c.bankOpen (src i)) →
           t = { s with mem := t.mem, chip := { c with
             regs := t.chip.regs, dma := t.chip.dma, dmaLast := n, rmem := t.chip.rmem, rep := t.chip.rep, trg := t.chip.trg
             pwr := { c.pwr with dozing := t.chip.pwr.dozing, point := t.chip.pwr.point }, ctr := t.chip.ctr } } ∧
           (∀ j, j ≠ n → t.chip.dmaOf j = c.dmaOf j) ∧ (t.chip.dmaOf n).full = (c.dmaOf n).full ∧
           (∀ i, i < len → s.quietRead (src i) → (∀ j, i < j → j < len → dst j ≠ dst i) → t.portWord (dst i) = s.portWord (src i)) ∧
           (∀ a, c.bankOpen a → (∀ i, i < len → dst i ≠ a) → t.portWord a = s.portWord a) ∧
           (0 < left → t.chip.fld (DMAn_STAT_STATE n) = 1 ∧ t.chip.trg = c.trg) ∧
           (0 < len → left = 0 → t.chip.fld (DMAn_STAT_STATE n) = 2 ∧
             (c.is (DMAn_CFG_CTEN n) = true → c.fld (DMAn_CFG_CTRG n) ∈ t.chip.trg)) ∧
           t.chip.reg (DMAn_SRC n) = c.reg (DMAn_SRC n) +
             (if c.dmaAscends n then BitVec.ofNat 32 (4 * len * c.fld (DMAn_CFG_SINC n)) else 0) ∧
           t.chip.reg (DMAn_DST n) = c.reg (DMAn_DST n) +
             (if c.dmaAscends n then BitVec.ofNat 32 (4 * len * c.fld (DMAn_CFG_DINC n)) else 0)) ∧
         ((∃ i, i < len ∧ placeOf (src i) = .outside) →
           t.chip.fld (DMAn_STAT_STATE n) = 3 ∧ t.chip.fld (DMAn_STAT_WHY n) = 5 ∧ (t.chip.reg DMA_ERR).getLsbD n = true ∧
           t.chip.isPending (72 + n / 2) = true)))

/-! ### Timers, trigger lines and the tempo clock (R485 to R499) -/

/-- A tick of the block clock at a running timer that counts it advances its counter by 1, and from the maximum to 0 with
OVF; then its compares act, and a timer chained to an overflow ticks with it. A reset and a write of CNT set the counter, and
the compares act where its value changes. A write of CMP1 or PER sets the other of base and compare for a repeating one,
which takes one late match where it lies behind the counter. A capture of a timer with a capture source copies the counter,
with CAP_OVR where the last was not read; reads of CAP and CNT give their value, latch the next timer's into the reader's
shadow, and a read of CAP clears CAP_NEW. The boundary of a sample ticks the timers that count samples. A write of TRGSW
raises its lines, a pulse shows in TRGSEEN, an edge of a GP pin is its new level, and no command of the tempo clock acts on a
timer, nor on the clock itself while MI0 is its source. -/
def Obligations.Timers : Prop :=
  (∀ (s : State) (n : Fin 16), s.chip.clocked = true →
     let c := s.chip
     let old := c.reg (TMRn_CNT n)
     let frame (t : State) : Prop := t = { s with chip := { c with regs := t.chip.regs, tmr := t.chip.tmr, trg := t.chip.trg } }
     (let clk := c.fld (TMRn_CFG_CLK n)
      let holds := clk ≠ 1 ∨ c.is (TMRn_CTL_RUN n) = false
      let chained := old = 0xFFFFFFFF ∧ n.val < 15 ∧ c.fld (TMRn_CFG_CLK (n + 1)) = 5
      ∃ t, exec (.timerTick n) s = .next t ∧ frame t ∧ (holds → t = s) ∧
       (¬holds → t.chip.reg (TMRn_CNT n) = old + 1 ∧
         (old = 0xFFFFFFFF → TimerSays c t.chip n (TMRn_STAT_OVF n) 0 0) ∧
         (¬chained → Compared c t.chip n (old + 1) (if old = 0xFFFFFFFF then [TMRn_STAT_OVF n] else [])) ∧
         (chained → t.chip.reg (TMRn_CNT (n + 1)) = c.reg (TMRn_CNT (n + 1)) +
           if c.is (TMRn_CTL_RUN (n + 1)) then 1 else 0))) ∧
     (∀ v : Word, ∃ t, exec (.timerCntWrite n v) s = .next t ∧ frame t ∧ (v ≠ old → Compared c t.chip n v []) ∧
       (v = old → t.chip.reg (TMRn_CNT n) = v ∧ OnlyFields s t [])) ∧
     (let c1 : Chip := if c.is (TMRn_CFG_PEREN n) then
         (c.setTmr n { c.tmrOf n with base := 0 }).setReg (TMRn_CMP1 n) (c.reg (TMRn_PER n)) else c
      ∃ t, exec (.timerReset n) s = .next t ∧ frame t ∧ t.chip.reg (TMRn_CNT n) = 0 ∧ (old ≠ 0 → Compared c1 t.chip n 0 []) ∧
       (old = 0 → t.chip.tmr = c1.tmr ∧ t.chip.trg = c.trg ∧ c1.BitsKept t.chip []))) ∧
  (∀ (s : State) (n : Fin 16), s.chip.clocked = true →
     let c := s.chip
     let frame (t : State) (k : Nat) : Prop :=
       t = { s with chip := { c with regs := t.chip.regs, tmr := t.chip.tmr, trg := t.chip.trg, ctr := k } }
     let repeats := c.is (TMRn_CFG_PEREN n) = true
     let moved (t : State) (b p : Word) : Prop := t.chip.reg (TMRn_PER n) = p ∧
       (p = 0 ∨ 0 < timeDiff (b + p) (c.reg (TMRn_CNT n)) → t.chip.reg (TMRn_CMP1 n) = b + p ∧ (t.chip.tmrOf n).base = b ∧
         t.chip.trg = c.trg ∧ c.BitsKept t.chip [regField (TMRn_CMP1 n), regField (TMRn_PER n)]) ∧
       (p ≠ 0 → timeDiff (b + p) (c.reg (TMRn_CNT n)) ≤ 0 → LateMatch c t.chip n b p)
     (∀ v : Word, ∃ t, exec (.timerCmp1Write n v) s = .next t ∧ frame t (c.ctr + 1) ∧
       TimerFrame c t.chip n [regField (TMRn_CMP1 n), TMRn_STAT_M1 n, TMRn_STAT_LATE n] ∧
       (¬repeats → t.chip.reg (TMRn_CMP1 n) = v ∧ t.chip.tmr = c.tmr ∧ t.chip.trg = c.trg ∧
         c.BitsKept t.chip [regField (TMRn_CMP1 n)]) ∧
       (repeats → moved t (v - c.reg (TMRn_PER n)) (c.reg (TMRn_PER n)))) ∧
     (∀ v : Word, ∃ t, exec (.timerPerWrite n v) s = .next t ∧ frame t (c.ctr + 1) ∧
       TimerFrame c t.chip n [regField (TMRn_PER n), regField (TMRn_CMP1 n), TMRn_STAT_M1 n, TMRn_STAT_LATE n] ∧
       (¬repeats → t.chip.reg (TMRn_PER n) = v ∧ t.chip.tmr = c.tmr ∧ t.chip.trg = c.trg ∧
         c.BitsKept t.chip [regField (TMRn_PER n)]) ∧
       (repeats → moved t (c.tmrOf n).base v)) ∧
     (c.fld (TMRn_IO_CAPSRC n) ≠ 1 → c.fld (TMRn_IO_CAPSRC n) ≠ 2 → exec (.timerCapture n) s = .next s) ∧
     (c.fld (TMRn_IO_CAPSRC n) = 1 ∨ c.fld (TMRn_IO_CAPSRC n) = 2 → ∃ t, exec (.timerCapture n) s = .next t ∧ frame t c.ctr ∧
       t.chip.tmr = c.tmr ∧
       TimerFrame c t.chip n [regField (TMRn_CAP n), TMRn_STAT_CAP_NEW n, TMRn_STAT_CAP_OVR n] ∧
       t.chip.reg (TMRn_CAP n) = c.reg (TMRn_CNT n) ∧ TimerSays c t.chip n (TMRn_STAT_CAP_NEW n) 3 3 ∧
       (c.is (TMRn_STAT_CAP_NEW n) = true → t.chip.is (TMRn_STAT_CAP_OVR n) = true ∧
         ((c.fld (TMRn_CTL_IE n)).testBit 4 = true → t.chip.isPending (80 + n) = true)) ∧
       (c.is (TMRn_STAT_CAP_NEW n) = false → t.chip.is (TMRn_STAT_CAP_OVR n) = c.is (TMRn_STAT_CAP_OVR n))) ∧
     (∀ dma : Bool,
       let gives (t : State) (w next : Word) : Prop := (∀ j, j ≠ n.val → t.chip.tmrOf j = c.tmrOf j) ∧
         t = { s with chip := { c with
           regs := t.chip.regs, tmr := t.chip.tmr, host := if dma then c.host else { c.host with words := [w] } } } ∧
         t.chip.tmrOf n = if n.val = 15 then c.tmrOf n
           else if dma then { c.tmrOf n with hiDma := next } else { c.tmrOf n with hiHost := next }
       (∃ t, exec (.timerCapRead n dma) s = .next t ∧ gives t (c.reg (TMRn_CAP n)) (c.reg (TMRn_CAP (n + 1))) ∧
         t.chip.is (TMRn_STAT_CAP_NEW n) = false ∧ (n.val < 15 → t.chip.is (TMRn_STAT_CAP_NEW (n + 1)) = false) ∧
         c.BitsKept t.chip (TMRn_STAT_CAP_NEW n :: if n.val < 15 then [TMRn_STAT_CAP_NEW (n + 1)] else [])) ∧
       (∃ t, exec (.timerCntRead n dma) s = .next t ∧ gives t (c.reg (TMRn_CNT n)) (c.reg (TMRn_CNT (n + 1))) ∧
         t.chip.regs = c.regs))) ∧
  (∀ s : State, s.chip.clocked = true → ∃ t, exec .sampleBoundary s = .next t ∧ ∀ n, n < 16 →
     (s.chip.fld (TMRn_CFG_CLK n) = 2 → t.chip.reg (TMRn_CNT n) = s.chip.reg (TMRn_CNT n) +
       if s.chip.is (TMRn_CTL_RUN n) then 1 else 0) ∧
     (s.chip.fld (TMRn_CFG_CLK n) ≠ 2 → s.chip.fld (TMRn_CFG_CLK n) ≠ 5 →
       t.chip.reg (TMRn_CNT n) = s.chip.reg (TMRn_CNT n))) ∧
  (∀ s : State, s.chip.clocked = true →
     (∀ mask : Word, ∃ t, exec (.trgswWrite mask) s = .next t ∧ t.chip.regs = s.chip.regs ∧ t.chip.tmr = s.chip.tmr ∧
       ∀ l, l < 32 → mask.getLsbD l = true → l ∈ t.chip.trg) ∧
     (∀ l : Fin 32, ∃ t, exec (.triggerPulse l) s = .next t ∧ (t.chip.reg TMR_TRGSEEN).getLsbD l = true) ∧
     (∀ (pin : Fin 8) (level : Bool), ∃ t, exec (.gpEdge pin level) s = .next t ∧ t.chip.gpIn.getLsbD pin = level) ∧
     (∀ i ∈ [Instr.tempoStart, .tempoStop, .tempoCont, .tempoTick], ∃ t, exec i s = .next t ∧ t.chip.tmr = s.chip.tmr ∧
       (s.chip.fld TMR_TCFG_SRC = 1 → t.chip.regs = s.chip.regs ∧ t.chip.tempo = s.chip.tempo)))

/-- A write of TRGSW pulses its lines. A pulse sets TRGSEEN and reaches its consumers: it is held for a channel that waits
for it, or lost with TMISS, and each timer with its STRG obeys SMODE and each with its CAPTRG captures, all of them before
the pulse changes a counter or all after. The lines of a cycle whose first pulse has come stand apart from those raised after
it. A GP edge ticks and captures the timers that watch its pin, and counts as a frame edge where the frame sync watches it.
START, STOP and CONT run and halt the internal tempo clock and send 0xFA, 0xFC and 0xFB to the outputs that carry its clock;
they do nothing while an external source is selected. A tick advances TPOS, pulses KTRG, and on a beat BTRG, and sends 0xF8;
an internal clock's tick waits for its sample, and the ticks of an external one come with its bytes. -/
def Obligations.TriggersAndTempo : Prop :=
  (∀ s : State, s.chip.clocked = true →
     let c := s.chip
     let timerFields : List Field := (List.range 16).flatMap fun n =>
       [regField (TMRn_CNT n), regField (TMRn_CMP1 n), regField (TMRn_CAP n), regField (TMRn_STAT n), TMRn_CTL_RUN n, evBit (80 + n)]
     let captured (t : State) (n : Nat) : Prop := t.chip.is (TMRn_STAT_CAP_NEW n) = true ∧
       (c.is (TMRn_STAT_CAP_NEW n) = true → t.chip.is (TMRn_STAT_CAP_OVR n) = true)
     (∀ mask : Word, ∃ t, exec (.trgswWrite mask) s = .next t ∧ t = { s with chip := { c with trg := t.chip.trg } } ∧
       ∀ l, l ∈ t.chip.trg ↔ l ∈ c.trg ∨ (l < 32 ∧ mask.getLsbD l = true)) ∧
     (∀ l : Fin 32, ∃ t, exec (.triggerPulse l) s = .next t ∧
       t = { s with chip := { c with
         regs := t.chip.regs, tmr := t.chip.tmr, trg := t.chip.trg, trgNow := t.chip.trgNow, dma := t.chip.dma
         ctr := c.ctr + 1 } } ∧
       c.BitsKept t.chip (⟨TMR_TRGSEEN, l, 1⟩ :: ((List.range 16).map fun n => DMAn_STAT_TMISS n) ++ timerFields) ∧
       (t.chip.reg TMR_TRGSEEN).getLsbD l = true ∧
       (c.trgNow = [] → ∀ k, k ∈ t.chip.trgNow ↔ k ∈ c.trg ∧ k ≠ l.val) ∧
       (c.trgNow ≠ [] → (∀ k, k ∈ t.chip.trgNow ↔ k ∈ c.trgNow ∧ k ≠ l.val) ∧ ∀ k, k ∈ c.trg → k ∈ t.chip.trg) ∧
       (∀ n, n < 16 → t.chip.dmaOf n = (if c.fld (DMAn_CFG_REQ n) = 32 + l.val ∧ c.fld (DMAn_STAT_STATE n) = 1 then
           { c.dmaOf n with pulse := true } else c.dmaOf n) ∧
         (c.fld (DMAn_CFG_REQ n) = 32 + l.val → c.fld (DMAn_STAT_STATE n) = 1 → (c.dmaOf n).pulse = true →
           t.chip.is (DMAn_STAT_TMISS n) = true)) ∧
       (∀ n, n < 16 →
         let mode := if c.fld (TMRn_CFG_STRG n) = l.val then c.fld (TMRn_CFG_SMODE n) else 0
         let captures := c.fld (TMRn_IO_CAPSRC n) = 1 ∧ c.fld (TMRn_IO_CAPTRG n) = l.val
         let alone := c.fld (TMRn_CFG_CLK n) ≠ 3 ∧ c.fld (TMRn_CFG_CLK n) ≠ 5
         t.chip.is (TMRn_CTL_RUN n) = (if mode = 2 ∨ mode = 3 then true else if mode = 4 then false
           else if mode = 5 then !c.is (TMRn_CTL_RUN n) else c.is (TMRn_CTL_RUN n)) ∧
         (alone → t.chip.reg (TMRn_CNT n) = if mode = 1 ∨ mode = 3 then 0 else c.reg (TMRn_CNT n)) ∧
         (captures → captured t n ∧ (alone → mode ≠ 1 → mode ≠ 3 → t.chip.reg (TMRn_CAP n) = c.reg (TMRn_CNT n))) ∧
         (¬captures → t.chip.reg (TMRn_CAP n) = c.reg (TMRn_CAP n))) ∧
       (let caps := (List.range 16).filter fun n => decide (c.fld (TMRn_IO_CAPSRC n) = 1 ∧ c.fld (TMRn_IO_CAPTRG n) = l.val)
        (∀ n ∈ caps, t.chip.reg (TMRn_CAP n) = c.reg (TMRn_CNT n)) ∨
        (∀ n ∈ caps, t.chip.reg (TMRn_CAP n) = t.chip.reg (TMRn_CNT n)))) ∧
     (∀ (pin : Fin 8) (level : Bool), ∃ t, exec (.gpEdge pin level) s = .next t ∧
       t = { s with chip := { c with
         regs := t.chip.regs, tmr := t.chip.tmr, trg := t.chip.trg, gpIn := t.chip.gpIn, ctr := c.ctr + 1
         clk := { c.clk with fsFrames := t.chip.clk.fsFrames, fsDue := t.chip.clk.fsDue } } } ∧
       (let counts := c.gpIn.getLsbD pin ≠ level ∧ c.is CLK_FSYNC_EN = true ∧ c.fld CLK_FSYNC_PIN = pin.val ∧
          c.is CLK_FSYNC_EDGE = !level
        (¬counts → t.chip.clk = c.clk) ∧
        (counts → c.clk.fsFrames + 1 < max 1 (c.fld CLK_FSRATIO_FRAMES) →
          t.chip.clk = { c.clk with fsFrames := c.clk.fsFrames + 1 }) ∧
        (counts → max 1 (c.fld CLK_FSRATIO_FRAMES) ≤ c.clk.fsFrames + 1 →
          t.chip.clk = { c.clk with fsFrames := 0, fsDue := true })) ∧
       c.BitsKept t.chip timerFields ∧ t.chip.gpIn.getLsbD pin = level ∧
       (∀ j : Fin 8, j ≠ pin → t.chip.gpIn.getLsbD j = c.gpIn.getLsbD j) ∧
       (c.gpIn.getLsbD pin = level → t = { s with chip := { c with ctr := c.ctr + 1 } }) ∧
       (c.gpIn.getLsbD pin ≠ level → ∀ n, n < 16 →
         let watches := c.fld (TMRn_IO_IPIN n) = pin.val ∧ c.is (TMRn_IO_IEDGE n) = !level
         let clk := c.fld (TMRn_CFG_CLK n)
         (clk ≠ 5 → t.chip.reg (TMRn_CNT n) = c.reg (TMRn_CNT n) +
           if watches ∧ clk = 4 ∧ c.is (TMRn_CTL_RUN n) = true then 1 else 0) ∧
         (watches → c.fld (TMRn_IO_CAPSRC n) = 2 → captured t n ∧
           (clk ≠ 4 → clk ≠ 5 → t.chip.reg (TMRn_CAP n) = c.reg (TMRn_CNT n)))))) ∧
  (∀ s : State, s.chip.clocked = true →
     let c := s.chip
     let z := c.tempo
     let internal := c.fld TMR_TCFG_SRC = 0 ∨ 5 ≤ c.fld TMR_TCFG_SRC
     let sent (t : State) (b : Byte) : Prop := ∀ o, o < 2 → tabGet t.chip.ez.outs {} o =
       if c.is (EZ_MO_CLOCK o) = true ∧ c.is (EZ_MO_EN o) = true then
         { tabGet c.ez.outs {} o with clock := (tabGet c.ez.outs {} o).clock ++ [b] } else tabGet c.ez.outs {} o
     let frame (t : State) : Prop := t = { s with chip := { c with
         regs := t.chip.regs, tempo := t.chip.tempo, ez := { c.ez with outs := t.chip.ez.outs } } }
     (∃ t, exec .tempoStart s = .next t ∧ frame t ∧ (¬internal → t = s) ∧ (internal → t.chip.reg TMR_TPOS = 0 ∧
       t.chip.is TMR_TBEAT_RUN = true ∧ t.chip.tempo = { z with beatAt := c.clk.smp + 1 } ∧ sent t 0xFA ∧
       c.BitsKept t.chip [regField TMR_TPOS, TMR_TBEAT_RUN])) ∧
     (∃ t, exec .tempoStop s = .next t ∧ frame t ∧ (¬internal → t = s) ∧ (internal → t.chip.is TMR_TBEAT_RUN = false ∧
       t.chip.tempo = z ∧ sent t 0xFC ∧ c.BitsKept t.chip [TMR_TBEAT_RUN])) ∧
     (∃ t, exec .tempoCont s = .next t ∧ frame t ∧ (¬internal → t = s) ∧ (internal → t.chip.is TMR_TBEAT_RUN = true ∧
       t.chip.tempo = { z with
         beatAt := (c.clk.smp : Int) + 1 - ((c.reg TMR_TPOS).toNat % 24 * z.len / 24 : Nat) } ∧
       sent t 0xFB ∧ c.BitsKept t.chip [TMR_TBEAT_RUN])) ∧
     (let k := (c.reg TMR_TPOS).toNat
      let due := c.is TMR_TBEAT_RUN = true ∧ internal ∧ z.beatAt + (k % 24 * z.len / 24 : Nat) ≤ c.clk.smp
      ∃ t, exec .tempoTick s = .next t ∧ (¬due → t = { s with chip := { c with ctr := c.ctr + 1 } }) ∧
       (due → t.chip.tempo.lastBeat = (if k % 24 = 0 then some c.clk.smp else z.lastBeat) ∧
         t.chip.reg TMR_TPOS = c.reg TMR_TPOS + 1 ∧ sent t 0xF8 ∧
         (c.is TMR_TCFG_KEN = true → c.fld TMR_TCFG_KTRG ∈ t.chip.trg) ∧
         (k % 24 = 0 → c.is TMR_TCFG_BEN = true → c.fld TMR_TCFG_BTRG ∈ t.chip.trg) ∧
         (k % 24 = 0 → internal → t.chip.tempo.len = max (c.fld TMR_TBEAT_LEN) 24) ∧
         (k % 24 ≠ 0 → t.chip.tempo.len = z.len) ∧
         c.BitsKept t.chip [regField TMR_TPOS] ∧
         t = { s with chip := { c with
           regs := t.chip.regs, tempo := t.chip.tempo, trg := t.chip.trg, parts := t.chip.parts
           ez := { c.ez with outs := t.chip.ez.outs }, ctr := c.ctr + 1 } })))

/-! ### The host port, register writes and the event controller (R8, R504 to R522, R657) -/

/-- WR and WRF post their words in order, at ascending addresses or one address. A misaligned address writes nothing, with WHY
2; words that find the queue of 64 full behind a word that waits are refused, with WHY 7, while a full queue whose first word has room
in its target makes room; one cut short is discarded, with WHY 3; in Hold only PWR_CTL
is written, and any other word is refused, with WHY 4. A posted word lands as the write of its register or memory word, in
order, and waits at the head while its region's buffer is full. A word outside the map is refused with WHY 4, counted once for
its transaction. -/
def Obligations.HostWrites : Prop :=
  (∀ (s : State) (a : Word) (words : List Word) (cut fixed : Bool), s.chip.portOpen = true →
     let c := s.chip
     let step : Word := if fixed then 0 else 4
     let q := c.host.queue
     let frame (t : State) : Prop := HostBegins c t.chip ∧
       t = { s with chip := hostFrame c t.chip { c.host with posted := t.chip.host.posted } } ∧
       c.BitsKept t.chip (HST_STAT_WIDTH_ACT :: hostErrBits)
     let blocked := ∃ (p : Posted) (rest : List Posted), q = p :: rest ∧ 0x1000000 ≤ p.addr.toNat ∧ p.addr.toNat < 0x2000000 ∧
       c.bankRefused .host p.addr.toNat = false ∧ 32 ≤ (c.rm (bankRegion p.addr.toNat)).wbuf.length
     ∃ t, exec (if fixed then .wrf a words cut else .wr a words cut) s = .next t ∧
       (a.toNat % 4 ≠ 0 → frame t ∧ t.chip.postedWords = c.postedWords ∧ HostErrs c t.chip (if cut then 3 else 2)) ∧
       (a.toNat % 4 = 0 → c.pwrState < 2 → q.length ≤ 64 → words.length ≤ 64 - q.length ∨ blocked →
         let n := min words.length (64 - q.length)
         frame t ∧ t.chip.host.posted = c.host.posted + n ∧
         t.chip.postedWords = c.postedWords ++
           (List.range n).map (fun i => (c.host.txn + 1, a + BitVec.ofNat 32 i * step, words.getD i 0)) ∧
         (words.length ≤ 64 - q.length → cut = false → t.chip.host.err = false ∧
           t.chip.fld HST_CNT_ERRS = c.fld HST_CNT_ERRS ∧ c.BitsKept t.chip [HST_STAT_WIDTH_ACT]) ∧
         (64 - q.length < words.length → cut = false → HostErrs c t.chip 7) ∧ (cut = true → HostErrs c t.chip 3)) ∧
       (∀ (p : Posted) (rest : List Posted) (v : Word), a.toNat % 4 = 0 → c.pwrState < 2 → q = p :: rest → q.length = 64 →
         words = [v] → cut = false → c.bankOpen p.addr.toNat → (c.rm (bankRegion p.addr.toNat)).wbuf.length < 32 →
         HostBegins c t.chip ∧ t.chip.host.err = false ∧ t.chip.postedWords = c.postedWords.drop 1 ++ [(c.host.txn + 1, a, v)] ∧
         (t.chip.rm (bankRegion p.addr.toNat)).wbuf = (c.rm (bankRegion p.addr.toNat)).wbuf ++ [(p.addr.toNat, p.value)] ∧
         s.SameStore t ∧ c.BitsKept t.chip [HST_STAT_WIDTH_ACT]) ∧
       (a.toNat % 4 = 0 → 2 ≤ c.pwrState → a.toNat ≠ PWR_CTL → ∀ w, words = [w] → frame t ∧
         t.chip.postedWords = c.postedWords ∧ (cut = false → HostErrs c t.chip 4))) ∧
  (∀ (s : State) (p : Posted) (rest : List Posted) (same : Word), s.chip.clocked = true → s.chip.host.queue = p :: rest →
     let c := s.chip
     let a := p.addr.toNat
     let popped : State := { s with chip := { c with host := { c.host with queue := rest, landed := c.host.landed + 1 } } }
     let waits := 0x1000000 ≤ a ∧ a < 0x2000000 ∧ c.bankRefused .host a = false ∧ 32 ≤ (c.rm (bankRegion a)).wbuf.length
     (waits → exec (.postedWriteLand same) s = .next { s with chip := { c with ctr := c.ctr + 1 } }) ∧
     (¬waits → a % 4 = 0 → (popped.busWrite .host a (keepSame a p.value same)).1 = false →
       exec (.postedWriteLand same) s = exec (.registerWrite false p.addr ⟨p.value, same⟩) popped) ∧
     (placeOf a = .outside → ∃ t, exec (.postedWriteLand same) s = .next t ∧ t.chip.is HST_STAT_ERR = true ∧
       t.chip.fld HST_STAT_WHY = 4 ∧ t.chip.host.err = true ∧ t.chip.isPending 8 = true ∧
       (p.counted = false → HostErrs c t.chip 4 ∧ ∀ x ∈ t.chip.host.queue, x.txn = p.txn → x.counted = true) ∧
       (p.counted = true → t.chip.fld HST_CNT_ERRS = c.fld HST_CNT_ERRS) ∧
       t.chip.postedWords = popped.chip.postedWords ∧
       t = { s with chip := { c with
         regs := t.chip.regs, ctr := c.ctr + 1
         host := { c.host with queue := t.chip.host.queue, landed := c.host.landed + 1, err := true } } } ∧
       c.BitsKept t.chip hostErrBits))

/-- A write of a register stores its RW fields, clears the W1C bits where a 1 is written, but none whose setting event falls
in the same cycle, and leaves the rest. A write of a bank word enters its region's buffer, a protected one is refused with
source 108; an xSPI window refuses its write with WERR and WHY 4; an unassigned address changes nothing; a misaligned host write ends
with WHY 2 and one outside the map with WHY 4. A write of a bus gain register keeps all but its reserved bits [31:28], and its ramp
waits for the boundary. -/
def Obligations.RegisterWrites : Prop :=
  (∀ (s : State) (dma : Bool) (a v same : Word), s.chip.clocked = true →
    let c := s.chip
    let n := a.toNat
    let r := bankRegion n
    let regsOnly (t : State) (l : List Field) : Prop :=
      t = { s with chip := { c with regs := t.chip.regs, ctr := c.ctr + 1 } } ∧ c.BitsKept t.chip l
    let refused (t : State) (why : Nat) (l : List Field) : Prop := HostErrs c t.chip why ∧
      t = { s with chip := { c with regs := t.chip.regs, ctr := c.ctr + 1, host := { c.host with err := true } } } ∧
      c.BitsKept t.chip (hostErrBits ++ l)
    ∃ t, exec (.registerWrite dma a ⟨v, same⟩) s = .next t ∧
      (n ∈ plainRegs → ∀ d, findReg n = some d → regsOnly t [regField n] ∧
        ∀ i, (t.chip.reg n).getLsbD i = if d.rw.testBit i then v.getLsbD i
          else (c.reg n).getLsbD i && !(d.w1c.testBit i && v.getLsbD i && !same.getLsbD i)) ∧
      (placeOf n = .unassigned → n % 4 = 0 → regsOnly t []) ∧
      (∀ x : Fin 2, placeOf n = .window x → n % 4 = 0 → t.chip.is (XS_STAT_WERR x) = true ∧ s.SameStore t ∧
        (dma = false → refused t 4 [XS_STAT_WERR x])) ∧
      (placeOf n = .param → n % 4 = 0 →
        t = { s with chip := { c.paramWrite ((n - 0x100000) / 4) v with ctr := c.ctr + 1 } }) ∧
      (placeOf n = .bank → n % 4 = 0 → c.bankRefused .host n = false → (c.rm r).wbuf.length < 32 →
        (t.chip.rm r) = { c.rm r with wbuf := (c.rm r).wbuf ++ [(n, v)] } ∧ (∀ q, q ≠ r → t.chip.rm q = c.rm q) ∧
        t.chip.fld (RGNn_MSTAT_WBOCC r) = (c.rm r).wbuf.length + 1 ∧ c.BitsKept t.chip [RGNn_MSTAT_WBOCC r] ∧
        t = { s with chip := { c with regs := t.chip.regs, rmem := t.chip.rmem, ctr := c.ctr + 1 } }) ∧
      (placeOf n = .bank → n % 4 = 0 → c.bankRefused .host n = true → t.mem = s.mem ∧ t.chip.rmem = c.rmem ∧
        t.chip.isPending 108 = true ∧ (dma = false → refused t 4 [evBit 108])) ∧
      (dma = false → n % 4 ≠ 0 → refused t 2 []) ∧ (dma = false → placeOf n = .outside → n % 4 = 0 → refused t 4 [])) ∧
  (∀ (s : State) (i : Fin 96) (v : Word), s.chip.clocked = true → ∃ t, exec (.busGainWrite i v) s = .next t ∧
    let reg := if i.val < 64 then CNV_RBG i else CNV_CBG (i - 64)
    t.chip.reg reg = v &&& 0x0FFFFFFF ∧ i.val ∈ t.chip.cnv.gainPend ∧ s.chip.BitsKept t.chip [regField reg] ∧ s.SameStore t)

/-- RD and RDF return the words at their addresses, once every posted word has landed: of the banks the latest written, of a
register what it holds, of the queue of an input its oldest words, 0 at an unassigned address, and the flash's in an xSPI
window, once no program or erase runs on its port, where 0xFF follows after 16 words, with WHY 5. A misaligned read returns
zeros, with WHY 2, and a refused word is 0, with WHY 4. EVA, EVB and EVC offer their frames to the lane they name, one after
the other; a bad selector ends with WHY 6 and a frame cut short with WHY 3, and nothing is queued of it. NOP returns its
status byte alone, and cut short it leaves ERR and REJ as they stand; the width reset selects 1 bit, an RDF whose first clocks are a
width reset is one, and an unknown command ends with WHY 1. The command bytes are those of R507. -/
def Obligations.HostReadsAndEvents : Prop :=
  (∀ (s : State) (a : Word) (count : Nat) (cut fixed : Bool), s.chip.portOpen = true →
     let c := s.chip
     let n := a.toNat
     let addr (i : Nat) : Nat := if fixed then n else (n + 4 * i) % 2 ^ 32
     let all (l : List Word) : List Word := if cut then l.dropLast else l
     let frame (t : State) (l : List Word) : Prop := HostBegins c t.chip ∧ t.chip.host.words = all l ∧
       t = { s with chip := hostFrame c t.chip { c.host with words := all l } } ∧ t.chip.postedWords = c.postedWords ∧
       c.BitsKept t.chip (HST_STAT_WIDTH_ACT :: hostErrBits)
     let clean (t : State) : Prop := t.chip.host.err = false ∧ t.chip.fld HST_CNT_ERRS = c.fld HST_CNT_ERRS
     let resets := fixed = true ∧ c.is HST_CFG_WIDTH = true ∧ a &&& 0x11111100 = 0x11111100
     (resets → exec (.rdf a count cut) s = exec .widthReset s) ∧
     (¬resets → ∃ t, exec (if fixed then .rdf a count cut else .rd a count cut) s = .next t ∧
       (n % 4 ≠ 0 → frame t (List.replicate count 0) ∧ HostErrs c t.chip 2) ∧
       (n % 4 = 0 → c.pwrState < 2 → c.buffersSound → (∀ i, i < count → c.bankOpen (addr i)) →
         (∀ p ∈ c.host.queue, c.bankOpen p.addr.toNat) → (∀ i, i < count → s.quietRead (addr i)) → HostBegins c t.chip ∧ clean t ∧ t.chip.host.queue = [] ∧
         t.chip.host.landed = c.host.landed + c.host.queue.length ∧
         t.chip.host.words = all ((List.range count).map fun i =>
           match (c.host.queue.filter fun p => decide (p.addr.toNat = addr i)).getLast? with
           | some p => p.value
           | none => s.portWord (addr i)) ∧
         t = { s with mem := t.mem, chip := { c with
           regs := t.chip.regs, ctr := t.chip.ctr, rmem := t.chip.rmem, rep := t.chip.rep, host := t.chip.host
           pwr := { c.pwr with dozing := t.chip.pwr.dozing, point := t.chip.pwr.point } } }) ∧
       (n % 4 = 0 → c.pwrState < 2 → c.host.queue = [] →
         (n ∈ plainReads → count = 1 → clean t ∧ frame t [t.chip.reg n]) ∧
         ((∀ i, i < count → placeOf (addr i) = .unassigned) → clean t ∧ frame t (List.replicate count 0)) ∧
         (0 < count → (∀ i, i < count → placeOf (addr i) = .outside) → HostErrs c t.chip 4 ∧ frame t (List.replicate count 0)) ∧
         (∀ x : Fin 2, c.is (XS_STAT_NODEV x) = false → c.is (XS_STAT_FBUSY x) = false → (c.xs x).fails = 0 →
           placeOf n = .window x → (∀ i, i < 16 → placeOf (addr i) = .window x) →
           frame t ((List.range (min count 16)).map (fun i => s.nv.flashWord x (addr i % 0x4000000)) ++
             List.replicate (count - 16) 0xFFFFFFFF) ∧
           (count ≤ 16 → clean t) ∧ (16 < count → HostErrs c t.chip 5)) ∧
         (∀ x : Fin 2, 0 < count → c.is (XS_STAT_NODEV x) = false → placeOf n = .window x →
           (∀ i, i < 16 → placeOf (addr i) = .window x) → (t.chip.xs x).fails = 0 ∧
           t.chip.host.words = all ((List.range (min count 16)).map (fun i => t.nv.flashWord x (addr i % 0x4000000)) ++
             List.replicate (count - 16) 0xFFFFFFFF) ∧
           (∀ o, (c.xs x).op = some o → c.is (XS_STAT_FBUSY x) = true →
             (t.nv = s.nv ∨ t.nv = s.nv.xsApply x o) ∧ t.chip.is (XS_STAT_FBUSY x) = false)) ∧
         (∀ k : Fin 16, fixed = true → n = AI_DATA k → count ≤ (c.aiOf k).queue.length → (c.aiOf k).drain = 0 → clean t ∧
           t.chip.host.words = all ((c.aiOf k).queue.take count) ∧ (t.chip.aiOf k).queue = (c.aiOf k).queue.drop count)) ∧
       (n % 4 = 0 → 2 ≤ c.pwrState → count = 1 → (n = PWR_STAT → clean t ∧ frame t [c.reg PWR_STAT]) ∧
         (n ≠ PWR_STAT → HostErrs c t.chip 4 ∧ frame t [0])))) ∧
  (∀ s : State, s.chip.portOpen = true →
     let c := s.chip
     let bits : List Field := HST_STAT_WIDTH_ACT :: hostErrBits
     let quiet (t : State) : Prop := HostBegins c t.chip ∧ t = { s with chip := hostFrame c t.chip c.host } ∧
       t.chip.postedWords = c.postedWords ∧ c.BitsKept t.chip bits
     let clean (t : State) : Prop := t.chip.host.err = false ∧ t.chip.fld HST_CNT_ERRS = c.fld HST_CNT_ERRS
     (∀ (lane : Fin 3) (sel : Word) (words : List Word) (cut : Bool),
       ∃ t, exec (if lane = 0 then .eva sel words cut else if lane = 1 then .evb sel words cut else .evc sel words cut) s =
           .next t ∧
         (c.pwrState < 2 → sel ≠ 0 → sel ≠ 0x10000000 → quiet t ∧ HostErrs c t.chip 6) ∧
         (c.pwrState < 2 → sel = 0 → words ≠ [] → words.length < frameLen lane words → quiet t ∧ HostErrs c t.chip 3) ∧
         (∀ n, c.pwrState < 2 → sel = 0 → lane.val < 2 → words.length = 3 * n →
           (c.ez.lane lane).length + n ≤ (if lane = 0 then 128 else 256) → (cut = false → clean t) ∧
           (cut = true → HostErrs c t.chip 3) ∧ HostBegins c t.chip ∧ t.chip.postedWords = c.postedWords ∧
           (t.chip.ez.lane lane).map (fun e => (e.words, e.ump)) = (c.ez.lane lane).map (fun e => (e.words, e.ump)) ++
             (List.range n).map (fun i => ((words.drop (3 * i)).take 3, false)) ∧
           (∀ l, l < 3 → l ≠ lane.val → t.chip.ez.lane l = c.ez.lane l) ∧
           t = { s with chip := { hostFrame c t.chip { c.host with rejecting := t.chip.host.rejecting } with ez := t.chip.ez } } ∧
           c.BitsKept t.chip bits)) ∧
     (∃ t, exec (.hostNop false) s = .next t ∧ quiet t ∧ (c.pwrState < 2 → clean t) ∧
       (2 ≤ c.pwrState → HostErrs c t.chip 4)) ∧
     (c.pwrState < 2 → ∃ t, exec (.hostNop true) s = .next t ∧ t.chip.fld HST_STAT_WIDTH_ACT = c.fld HST_CFG_WIDTH ∧
       c.BitsKept t.chip [HST_STAT_WIDTH_ACT] ∧ t = { s with chip := { c with
         regs := t.chip.regs, ctr := c.ctr + 1, host := { c.host with txn := c.host.txn + 1 } } }) ∧
     (∀ (b : Byte) (a : Word) (words : List Word) (n : Nat) (cut : Bool),
       hostCommand b a words n cut = .unknownCommand b ↔ b ∉ [0x00, 0x02, 0x12, 0x0B, 0x1B, 0x20, 0x21, 0x22, 0xFF]) ∧
     (∀ (a : Word) (words : List Word) (n : Nat) (cut : Bool), hostCommand 0x02 a words n cut = .wr a words cut ∧
       hostCommand 0x12 a words n cut = .wrf a words cut ∧ hostCommand 0x0B a words n cut = .rd a n cut ∧
       hostCommand 0x1B a words n cut = .rdf a n cut ∧ hostCommand 0x00 a words n cut = .hostNop cut ∧
       hostCommand 0x20 a words n cut = .eva a words cut ∧ hostCommand 0x21 a words n cut = .evb a words cut ∧
       hostCommand 0x22 a words n cut = .evc a words cut ∧ hostCommand 0xFF a words n cut = .widthReset) ∧
     (∃ t, exec .widthReset s = .next t ∧ t.chip.host.txn = c.host.txn + 1 ∧ t.chip.host.status = c.host.status ∧
       (2 ≤ c.pwrState → HostErrs c t.chip 4) ∧ c.BitsKept t.chip (HST_CFG_WIDTH :: bits) ∧
       (c.pwrState < 2 → t = { s with chip := { c with
         regs := t.chip.regs, ctr := c.ctr + 1, host := { c.host with txn := c.host.txn + 1 } } } ∧
         t.chip.fld HST_CFG_WIDTH = 0 ∧ t.chip.fld HST_STAT_WIDTH_ACT = 0)) ∧
     (∀ cmd : Byte, cmd ∉ [0x00, 0x02, 0x12, 0x0B, 0x1B, 0x20, 0x21, 0x22, 0xFF] →
       ∃ t, exec (.unknownCommand cmd) s = .next t ∧ t = { s with chip := hostFrame c t.chip c.host } ∧
         t.chip.postedWords = c.postedWords ∧ c.BitsKept t.chip bits ∧ t.chip.host.txn = c.host.txn + 1 ∧
         HostErrs c t.chip (if 2 ≤ c.pwrState then 4 else 1) ∧
         (c.fld HST_CFG_WIDTH = 0 → HostBegins c t.chip) ∧ (c.fld HST_CFG_WIDTH = 1 → t.chip.host.status = c.host.status)))

/-- Raising a source, by its owner or by EVC_RAISE, sets its pending bit and nothing else. Outside Hold an IRQ pin is asserted
while a pending source is enabled to it, and EVC_NEXT names the lowest of them. A reset pull is present on every digital signal pin
while VIN and VIO are, except on a pin that the device drives, and on an IRQ pin from step 0x06; HRDY reads low until its port opens.
-/
def Obligations.EventSources : Prop :=
  (∀ (s : State) (i : BitVec 7) (raise : Bool), s.chip.clocked = true →
    ∃ t, exec (if raise then .evcRaise i else .eventSourceRaise i) s = .next t ∧ OnlyFields s t [evBit i.toNat] ∧
      t.chip.isPending i.toNat = true) ∧
  (∀ (c : Chip) (k : Nat), k < 2 → c.pwr.irqHold = none →
    let active (n : Nat) : Prop := c.isPending n = true ∧ (c.reg (if k = 0 then EVC_EN0 (n / 32) else EVC_EN1 (n / 32))).getLsbD (n % 32) = true
    (c.irq k = true ↔ ∃ n, n < 128 ∧ active n) ∧
    (∀ n, n < 128 → active n → (∀ m, m < n → ¬active m) → c.evcNext k = BitVec.ofNat 32 (2 ^ 31 + n)) ∧
    ((∀ n, n < 128 → ¬active n) → c.evcNext k = 0)) ∧
  (∀ (c : Chip) (vio : Bool) (p : Pin),
    let irq := ∃ k, p = .irq k
    (c.pwr.vin = false ∨ vio = false → c.pull vio p = none) ∧ (c.drives p = true → c.pull vio p = none) ∧
    (irq → c.portOpen = true → c.pull vio p = none) ∧
    (c.pwr.vin = true → vio = true → c.drives p = false → ¬irq ∨ c.portOpen = false → c.pull vio p = p.resetPull) ∧
    (c.pwr.vin = true → vio = true → c.portOpen = false → c.hrdyPin vio = some false) ∧
    (∀ q : Fin 4, (c.saOf q).running = false → c.drives (.saBck q) = false ∧ c.drives (.saFs q) = false ∧ c.drives (.saD q) = false) ∧
    (∀ q : Fin 4, c.alive = true → q.val < 2 → (c.saOf q).running = true → c.drives (.saD q) = true))

/-! ### Resets and boot (R526 to R545, R563, R593, R597) -/

/-- The resets of R526. While the attempt that follows waits in its first step, the device is as R527 says: TB counts on
through a software reset and a logic fault and is 0 after the others, the cause and the attempt are recorded, and what was
under way counts as failed. VIN's loss takes the keep-alive domain too; its rise only ends that; and the ninth attempt in a
row stands aside. While VIN or BKC holds the device in reset, VIO's loss is kept: the release is then recorded as a pin reset. -/
def Obligations.ResetsTaken : Prop :=
  ∀ (s : State) (e : BootEnv),
    let c := s.chip
    let b := c.boot
    let only (i : Instr) : Prop := exec i s = .next { s with chip := { c with ctr := c.ctr + 1 } }
    (c.pwr.vin = true → ∃ t, exec .vinLoss s = .next t ∧ t.mem = {} ∧ t.pending = s.pending ∧ t.chip.pwr.vin = false ∧
      (∀ a, t.chip.reg a = regReset a) ∧ t.chip = { ({} : Chip) with
        regs := t.chip.regs, ctr := t.chip.ctr, cvg := cvGroupsReset, gpIn := c.gpIn, pwr := { vin := false, rest := false }
        boot := { step := 0, attempts := 0, boots := 0 } } ∧ s.nv.Forward t.nv) ∧
    (c.pwr.vin = false → exec .vinRising s = .next { s with chip := { c with
      pwr := { c.pwr with vin := true, rest := true, held := true }, ctr := c.ctr + 1 } }) ∧
    (e.stall = some 1 → b.attempts ≠ 8 →
      (c.pwr.vin = true → b.buckOff = false → ∃ t, exec (.brownOut e) s = .next t ∧
        ResetTaken s t (if c.pwr.vioLow then 2 else if c.pwr.held then 0 else 1) 0 e b) ∧
      (c.clocked = true → ∀ v : Word, fieldOf v 16 16 = 0xB007 → v.getLsbD 0 = true →
        ∃ t, exec (.softwareReset v e) s = .next t ∧ ResetTaken s t 3 c.clk.tb e b) ∧
      (c.clocked = true → (∃ t, exec (.faultReset true e) s = .next t ∧ ResetTaken s t 4 c.clk.tb e b ∧
          t.chip.fld CHIP_FAULT_CODE = 0x41) ∧
        (b.chip = 0x40 → ∃ t, exec (.faultReset false e) s = .next t ∧ ResetTaken s t 4 0 e b ∧
          t.chip.fld CHIP_FAULT_CODE = 0x40)) ∧
      (c.pwr.vin = true → b.buckOff = true → ∃ t, exec (.bkcReturn e) s = .next t ∧
        ResetTaken s t (if c.pwr.vioLow then 2 else 1) 0 e { b with buckOff := false })) ∧
    (c.pwr.vin = true → c.pwr.held = false → e.stall = some 1 →
      let b' : BootRec := if b.step = 0x0F then { b with attempts := 0 } else b
      b'.attempts ≠ 8 → (∃ t, exec (.pinReset e) s = .next t ∧ ResetTaken s t 2 0 e b') ∧
        (∃ t, exec (.vioLoss e) s = .next t ∧ ResetTaken s t 2 0 e b')) ∧
    (c.clocked = true → ∀ v : Word, fieldOf v 16 16 = 0xB007 → v.getLsbD 0 = true → b.attempts = 8 →
      ∃ t, exec (.softwareReset v e) s = .next t ∧ t.chip.boot.step = 0x0F ∧ t.chip.boot.attempts = 8 ∧ t.mem = {} ∧
        t.chip.is PWR_BUCK_BKC_OK = false) ∧
    (c.pwr.vin = true → b.buckOff = true → only (.brownOut e)) ∧ (c.pwr.vin = true → b.buckOff = false → only (.bkcReturn e)) ∧
    (c.pwr.vin = true → c.pwr.held = true → only (.pinReset e) ∧
      exec (.vioLoss e) s = .next { s with chip := { c with pwr := { c.pwr with vioLow := true }, ctr := c.ctr + 1 } }) ∧
    (c.clocked = true → b.chip ≠ 0x40 → only (.faultReset false e))

/-- BOOT_CTL. A write that R545 turns away sets CMDREJ and ends with WHY 4, and nothing else happens. CLRHIST clears levels,
marks, CLEAN and ATTEMPTS. In step 0x0A CONT goes on to step 0x0B and LOAD starts the load of its slot, which may have come
as far as its protection. A step that takes too long fails, steps 0x07 to 0x09 with reason 0x20 and the others with the one
that assumption 61 names, and runs again at the level above the one in use; one of the first three with none left stands
aside. A run-time load waits until the engine has stopped and nothing is loaded. Then it erases the content and loads its
slot, once a command under way on its flash has ended: an image that fails a check leaves nothing in force, marks the slot
and records the reason; one that passes is in force with its protection, its banks and its mode, and ESTOP clears. Source 11
rises either way. -/
def Obligations.BootAndRuntimeLoads : Prop :=
  (∀ (s : State) (e : BootEnv) (v : Word),
     let c := s.chip
     let b := c.boot
     let bit (i : Nat) : Bool := v.getLsbD i
     let refused := fieldOf v 16 16 ≠ 0xB007 ∨ bit 0 = false ∧ (bit 1 = true ∧ b.step ≠ 0x0A ∨
       bit 2 = true ∧ b.step ≠ 0x0A ∧ b.step ≠ 0x0E ∨ fieldOf v 8 2 = 3 ∨ bit 2 = true ∧ bit 1 = true)
     let b1 : BootRec := if bit 4 then { b with levels := [], marks := [], clean := 0, badBucks := [], attempts := 0 } else b
     (c.clocked = true → (∀ i ∈ [Instr.softwareReset v e, .bootCont v e, .bootLoad v e, .clrhist v], refused → ∃ t, exec i s = .next t ∧
       HostErrs c t.chip 4 ∧ t.chip.is BOOT_STAT_CMDREJ = true ∧ c.BitsKept t.chip (BOOT_STAT_CMDREJ :: hostErrBits) ∧
       t = { s with chip := { c with regs := t.chip.regs, ctr := c.ctr + 1, host := { c.host with err := true } } }) ∧
     (¬refused → bit 0 = false → bit 1 = false → bit 2 = false →
       exec (.clrhist v) s = .next { s with chip := { c with boot := b1, ctr := c.ctr + 1 } }) ∧
     (¬refused → bit 0 = false → bit 1 = true → e.stall = some 0x0B →
       exec (.bootCont v e) s = .next { s with chip := { c with boot := { b1 with step := 0x0B }, ctr := c.ctr + 1 } }) ∧
     (¬refused → bit 0 = false → bit 2 = true → b.step = 0x0A → e.stall = some 0x0C → ∃ t, exec (.bootLoad v e) s = .next t ∧
       t.chip.boot.step = 0x0C ∧ t.chip.boot.loading.map (·.1) = some (fieldOf v 8 2) ∧
       t.chip.boot.levels = b1.levels ∧ t.chip.boot.marks = b1.marks ∧ t.mem = s.mem ∧
       t = { s with nv := t.nv, chip := { c with
         boot := t.chip.boot, ctr := c.ctr + 1, saf := { c.saf with prot := t.chip.saf.prot } } } ∧
       (t.chip.saf.prot = c.saf.prot ∨ t.chip.saf.prot = true ∧ imgFlag (s.image (fieldOf v 8 2)) 2 = true) ∧
       t.nv = { s.nv with xa := t.nv.xa } ∧ (b.logOn = false → t.nv = s.nv)) ∧
     (¬refused → bit 0 = false → bit 2 = true → b.step = 0x0E → ∃ t, exec (.bootLoad v e) s = .next t ∧
       t.chip.boot.step = 0x0E ∧ t.chip.boot.loading.map (·.1) = some (fieldOf v 8 2) ∧ t.mem = s.mem ∧
       (c.stopped = false → t.chip.is CLK_CFG_ESTOP = true) ∧ (c.stopped = true → t.chip.pal.loaded = false))) ∧
     (c.alive = true → (b.underWay = none → exec (.bootStepTimeout e) s = .next { s with chip := { c with ctr := c.ctr + 1 } }) ∧
      (∀ k, b.loading = none → b.underWay = some k → k ≠ 0x0C → e.stall = some k →
       let used := if k = 7 ∧ b.straps / 2 % 2 = 1 then max 1 (tabGet b.levels 0 7) else tabGet b.levels 0 k
       used < maxLevel k →
       ∃ t, exec (.bootStepTimeout e) s = .next t ∧ t.chip.boot.step = k ∧ t.chip.boot.fstep = k ∧
         t.chip.boot.reason = timeoutReason k ∧ (7 ≤ k → k ≤ 9 → t.chip.boot.reason = 0x20) ∧
         tabGet t.chip.boot.levels 0 k = used + 1 ∧ t.chip.isPending 10 = true ∧ t.mem = s.mem) ∧
      (∀ k, b.loading = none → b.underWay = some k → k ≤ 3 → maxLevel k ≤ tabGet b.levels 0 k →
       ∃ t, exec (.bootStepTimeout e) s = .next t ∧ t.chip.boot.step = 0x0F ∧ t.chip.boot.fstep = k ∧
         t.chip.boot.reason = timeoutReason k ∧ t.mem = {} ∧ t.chip.is PWR_BUCK_BKC_OK = false))) ∧
  (∀ s : State, s.chip.clocked = true →
     let c := s.chip
     let ready := c.boot.step = 0x0E ∧ c.clk.stopAt = none ∧ c.pal.loaded = false
     (c.boot.loading = none ∨ ¬ready → exec .runtimeLoadEnd s = .next { s with chip := { c with ctr := c.ctr + 1 } }) ∧
     (∀ slot hcrc, c.boot.loading = some (slot, hcrc) → ready →
       let u := s.flashFree slot
       let image := u.image slot
       ∃ t, exec .runtimeLoadEnd s = .next t ∧ t.chip.isPending 11 = true ∧ t.chip.boot.loading = none ∧ t.chip.boot.step = 0x0E ∧
         (∀ reason sec, loadImage (u.loadCtx slot) image = .error (reason, sec) → t.mem = {} ∧ t.chip.pal.loaded = false ∧
           t.chip.boot.fstep = 0x0C ∧ t.chip.boot.reason = reason ∧ t.chip.boot.section_ = sec ∧
           tabGet t.chip.boot.marks {} slot = { marked := true, hcrc := imgHcrc image, reason := reason } ∧
           t.chip.isPending 10 = true ∧ t.chip.parts = c.parts ∧
           (∀ k, (t.chip.blk k).pm0 = (if k < 96 then [] else (c.blk k).pm0) ∧
             (t.chip.blk k).pm1 = (if k < 96 then [] else (c.blk k).pm1))) ∧
         (∀ x, loadImage (u.loadCtx slot) image = .ok x → tabGet t.chip.boot.marks {} slot = {} ∧
           t.mem.ecc = [] ∧ (c.pwr.oos = [] → x.regs = [] → t.mem.banks = x.banks) ∧ t.chip.saf.prot = imgFlag image 2 ∧
           t.chip.is CLK_CFG_ESTOP = false ∧
           (x.regs = [] → t.chip.pal = x.pal ∧ (∀ d ∈ x.parts, (t.chip.part d.id).exists_ = true) ∧
             (c.stopped = true → x.mode < 3 → t.chip.fld CLK_CFG_EMODE = x.mode ∧ t.chip.clk.restart = true)))))

/-! ### Faults, spares and the cell walk (R541, R548 to R570) -/

/-- A block that does not acknowledge an entry selected for it, and one whose load or wake runs too long, fails with code
0x20, unless it is halted; the note-ons that wait for it to empty go back to the allocator with its other entries. At the
boundary at which its held fade begins it reads failed and empty. Once the held fade of a failed block has run its 32
samples, a free spare answers for it and wakes over the load path: region code 0x32, every block register at its reset value
but the record of the failure, the generations kept. With no spare free the region records 0x33 and counts the block out; so
does one out of service, with no code. Nothing ends before. Port B takes a grant back with region code 0x35 and the master
named: the host's access ends with WHY 4, the DMA engine's transfer stops with WHY 7, the Restorer's step moves to phase 3,
and a load fails with reason 0x20. A command that holds an xSPI port too long ends and counts in TOUT. -/
def Obligations.BlockFaultsAndSpares : Prop :=
  (∀ (s : State) (r : Fin 4) (b : Fin 24), s.chip.clocked = true →
     let c := s.chip
     let k := blkKey r b
     let x := c.blk k
     let bits : List Field := blkFaultBits r b ++ [regField (CNV_BFADE r), regField RST_CPOS, BLK_SCST_TEST r b
       , RGNn_RDY_OCC r, RGNn_RDY_PEAK r, RGNn_STRSTAT_RINGS r]
     let fails (t : State) : Prop := s.SameStore t ∧ BlockFails c t.chip r b ∧ c.BitsKept t.chip bits
     let able := x.halted = false ∧ x.fenced = false ∧ x.st ≠ .failed
     ((∃ e ∈ (c.rgn r).sel, e.block = b.val) → able → ∃ t, exec (.dispatchRevoke r b) s = .next t ∧ fails t) ∧
     ((∀ e ∈ (c.rgn r).sel, e.block ≠ b.val) ∨ ¬able → exec (.dispatchRevoke r b) s = .next s) ∧
     (∀ q rest, (c.rgn r).loads = q :: rest → q.block = b.val →
       (q.running = true → able → ∃ t, exec (.loadPathRevoke r) s = .next t ∧ fails t) ∧
       (q.running = false ∨ ¬able → exec (.loadPathRevoke r) s = .next s)) ∧
     ((c.rgn r).loads = [] → exec (.loadPathRevoke r) s = .next s) ∧
     (∀ f, tabGet c.cnv.fades none k = some f → f.heldKind = true → f.start = c.clk.smp + 1 → x.st ≠ .failed →
       ∃ t, exec .sampleBoundary s = .next t ∧ (t.chip.blk k).st = .failed ∧ (t.chip.blk k).content = none ∧
         t.chip.isPending (112 + 4 * r) = true)) ∧
  (∀ (s : State) (r : Fin 4) (b : Fin 24) (f : BlockFade), s.chip.clocked = true →
     let c := s.chip
     let k := blkKey r b
     let x := c.blk k
     let free := c.fld (RGNn_SPARE_FREE r)
     let n := if free = 1 ∧ c.fld (RGNn_SPARE_SB0 r) ≠ 0x1F then 1 else 0
     let out := c.fld (RGNn_SPARE_OUT r) + 1
     let shown : List Field := [RGNn_FAULT_CODE r, RGNn_FAULT_FAULT r, RGNn_FAULT_BLOCK r, evBit (115 + 4 * r)]
     tabGet c.cnv.fades none k = some f → f.heldKind = true →
     (x.st ≠ .failed ∨ x.fenced = false ∨ c.clk.smp < f.start + 32 → exec (.blockFadeEnd r b) s = .next s) ∧
     (x.st = .failed → x.fenced = true → f.start + 32 ≤ c.clk.smp → ∃ t, exec (.blockFadeEnd r b) s = .next t ∧ s.SameStore t ∧
       (∀ j, j ≠ k → t.chip.blk j = c.blk j) ∧ (t.chip.blk k).fenced = false ∧ t.chip.isPending 13 = true ∧
       (c.is (RGNn_FAULT_OOS r) = false → free ≠ 0 →
         Repaired c t.chip 2 r b n (c.fld (BLK_FAULT_CODE r b)) ∧
         t.chip.fld (if n = 0 then RGNn_SPARE_SB0 r else RGNn_SPARE_SB1 r) = b ∧ t.chip.fld (RGNn_SPARE_FREE r) = free - 1 ∧
         t.chip.fld (RGNn_FAULT_CODE r) = 0x32 ∧ t.chip.fld (RGNn_FAULT_BLOCK r) = b ∧ t.chip.is (RGNn_FAULT_SPARE r) = true ∧
         t.chip.is (RGNn_FAULT_FAULT r) = true ∧ t.chip.isPending (115 + 4 * r) = true ∧
         t.chip.blk k = { st := .gated, spare := n } ∧
         (t.chip.rgn r).loads = (c.rgn r).loads ++ [{ block := b, wake := true, load := false, tmpl := 0, bus := false }] ∧
         (∀ i, i < 18 → t.chip.slot (40 * k + i) = { gen := (c.slot (40 * k + i)).gen }) ∧
         (∀ i, i / 40 ≠ k → t.chip.slot i = c.slot i) ∧
         (∀ a ∈ [BLK_CTL r b, BLK_STAT r b, BLK_MACC r b, BLK_MDAT r b, BLK_MINFO r b, BLK_SCST r b], t.chip.reg a = regReset a) ∧
         tabGet t.chip.cnv.fades none k = none ∧ (t.chip.reg (CNV_BFADE r)).getLsbD b = false ∧
         c.BitsKept t.chip (shown ++ [BLK_CTL r b, BLK_STAT r b, BLK_MACC r b, BLK_MDAT r b, BLK_MINFO r b, BLK_SCST r b
           , RGNn_SPARE r].map regField ++ [RGNn_FAULT_SPARE r, ⟨CNV_BFADE r, b, 1⟩, evBit 13])) ∧
       (c.is (RGNn_FAULT_OOS r) = false → free = 0 →
         t = { s with chip := { c with regs := t.chip.regs, blocks := t.chip.blocks } } ∧ t.chip.blk k = { x with fenced := false } ∧
         t.chip.fld (RGNn_FAULT_CODE r) = 0x33 ∧ t.chip.fld (RGNn_FAULT_BLOCK r) = b ∧ t.chip.is (RGNn_FAULT_FAULT r) = true ∧
         t.chip.isPending (115 + 4 * r) = true ∧ t.chip.fld (RGNn_SPARE_OUT r) = out % 32 ∧
         t.chip.is (RGNn_FAULT_OOS r) = decide (24 ≤ out) ∧
         c.BitsKept t.chip (shown ++ [RGNn_SPARE_OUT r, RGNn_FAULT_OOS r, evBit 13])) ∧
       (c.is (RGNn_FAULT_OOS r) = true →
         t = { s with chip := { c with regs := t.chip.regs, blocks := t.chip.blocks } } ∧ t.chip.blk k = { x with fenced := false } ∧
         t.chip.fld (RGNn_SPARE_OUT r) = out % 32 ∧ c.BitsKept t.chip [RGNn_SPARE_OUT r, RGNn_FAULT_OOS r, evBit 13]))) ∧
  (∀ (s : State) (r : Fin 4), s.chip.clocked = true →
     let c := s.chip
     let n := c.dmaLast % 16
     let bits : List Field := [RGNn_FAULT_CODE r, RGNn_FAULT_FAULT r, RGNn_FAULT_MASTER r, RGNn_FAULT_REVOKE r, evBit (115 + 4 * r)]
     let names (t : State) (m : Nat) : Prop := t.chip.fld (RGNn_FAULT_CODE r) = 0x35 ∧ t.chip.is (RGNn_FAULT_FAULT r) = true ∧
       t.chip.fld (RGNn_FAULT_MASTER r) = m ∧ t.chip.is (RGNn_FAULT_REVOKE r) = true ∧ t.chip.isPending (115 + 4 * r) = true
     let only (t : State) (host : HostPort) (l : List Field) : Prop :=
       t = { s with chip := { c with regs := t.chip.regs, ctr := c.ctr + 1, host := host } } ∧ c.BitsKept t.chip (bits ++ l)
     let nothing (m : Fin 4) : Prop := exec (.portBRevoke r m) s = .next { s with chip := { c with ctr := c.ctr + 1 } }
     (c.boot.loading = none → nothing 0) ∧
     (∀ slot hcrc, c.boot.loading = some (slot, hcrc) → c.boot.step = 0x0E → c.clk.stopAt = none → c.pal.loaded = false →
       ∃ t, exec (.portBRevoke r 0) s = .next t ∧ names t 0 ∧ t.chip.boot.loading = none ∧ t.chip.boot.fstep = 0x0C ∧
         t.chip.boot.reason = 0x20 ∧ tabGet t.chip.boot.marks {} slot = { marked := true, hcrc := imgHcrc (s.image slot), reason := 0x20 } ∧
         t.mem = {} ∧ t.chip.saf.prot = false ∧ t.chip.isPending 11 = true) ∧
     (∃ t, exec (.portBRevoke r 1) s = .next t ∧ names t 1 ∧ HostErrs c t.chip 4 ∧ only t { c.host with err := true } hostErrBits) ∧
     (c.dmaActive n = false → nothing 2) ∧
     (c.dmaActive n = true → ∃ t, exec (.portBRevoke r 2) s = .next t ∧ names t 2 ∧ t.chip.fld (DMAn_STAT_WHY n) = 7 ∧
       t.chip.fld (DMAn_STAT_STATE n) = 3 ∧ (t.chip.reg DMA_ERR).getLsbD n = true ∧ t.chip.isPending (72 + n / 2) = true ∧
       only t c.host [DMAn_STAT_WHY n, DMAn_STAT_STATE n, ⟨DMA_ERR, n, 1⟩, evBit (72 + n / 2)]) ∧
     (c.rep.step.on = false ∨ c.fld RST_STAT_PHASE = 3 → nothing 3) ∧
     (c.rep.step.on = true → c.fld RST_STAT_PHASE < 3 → ∃ t, exec (.portBRevoke r 3) s = .next t ∧ names t 3 ∧
       t.chip.fld RST_STAT_PHASE = 3 ∧ only t c.host [RST_STAT_PHASE]) ∧
     (∀ x : Fin 2, ∃ t, exec (.xspiCommandRevoke x) s = .next t ∧ OnlyFields s t [XS_STAT_TOUT x] ∧
       t.chip.fld (XS_STAT_TOUT x) = min (c.fld (XS_STAT_TOUT x) + 1) (2 ^ (XS_STAT_TOUT x).width - 1)))

/-- The cell walk visits the cell that waits ahead of it, else the next in its order: it steps on the cell, with the standby
cell taken from the glazes, or counts the block as skipped and goes on to the next. A glaze that does not clear ends the step
as skipped. The later phases of a cell step. The handover follows a good copy and a shadow that agrees; a bad image ends the
step with 0x21 and a difference with 0x14 and a test of the standby cell. A cell that its block does not use takes its copy and goes
to its test; the standby cell's own step copies nothing. A cell that fails its test leaves the standby cell
in its place for good, with 0x15; a standby cell that fails its own leaves service, with 0x17; a difference at the handback
tests the cell again. A journal write takes the pending records, automatically unless HOLD defers it, and on COMMIT; without a
device on XA, or with too long a map, it fails at once with 0x45. Its end leaves the other copy of the journal written whole
with the next SEQ, byte for byte as R540 lays it out; one that times out fails, its records pending and the copy in force
untouched, with the other copy as one of the stages of R541 leaves it. -/
def Obligations.CellWalkAndJournal : Prop :=
  (∀ s : State, s.chip.clocked = true →
     let c := s.chip
     let w := c.rep.walk
     let here := (w.region, w.block, w.cell)
     let next : Fin 4 × Fin 24 × Nat := if w.block.val < 23 then (w.region, w.block + 1, 0) else (w.region + 1, 0, 0)
     let skips (r b : Nat) : Prop := let x := c.blk (blkKey r b)
       (x.st ≠ .empty ∧ x.st ≠ .running) ∨ x.fenced = true ∨ x.sc ≠ .idle ∨ x.scFailed = true
     let counted (t : State) : Prop := t.chip.fld RST_CCNT_SKIP = min (c.fld RST_CCNT_SKIP + 1) 65535
     let starts (t : State) (r : Fin 4) (b : Fin 24) (cell : Nat) (w' : CellWalk) : Prop :=
       WalkAt c t.chip { w' with phase := .hold, region := r, block := b, cell := cell, follow := 0 } (blkKey r b) [] ∧
       t.chip.is (BLK_SCST_TEST r b) = true ∧ s.SameStore t ∧ t.chip.blk (blkKey r b) = { c.blk (blkKey r b) with
         sc := if cell = 8 then .testing else .shadowing, scCell := if cell = 8 then 15 else cell }
     let glazed := (∃ g, g < 2 ∧ ((c.slot (40 * blkKey w.region w.block + 16 + g)).occupied = true)) ∨
       (c.blk (blkKey w.region w.block)).glzRes ≠ 0
     (c.is RST_CCFG_EN = false ∨ w.phase ≠ .idle ∨ c.pwrState ≠ 0 → exec .cellStep s = .next s) ∧
     (c.is RST_CCFG_EN = true → w.phase = .idle → c.pwrState = 0 → ∃ t, exec .cellStep s = .next t ∧
       (∀ r b cell rest, w.ahead = (r, b, cell) :: rest →
         (skips r b → WalkAt c t.chip { w with ahead := rest } (blkKey r b) [RST_CCNT_SKIP] ∧ counted t ∧ t.chip.blocks = c.blocks) ∧
         (¬skips r b → starts t r b cell { w with ahead := rest, resumeAt := some here })) ∧
       (w.ahead = [] → skips w.region w.block → WalkAt c t.chip { w with
         phase := .idle, region := next.1, block := next.2.1, cell := next.2.2, follow := 0, resumeAt := none }
         (blkKey w.region w.block) [RST_CCNT_SKIP] ∧ counted t ∧ t.chip.blocks = c.blocks) ∧
       (w.ahead = [] → ¬skips w.region w.block → starts t w.region w.block w.cell { w with resumeAt := none })) ∧
     (w.phase ≠ .hold ∨ ¬glazed → exec .cellHoldTimeout s = .next s) ∧
     (w.phase = .hold → glazed → ∃ t, exec .cellHoldTimeout s = .next t ∧ counted t ∧
       StepOver c t.chip (match w.resumeAt with
         | some p => p
         | none => next) [RST_CCNT_SKIP] ∧
       t.chip.blk (blkKey w.region w.block) = { c.blk (blkKey w.region w.block) with
         sc := if (c.blk (blkKey w.region w.block)).sc = .standIn then .standIn else .idle })) ∧
  (∀ s : State, s.chip.clocked = true →
     let c := s.chip
     let w := c.rep.walk
     let r := w.region
     let b := w.block
     let k := blkKey r b
     let x := c.blk k
     let uses := ∃ tp, x.content = some tp ∧ w.cell < 8 ∧ tp.uses w.cell = true
     let clear := (∀ g, g < 2 → (c.slot (40 * k + 16 + g)).occupied = false) ∧ x.glzRes = 0
     let lives := (x.st = .empty ∨ x.st = .running) ∧ x.fenced = false
     let faults (cell code : Nat) (t : State) : Prop := t.chip.FaultSays r b 0 cell code
     let ends (t : State) (l : List Field) : Prop := StepOver c t.chip w.after l
     let trans (t : State) : Prop := t.chip.fld RST_CCNT_TRANS = min (c.fld RST_CCNT_TRANS + 1) 65535
     let idles (t : State) : Prop := t.chip.blk k = { x with sc := if x.sc = .standIn then .standIn else .idle }
     (∀ differs : Bool, ∃ t, exec (.cellHandover differs) s = .next t ∧ s.SameStore t ∧
       (w.phase ≠ .hold ∨ ¬clear → t = { s with chip := { c with ctr := c.ctr + 1 } }) ∧
       (w.phase = .hold → clear → (¬lives → ends t [] ∧ idles t) ∧
         (lives → w.cell = 8 ∨ x.content = none → WalkAt c t.chip { w with phase := .test } k [] ∧ t.chip.blk k = x) ∧
         (∀ tp, lives → w.cell ≠ 8 → x.content = some tp →
           let ws := (List.range (c.pal.imageSize tp.tmpl r)).map fun i =>
             s.mem.rd (contentAddr r (c.pal.imageBase tp.tmpl.id r + i))
           let good := crcWords ws.dropLast = ws.getLast?.getD 0
           let image := c.pal.contentOf tp.tmpl ws
           let y : Block := { x with
             content := some (tp.retaken image.1 w.cell)
             pm0 := if w.cell = 4 then progMem image.2.1 else x.pm0
             pm1 := if w.cell = 5 then progMem image.2.2 else x.pm1 }
           (¬good → ends t (blkFaultBits r b ++ s.readBits r) ∧ faults 15 0x21 t ∧ idles t) ∧
           (good → uses → differs = true → faults w.cell 0x14 t ∧
             WalkAt c t.chip { w with phase := .hold, cell := 8, follow := 1, resumeAt := some w.after } k
               (blkFaultBits r b ++ s.readBits r) ∧
             t.chip.blk k = { x with sc := .testing, scCell := w.cell }) ∧
           (good → uses → differs = false → WalkAt c t.chip { w with phase := .test } k (s.readBits r) ∧
             t.chip.blk k = { y with sc := .primary, scCell := w.cell }) ∧
           (good → ¬uses → WalkAt c t.chip { w with phase := .test } k (s.readBits r) ∧ t.chip.blk k = y)))) ∧
     (∀ fails : Bool, ∃ t, exec (.cellTestDone fails) s = .next t ∧ s.SameStore t ∧ (w.phase ≠ .test → t = s) ∧
       (w.phase = .test → (¬lives → ends t [] ∧ idles t) ∧
         (lives → w.cell = 8 → fails = true → faults 8 0x17 t ∧ ends t (blkFaultBits r b ++
             [BLK_SCST_DEAD r b, RGNn_SPARE_SCDEAD r, evBit 13]) ∧ Repaired c t.chip 4 r b 0 0x17 ∧
           t.chip.blk k = { x with sc := .idle, scFailed := true } ∧ t.chip.is (BLK_SCST_DEAD r b) = true ∧
           t.chip.fld (RGNn_SPARE_SCDEAD r) = (c.fld (RGNn_SPARE_SCDEAD r) + 1) % 32) ∧
         (lives → w.cell = 8 → fails = false →
           (w.follow = 1 → x.scCell < 8 → WalkAt c t.chip { w with phase := .hold, cell := x.scCell, follow := 2 } k [] ∧
             t.chip.blk k = { x with sc := .shadowing }) ∧
           (w.follow = 4 → ends t [regField RST_CCNT] ∧ trans t ∧ idles t) ∧
           (w.follow ≠ 4 → w.follow ≠ 1 ∨ 8 ≤ x.scCell → ends t [] ∧ idles t)) ∧
         (lives → w.cell ≠ 8 → fails = true → faults w.cell 0x15 t ∧ ends t (blkFaultBits r b ++
             [BLK_SCST_FOR r b, RGNn_SPARE_SCIN r, evBit 13]) ∧ Repaired c t.chip 3 r (16 * b + w.cell) 0 0x15 ∧
           t.chip.blk k = { x with sc := .standIn, scCell := w.cell } ∧ t.chip.fld (BLK_SCST_FOR r b) = w.cell % 16 ∧
           t.chip.fld (RGNn_SPARE_SCIN r) = (c.fld (RGNn_SPARE_SCIN r) + 1) % 32) ∧
         (lives → w.cell ≠ 8 → fails = false → ¬uses → ends t [regField RST_CCNT] ∧ idles t ∧ (w.follow = 2 → trans t)) ∧
         (lives → w.cell ≠ 8 → fails = false → uses → WalkAt c t.chip { w with phase := .shadowBack } k [] ∧
           t.chip.blk k = { x with sc := .shadowBack }))) ∧
     (∀ differs : Bool, ∃ t, exec (.cellHandback differs) s = .next t ∧ s.SameStore t ∧ (w.phase ≠ .shadowBack → t = s) ∧
       (w.phase = .shadowBack → (¬lives → ends t [] ∧ idles t) ∧
         (lives → differs = true → faults w.cell 0x14 t ∧
           WalkAt c t.chip { w with phase := .test, follow := 3 } k (blkFaultBits r b) ∧ t.chip.blk k = { x with sc := .primary }) ∧
         (lives → differs = false → (w.follow = 2 → ends t [regField RST_CCNT] ∧ trans t ∧ idles t) ∧
           (w.follow = 3 → WalkAt c t.chip { w with phase := .test, cell := 8, follow := 4, resumeAt := some w.after } k [] ∧
             t.chip.blk k = { x with sc := .testing }) ∧
           (w.follow ≠ 2 → w.follow ≠ 3 → ends t [] ∧ idles t))))) ∧
  (∀ s : State, s.chip.clocked = true →
     let c := s.chip
     let m := mergeMap c.rep.map
     (∀ commit : Bool, let i : Instr := if commit then .journalCommit else .journalWrite
       (commit = false → c.is RST_JCTL_HOLD = true → exec i s = .next s) ∧
       (commit = true ∨ c.is RST_JCTL_HOLD = false →
         (c.rep.pend = [] ∨ c.rep.jwrite.isSome = true → exec i s = .next s) ∧
         (c.rep.pend ≠ [] → c.rep.jwrite = none → ∃ t, exec i s = .next t ∧
           (c.is (XS_STAT_NODEV 0) = true ∨ 65520 < 8 * m.length → JournalFails c t.chip [] ∧
             t = { s with chip := { c with regs := t.chip.regs } }) ∧
           (c.is (XS_STAT_NODEV 0) = false → 8 * m.length ≤ 65520 → t.chip.is RST_JSTAT_BUSY = true ∧
             c.BitsKept t.chip [RST_JSTAT_BUSY] ∧ t = { s with chip := { c with
               regs := t.chip.regs, rep := { c.rep with jwrite := some (m, c.rep.pend.length) } } })))) ∧
     (∀ x ∈ m, x ∈ c.rep.map) ∧
     (∀ ready : Bool, ∃ t, exec (.journalWriteDone ready) s = .next t ∧
       (c.rep.jwrite = none → t = { s with chip := { c with ctr := c.ctr + 1 } }) ∧
       (∀ l n, c.rep.jwrite = some (l, n) →
         let base := 0x3000000 + 0x10000 * (1 - c.rep.jcopy)
         let body := l.flatMap Repair.bytes
         let head := [0x47, 0x56, 0x4A, 0x4E] ++ wordBytes (c.rep.jseq + 1) ++ wordBytes (BitVec.ofNat 32 body.length)
         let image := head ++ wordBytes (crc32 (head ++ body)) ++ body
         t.chip.is RST_JSTAT_BUSY = false ∧ t.chip.rep.jwrite = none ∧ t.mem = s.mem ∧ t.nv = { s.nv with xa := t.nv.xa } ∧
         (∀ a, ¬(base ≤ a ∧ a < base + max 0x10000 image.length) → t.nv.flash 0 a = s.nv.flash 0 a) ∧
         (ready = true → (∀ i, i < 0x10000 → t.nv.flash 0 (base + i) = image.getD i 0xFF) ∧ t.chip.isPending 14 = true ∧
           c.BitsKept t.chip [RST_JSTAT_BUSY, evBit 14] ∧ t.chip = { c with
             regs := t.chip.regs, ctr := c.ctr + 1
             rep := { c.rep with jwrite := none, jseq := c.rep.jseq + 1, jcopy := 1 - c.rep.jcopy, pend := c.rep.pend.drop n } }) ∧
         (ready = false → JournalFails c t.chip [RST_JSTAT_BUSY] ∧
           ((∀ i, i < 0x10000 → t.nv.flash 0 (base + i) = s.nv.flash 0 (base + i)) ∨
             (∀ i, i < 0x10000 → t.nv.flash 0 (base + i) = 0xFF) ∨
             (∀ i, i < 0x10000 → t.nv.flash 0 (base + i) = if i < 16 then 0xFF else image.getD i 0xFF) ∨
             (∀ i, i < 0x10000 → t.nv.flash 0 (base + i) = image.getD i 0xFF)) ∧
           t.chip = { c with regs := t.chip.regs, ctr := c.ctr + 1, rep := { c.rep with jwrite := none } }))))

/-! ### Power (R445, R561, R592 to R611) -/

/-- VIN and the die temperature are reported with their extremes. VIN below 4.5 V sets VINLOW with source 0 once, until 4.6
V; VINBAND rises after 10 ms at a band's threshold and falls 0.3 V below it; a fall marks for the rest clamp each driving CV
channel whose span needs the higher band. A temperature at THWARN sets TWARN with source 3, and one of 150 °C sets OTSD and
stands the device aside. What a temperature outside a signed byte reads as is left free. The operating points. A slack
shortfall raises the floor of a region that does not doze, and its point at once, with SLACKCNT and source 2, and at OP2 sets
SLKMAX; one that dozes stays at its point; the point falls by one step towards the one wanted. A region whose blocks are all
gated, that has no ring open and nothing waiting at port B, dozes with its banks in retention; RDOZE and a region on BKC keep
it awake. A buck that leaves regulation. BKC holds the device in reset; a region's buck takes its region out of service with
code 0x34: its blocks fail, its rings close, its banks lose their content; BKA clamps every output and stops the converters.
A current limit sets its bit of ILIM and source 15. A BKA that regulates again at a try brings outputs and inputs back. -/
def Obligations.MeasurementsAndBucks : Prop :=
  (∀ s : State, s.chip.clocked = true →
     let c := s.chip
     (∀ v : BitVec 16,
       let mv := v.toNat
       let band := c.fld CV_STAT_VINBAND
       let n1 := if 6500 ≤ mv then min (c.pwr.bandCnt1 + 1) 101 else 0
       let n2 := if 11500 ≤ mv then min (c.pwr.bandCnt2 + 1) 101 else 0
       ∃ t, exec (.vinMeasure v) s = .next t ∧ t.chip.fld PWR_VIN_VIN = mv ∧
         t.chip.fld PWR_VIN_VINMIN = min mv (c.fld PWR_VIN_VINMIN) ∧
         (mv < 4500 → c.pwr.lowArmed = true → t.chip.is PWR_STAT_VINLOW = true ∧ t.chip.isPending 0 = true) ∧
         (4500 ≤ mv ∨ c.pwr.lowArmed = false → t.chip.reg PWR_STAT = c.reg PWR_STAT ∧ t.chip.isPending 0 = c.isPending 0) ∧
         (mv < 4500 → t.chip.pwr.lowArmed = false) ∧ (4600 ≤ mv → t.chip.pwr.lowArmed = true) ∧
         (4500 ≤ mv → mv < 4600 → t.chip.pwr.lowArmed = c.pwr.lowArmed) ∧
         (mv < 6200 → t.chip.fld CV_STAT_VINBAND = 0) ∧
         (6200 ≤ mv → mv < 11200 → t.chip.fld CV_STAT_VINBAND = if 1 ≤ band ∨ n1 = 101 then 1 else 0) ∧
         (11200 ≤ mv → t.chip.fld CV_STAT_VINBAND =
           if band = 2 ∨ n2 = 101 then 2 else if 1 ≤ band ∨ n1 = 101 then 1 else 0) ∧
         (∀ k, k < 32 → t.chip.cvOf k = if t.chip.fld CV_STAT_VINBAND < band ∧
             ((c.cvOf k).st = .driving ∨ (c.cvOf k).st = .ramp) ∧
             t.chip.fld CV_STAT_VINBAND < spanBand (c.fld (CV_CFG_SPAN k)) then { c.cvOf k with bandReq := true }
           else c.cvOf k) ∧
         t = { s with chip := { c with
           regs := t.chip.regs, cv := t.chip.cv, pwr := { c.pwr with bandCnt1 := n1, bandCnt2 := n2, lowArmed := t.chip.pwr.lowArmed } } } ∧
         c.BitsKept t.chip ([regField PWR_VIN, PWR_STAT_VINLOW, CV_STAT_VINBAND, evBit 0] ++
           (List.range 32).map fun k => regField (CV_OUT k))) ∧
     (∀ v : BitVec 16,
       let degrees := v.toInt
       (degrees < 150 → ∃ t, exec (.tempMeasure v) s = .next t ∧ (-128 ≤ degrees → degrees ≤ 127 → t.chip.sfld PWR_TEMP_TEMP = degrees) ∧
         t.chip.sfld PWR_TEMP_TMAX = max (c.sfld PWR_TEMP_TMAX) (t.chip.sfld PWR_TEMP_TEMP) ∧
         ((c.fld PWR_CFG_THWARN : Int) ≤ degrees → t.chip.is PWR_STAT_TWARN = true ∧ t.chip.isPending 3 = true) ∧
         (degrees < (c.fld PWR_CFG_THWARN : Int) → c.BitsKept t.chip [PWR_TEMP_TEMP, PWR_TEMP_TMAX]) ∧
         t = { s with chip := { c with regs := t.chip.regs, ctr := c.ctr + 1 } } ∧
         c.BitsKept t.chip [PWR_TEMP_TEMP, PWR_TEMP_TMAX, PWR_STAT_TWARN, evBit 3]) ∧
       (150 ≤ degrees → ∃ t, exec (.tempMeasure v) s = .next t ∧ t.chip.is PWR_STAT_OTSD = true ∧ t.chip.boot.step = 0x0F ∧
         t.chip.is PWR_BUCK_BKC_OK = false ∧ t.mem = {} ∧ t.pending = s.pending ∧ s.nv.Forward t.nv))) ∧
  (∀ (s : State) (r : Fin 4), s.chip.clocked = true →
     let c := s.chip
     let p := tabGet c.pwr.point 0 r
     let want := c.wantPoint r
     let points (t : State) : Prop := ∀ q, q ≠ r.val → tabGet t.chip.pwr.point 0 q = tabGet c.pwr.point 0 q
     let dozes := c.is (PWR_RGCFG_RDOZE r) = true ∧ c.is (RGNn_FAULT_OOS r) = false ∧ c.pwr.standIn ≠ some r.val ∧
       r.val ∉ c.pwr.dozing ∧ (∀ b, b < 24 → let st := (c.blk (blkKey r b)).st
         st = .gated ∨ st = .disabled ∨ st = .failed) ∧
       (∀ g ∈ (c.rm r).rings, g.2 = none) ∧ (c.rm r).wbuf = [] ∧ (c.rm r).fences = []
     (∀ short : Bool, ∃ t, exec (.slackCheck r short) s = .next t ∧ points t ∧
       tabGet t.chip.pwr.point 0 r = (if r.val ∈ c.pwr.dozing then p else max p (t.chip.wantPoint r)) ∧
       (short = false ∨ r.val ∈ c.pwr.dozing → t = { s with chip := { c with pwr := { c.pwr with point := t.chip.pwr.point } } }) ∧
       (short = true → r.val ∉ c.pwr.dozing → 2 ≤ max p want → OnlyFields { s with chip := { c with
         pwr := { c.pwr with point := t.chip.pwr.point } } } t [PWR_RGSTAT_SLKMAX r, evBit 2] ∧
         t.chip.is (PWR_RGSTAT_SLKMAX r) = true ∧ t.chip.isPending 2 = true) ∧
       (short = true → r.val ∉ c.pwr.dozing → max p want < 2 →
         tabGet t.chip.pwr.slack 0 r = tabGet c.pwr.slack 0 r + 1 ∧
         (∀ q, q ≠ r.val → tabGet t.chip.pwr.slack 0 q = tabGet c.pwr.slack 0 q) ∧
         t.chip.fld (PWR_RGSTAT_SLACKCNT r) = min (c.fld (PWR_RGSTAT_SLACKCNT r) + 1) 65535 ∧ t.chip.isPending 2 = true ∧
         c.BitsKept t.chip [PWR_RGSTAT_SLACKCNT r, evBit 2] ∧ t = { s with chip := { c with
           regs := t.chip.regs, pwr := { c.pwr with point := t.chip.pwr.point, slack := t.chip.pwr.slack } } })) ∧
     (p ≤ want → exec (.opPointFall r) s = .next s) ∧
     (want < p → ∃ t, exec (.opPointFall r) s = .next t ∧ points t ∧ tabGet t.chip.pwr.point 0 r = p - 1 ∧
       t = { s with chip := { c with pwr := { c.pwr with point := t.chip.pwr.point } } }) ∧
     (∀ i ∈ [Instr.regionDoze r, .bankRetentionReturn r], (¬dozes → exec i s = .next s) ∧
       (dozes → ∃ t, exec i s = .next t ∧ points t ∧ tabGet t.chip.pwr.point 0 r = 0 ∧
         (∀ q, q ∈ t.chip.pwr.dozing ↔ q = r.val ∨ q ∈ c.pwr.dozing) ∧
         t.chip.rm r = { c.rm r with retained := true, waking := false, held := false } ∧ (∀ q, q ≠ r.val → t.chip.rm q = c.rm q) ∧
         t.chip.is (PWR_RGSTAT_DOZING r) = true ∧ c.BitsKept t.chip [PWR_RGSTAT_DOZING r] ∧ t = { s with chip := { c with
           regs := t.chip.regs, rmem := t.chip.rmem
           pwr := { c.pwr with dozing := t.chip.pwr.dozing, point := t.chip.pwr.point } } }))) ∧
  (∀ s : State, s.chip.alive = true →
     let c := s.chip
     (∃ t, exec (.buckFault 0) s = .next t ∧ t.chip = { ({} : Chip) with
         regs := t.chip.regs, ctr := t.chip.ctr, cvg := cvGroupsReset, gpIn := c.gpIn, tap := c.tap
         boot := { c.boot with logOn := false, buckOff := true }
         pwr := { vin := c.pwr.vin, rest := c.pwr.vin, held := true }
         saf := { tamper := c.saf.tamper, fails := c.saf.fails, prot := c.saf.prot } } ∧
       ({} : Chip).BitsKept t.chip [PWR_STAT_OTSD, PWR_BUCK_BKC_OK] ∧ t.chip.is PWR_BUCK_BKC_OK = false ∧
       t.chip.is PWR_STAT_OTSD = c.is PWR_STAT_OTSD ∧ s.nv.Forward t.nv ∧ t.pending = s.pending) ∧
     (∀ r : Fin 4, let i : Instr := .buckFault ⟨r + 1, by omega⟩
       ((c.reg PWR_BUCK).getLsbD (1 + r) = false → exec i s = .next { s with chip := { c with ctr := c.ctr + 1 } }) ∧
       ((c.reg PWR_BUCK).getLsbD (1 + r) = true → ∃ t, exec i s = .next t ∧ (t.chip.reg PWR_BUCK).getLsbD (1 + r) = false ∧
         r.val ∈ t.chip.boot.badBucks ∧ t.nv = s.nv ∧ t.pending = s.pending ∧
         (c.is (RGNn_FAULT_OOS r) = true → t.mem = s.mem ∧ c.BitsKept t.chip [PWR_BUCK_RG_OK]) ∧
         (c.is (RGNn_FAULT_OOS r) = false → t.chip.is (RGNn_FAULT_OOS r) = true ∧ t.chip.fld (RGNn_FAULT_CODE r) = 0x34 ∧
           t.chip.is (RGNn_FAULT_FAULT r) = true ∧ t.chip.isPending 13 = true ∧ t.chip.isPending (115 + 4 * r) = true ∧
           r.val ∈ t.chip.pwr.oos ∧ (t.chip.rm r).rings = [] ∧ (t.chip.rm r).wbuf = [] ∧
           (∀ b, b < 24 → (t.chip.blk (blkKey r b)).fenced = true ∨ (c.blk (blkKey r b)).st = .failed) ∧
           (∀ b, b < 24 → (c.blk (blkKey r b)).fenced = false → (c.blk (blkKey r b)).st ≠ .failed →
             ∃ f : BlockFade, tabGet t.chip.cnv.fades none (blkKey r b) = some f ∧ f.heldKind = true ∧ f.start = c.clk.smp + 1) ∧
           ∀ a, tabGet t.mem.banks 0 a = if 0x1000000 + r * 0x400000 ≤ a ∧ a < 0x1400000 + r * 0x400000 then 0
             else tabGet s.mem.banks 0 a))) ∧
     (∃ t, exec (.buckFault 5) s = .next t ∧ s.SameStore t ∧ t.chip.is PWR_BUCK_BKA_OK = false ∧ t.chip.isPending 15 = true ∧
       t.chip.pwr = { c.pwr with convOff := true } ∧ (∀ k, k < 16 → (t.chip.aoOf k).st = .clamped ∧ (t.chip.aoOf k).out = 0) ∧
       (∀ k, k < 32 → (t.chip.cvOf k).st = .clamped) ∧ t.chip.is CV_STAT_PUMP = false ∧
       t = { s with chip := { c with regs := t.chip.regs, ctr := c.ctr + 1, ao := t.chip.ao, cv := t.chip.cv, pumpStop := false
                                     pwr := { c.pwr with convOff := true } } } ∧
       c.BitsKept t.chip ([PWR_BUCK_BKA_OK, CV_STAT_PUMP, regField AO_STAT, evBit 15, evBit 33] ++
         (List.range 32).map fun k => regField (CV_OUT k))) ∧
     (c.clocked = true → ∀ k : Fin 6, ∃ t, exec (.buckCurrentLimit k) s = .next t ∧ OnlyFields s t [⟨PWR_BUCK, 16 + k, 1⟩, evBit 15] ∧
       (t.chip.reg PWR_BUCK).getLsbD (16 + k) = true ∧ t.chip.isPending 15 = true) ∧
     (c.clocked = true → ∀ regulates : Bool,
       let back := regulates = true ∧ c.pwr.convOff = true ∧ c.is PWR_BUCK_BKA_OK = false ∧ tabGet c.boot.levels 0 1 = 0 ∧ c.pwrState = 0
       (¬back → exec (.bkaRestart regulates) s = .next { s with chip := { c with ctr := c.ctr + 1 } }) ∧
       (back → ∃ t, exec (.bkaRestart regulates) s = .next t ∧ t.chip.is PWR_BUCK_BKA_OK = true ∧
         t.chip.pwr = { c.pwr with convOff := false } ∧ s.SameStore t ∧ t.chip.cv = c.cv ∧
         (∀ k, k < 16 → (c.aoOf k).st = .clamped → t.chip.aoOf k = if c.is (AO_CTL_EN k) = true ∧ c.clk.started = true ∧
           c.pwr.waitStart = false then { c.aoOf k with st := .rising, legs := 0 } else c.aoOf k) ∧
         (∀ k, k < 16 → c.is (AI_CFG_EN k) = true → (t.chip.aiOf k).running = true ∧ (t.chip.aiOf k).queue = (c.aiOf k).queue ∧
           t.chip.is (AI_STAT_UNSET k) = true) ∧
         (∀ k, k < 16 → c.is (AI_CFG_EN k) = false → t.chip.aiOf k = c.aiOf k) ∧
         t = { s with chip := { c with
           regs := t.chip.regs, ctr := c.ctr + 1, ao := t.chip.ao, ai := t.chip.ai, pumpStop := t.chip.pumpStop
           pwr := { c.pwr with convOff := false } } })))

/-- A Hold request in Run is refused with HREJ, the first reason of R603's table that holds and source 1, or accepted: STATE
reads 1, outputs and inputs stop as a disable stops them, and their EN bits stay. In any other state one with the key does nothing,
and one without it is refused. The entry to Hold waits for the Restorer's step, and ends with every output clamped, every input
stopped with its queue kept, the pump and BKA off, every block gated, every region in service dozing but one on BKC, and the PLLs
stopped: STATE reads 2 and source 1 rises. An entry that a wake has stopped
ends in ABORT and STATE 3 instead; how many of its steps it has run is left free. What ends Hold. A PWR_CTL write with the key
and HOLD = 0, and a falling edge on an MI pin or an edge of the GP pin that PWR_CFG selects, take it to STATE 3, or stop an
entry under way; with other settings or in other states they do nothing. The exit ends in STATE 0 with source 1: the clocks
and BKA are back, and enabled inputs and ports start again. -/
def Obligations.HoldState : Prop :=
  (∀ (s : State) (key : BitVec 16), s.chip.clocked = true →
     let c := s.chip
     let dma := ∃ n, n < 16 ∧ c.dmaActive n = true
     let busy := c.is (XS_STAT_CBUSY 0) = true ∨ c.is (XS_STAT_CBUSY 1) = true ∨ c.rep.jwrite.isSome = true
     let loads := c.boot.loading.isSome = true ∧ c.boot.step = 0x0E
     let refused (why : Nat) : Prop := ∃ t, exec (.holdRequest key) s = .next t ∧
       OnlyFields s t [PWR_STAT_HREJ, PWR_STAT_WHY, evBit 1] ∧ t.chip.is PWR_STAT_HREJ = true ∧
       t.chip.fld PWR_STAT_WHY = why ∧ t.chip.isPending 1 = true
     (c.pwrState ≠ 0 → key = 0x401D → exec (.holdRequest key) s = .next s) ∧ (c.pwrState ≠ 0 → key ≠ 0x401D → refused 4) ∧
     (c.pwrState = 0 → c.stopped = false → refused 1) ∧
     (c.pwrState = 0 → c.stopped = true → dma → refused 2) ∧
     (c.pwrState = 0 → c.stopped = true → ¬dma → busy → refused 3) ∧
     (c.pwrState = 0 → c.stopped = true → ¬dma → ¬busy → key ≠ 0x401D → refused 4) ∧
     (c.pwrState = 0 → c.stopped = true → ¬dma → ¬busy → key = 0x401D → loads → refused 5) ∧
     (c.pwrState = 0 → c.stopped = true → ¬dma → ¬busy → key = 0x401D → ¬loads →
       ∃ t, exec (.holdRequest key) s = .next t ∧ t.chip.pwrState = 1 ∧ t.chip.pwr = { c.pwr with wakeHold := false } ∧
         (∀ k, k < 16 → let x := c.aoOf k
           (x.st = .fadeIn ∨ x.st = .live → t.chip.aoOf k = { x with st := .fadeOut, mg0 := aoMuteGain x, j := 0 }) ∧
           (x.st = .rising ∨ x.st = .muted → t.chip.aoOf k = { x with st := .falling }) ∧
           (x.st = .clamped ∨ x.st = .fadeOut ∨ x.st = .falling → t.chip.aoOf k = x)) ∧
         (∀ k, k < 32 → let x := c.cvOf k
           t.chip.cvOf k = if x.st = .driving then { x with st := .ramp, rampD0 := x.code, rampJ := 0 } else x) ∧
         (∀ k, k < 16 → let x := c.aiOf k
           t.chip.aiOf k = if x.running then { x with stopPend := true, drain := x.queue.length } else x) ∧
         (∀ p, p < 4 → let x := c.saOf p
           t.chip.saOf p = if x.running = true ∧ x.fade = none then
             { x with fade := some 0, zeros := if p < 2 then 2 else 0, drain := x.host.length } else x) ∧
         c.BitsKept t.chip ([PWR_STAT_STATE, regField AO_STAT, evBit 33] ++ (List.range 32).map (fun k => regField (CV_OUT k)) ++
           (List.range 16).flatMap aiBits ++ (List.range 4).flatMap saBits) ∧
         t = { s with chip := { c with
           regs := t.chip.regs, ao := t.chip.ao, cv := t.chip.cv, ai := t.chip.ai, sa := t.chip.sa
           pwr := { c.pwr with wakeHold := false } } })) ∧
  (∀ s : State, s.chip.clocked = true →
     let c := s.chip
     let off (t : State) : Prop := (∀ k, k < 16 → (t.chip.aoOf k).st = .clamped ∧ (t.chip.aoOf k).out = 0 ∧
         (t.chip.aiOf k).running = false ∧ (t.chip.aiOf k).queue = (c.aiOf k).queue) ∧
       (∀ k, k < 32 → (t.chip.cvOf k).st = .clamped) ∧ (∀ p, p < 4 → (t.chip.saOf p).running = false)
     let kept (t : State) : Prop := s.SameStore t ∧ t.chip.boot = c.boot ∧ t.chip.parts = c.parts ∧ t.chip.ez = c.ez ∧
       t.chip.returned = c.returned ∧ t.chip.clk = c.clk ∧ t.chip.tmr = c.tmr ∧ t.chip.dma = c.dma ∧ t.chip.host = c.host ∧
       t.chip.rep = c.rep ∧ t.chip.saf = c.saf ∧ t.chip.pal = c.pal ∧ c.BitsKept t.chip ([PWR_STAT_STATE, PWR_STAT_ABORT
         , PWR_BUCK_BKA_OK, CLK_STAT_APLL_LOCK, CLK_STAT_XPLL_LOCK, CLK_STAT_EPLL_LOCK, CV_STAT_PUMP, regField AO_STAT, evBit 1
         , evBit 33] ++ (List.range 4).map PWR_RGSTAT_DOZING ++ (List.range 32).map (fun k => regField (CV_OUT k)) ++
         (List.range 16).flatMap aiBits ++ (List.range 4).flatMap saBits)
     let steps := c.rep.step.on = true ∨ c.rep.walk.phase ≠ .idle
     (c.pwrState ≠ 1 ∨ c.pwr.wakeHold = false ∧ steps → exec .holdEntered s = .next { s with chip := { c with ctr := c.ctr + 1 } }) ∧
     (c.pwrState = 1 → c.pwr.wakeHold = true → ∃ t, exec .holdEntered s = .next t ∧ off t ∧ kept t ∧ t.chip.pwrState = 3 ∧
       t.chip.is PWR_STAT_ABORT = true ∧ t.chip.pwr.wakeHold = false) ∧
     (c.pwrState = 1 → c.pwr.wakeHold = false → ¬steps → ∃ t, exec .holdEntered s = .next t ∧ off t ∧ kept t ∧ t.chip.pwrState = 2 ∧
       t.chip.isPending 1 = true ∧ t.chip.is CV_STAT_PUMP = false ∧ t.chip.is PWR_BUCK_BKA_OK = false ∧
       t.chip.is CLK_STAT_EPLL_LOCK = false ∧ t.chip.is CLK_STAT_XPLL_LOCK = false ∧ t.chip.is CLK_STAT_APLL_LOCK = false ∧
       (∀ k, k < 96 → (t.chip.blk k).isAwake = false) ∧
       (∀ r, r < 4 → c.is (RGNn_FAULT_OOS r) = false → c.pwr.standIn ≠ some r → r ∈ t.chip.pwr.dozing ∧
         t.chip.is (PWR_RGSTAT_DOZING r) = true ∧ (t.chip.rm r).retained = true ∧ tabGet t.chip.pwr.point 0 r = 0) ∧
       (∀ r, r < 4 → c.pwr.standIn = some r → t.chip.rm r = c.rm r ∧ tabGet t.chip.pwr.point 0 r = tabGet c.pwr.point 0 r) ∧
       t.chip.pwr.irqHold = some ((t.chip.evcLowest 0).isSome, (t.chip.evcLowest 1).isSome))) ∧
  (∀ s : State, s.chip.alive = true →
     let c := s.chip
     let wakes (i : Instr) : Prop :=
       (c.pwrState = 2 → ∃ t, exec i s = .next t ∧ OnlyFields s t [PWR_STAT_STATE] ∧ t.chip.pwrState = 3) ∧
       (c.pwrState = 1 → exec i s = .next { s with chip := { c with pwr := { c.pwr with wakeHold := true } } }) ∧
       (c.pwrState = 0 ∨ c.pwrState = 3 → exec i s = .next s)
     wakes (.holdExit 0x401D) ∧ (∀ key, key ≠ 0x401D → exec (.holdExit key) s = .next s) ∧
     (∀ i : Fin 4, ((c.reg PWR_CFG).getLsbD (16 + i) = true → wakes (.holdWakeMidi i)) ∧
       ((c.reg PWR_CFG).getLsbD (16 + i) = false → exec (.holdWakeMidi i) s = .next s)) ∧
     (∀ (pin : Fin 8) (rising : Bool),
       let selected := c.is PWR_CFG_GPWAKE = true ∧ c.fld PWR_CFG_WAKEPIN = pin ∧ c.is PWR_CFG_WAKEEDGE = !rising
       (selected → wakes (.holdWakeGp pin rising)) ∧ (¬selected → exec (.holdWakeGp pin rising) s = .next s)) ∧
     (c.pwrState ≠ 3 → exec .holdExitDone s = .next { s with chip := { c with ctr := c.ctr + 1 } }) ∧
     (c.pwrState = 3 → ∃ t, exec .holdExitDone s = .next t ∧ t.chip.pwrState = 0 ∧ t.chip.isPending 1 = true ∧ s.SameStore t ∧
       t.chip.is CLK_STAT_EPLL_LOCK = true ∧ t.chip.is CLK_STAT_XPLL_LOCK = true ∧
       t.chip.pwr = { c.pwr with waitStart := true, irqHold := none } ∧
       (c.pwr.convOff = false → t.chip.is PWR_BUCK_BKA_OK = true ∧ t.chip.is CLK_STAT_APLL_LOCK = true ∧
         ∀ k, k < 16 → c.is (AI_CFG_EN k) = true → (t.chip.aiOf k).running = true ∧ (t.chip.aiOf k).queue = (c.aiOf k).queue ∧
           t.chip.is (AI_STAT_UNSET k) = true) ∧
       (c.pwr.convOff = true → t.chip.ai = c.ai ∧ t.chip.is PWR_BUCK_BKA_OK = c.is PWR_BUCK_BKA_OK) ∧
       (∀ p, p < 4 → c.is (SA_CFG_EN p) = true → c.saConfigOk p = true → (t.chip.saOf p).running = true ∧
         t.chip.is (SA_CFG_EN p) = true) ∧
       (∀ p, p < 4 → c.is (SA_CFG_EN p) = false → t.chip.saOf p = c.saOf p) ∧ t.chip.ao = c.ao ∧ t.chip.cv = c.cv ∧
       t.chip.boot = c.boot ∧ t.chip.ez = c.ez ∧ t.chip.parts = c.parts ∧ t.chip.host = c.host))

/-! ### The Saffron store, debug access and the TAP (R576 to R588, R622) -/

/-- A store command with a wrong key, in the tamper state, with no fuse left, or against the state of its slot or flag is
refused: CMDREJ, source 107, WHY 4, and nothing else. Any other takes the staged words, which clear either way, and its end
provisions or revokes the slot, or sets the flag or hash it names, for good. A command still under way completes first. A store
that fails its check sets the tamper state and burns a fuse. A run-time load under way may by then have read the store as it was. -/
def Obligations.SaffronCommands : Prop :=
  ∀ (s : State) (key : BitVec 16) (slot : Fin 4), s.chip.clocked = true →
    let c := s.chip
    let bytes (l : List Word) : List Byte := l.flatMap wordBytes
    (∀ p ∈ [(1, Instr.safProvisionSlot key slot), (2, .safRevokeSlot key slot), (3, .safSetSignreq key)
        , (4, .safProvisionDebugKey key), (5, .safSetDbgdis key)],
      let op : Nat := p.1
      let at_ : Nat := if op ≤ 2 then slot else 0
      let st := (tabGet s.nv.slots ({} : KeySlot) slot).st
      let refused := key ≠ 0x5AFE ∨ c.saf.tamper = true ∨ s.nv.tleft = 0 ∨ op = 1 ∧ (st ≠ 0 ∨ s.nv.erased = true) ∨
        op = 2 ∧ st ≠ 1 ∨ op = 3 ∧ s.nv.signreq = true ∨ op = 4 ∧ s.nv.dbgHash.isSome = true ∨ op = 5 ∧ s.nv.dbgdis = true
      (c.saf.cmd ≠ none → ∃ u, exec (.safCmdDone true) s = .next u ∧ u.chip.saf.cmd = none ∧
        exec p.2 s = exec p.2 { u with chip := { u.chip with ctr := c.ctr } }) ∧
      (c.saf.cmd = none → refused → ∃ t, exec p.2 s = .next t ∧ HostErrs c t.chip 4 ∧ t.chip.is SAF_STAT_CMDREJ = true ∧
        t.chip.isPending 107 = true ∧ c.BitsKept t.chip (SAF_STAT_CMDREJ :: evBit 107 :: hostErrBits) ∧
        t = { s with chip := { c with
          regs := t.chip.regs, ctr := c.ctr + 1, host := { c.host with err := true }, saf := { c.saf with stage := [] } } }) ∧
      (c.saf.cmd = none → ¬refused → exec p.2 s = .next { s with chip := { c with
        ctr := c.ctr + 1, saf := { c.saf with
          stage := [], cmd := some (op, at_, (List.range 16).map fun i => tabGet c.saf.stage 0 i) } } })) ∧
    (c.saf.cmd = none → ∀ ok : Bool, exec (.safCmdDone ok) s = .next { s with chip := { c with ctr := c.ctr + 1 } }) ∧
    (∀ op sl w, c.saf.cmd = some (op, sl, w) →
      let reads (k : Option StoreKeys) : Prop := k = c.boot.keys ∨ c.loadReady = true ∧ c.boot.keys = none ∧ k = some s.store
      (∃ t, exec (.safCmdDone true) s = .next t ∧ reads t.chip.boot.keys ∧ t = { s with
          nv := t.nv
          chip := { c with ctr := c.ctr + 1, saf := { c.saf with cmd := none }, boot := { c.boot with keys := t.chip.boot.keys } } } ∧
        (op = 1 ∨ op = 2 → t.nv = { s.nv with slots := t.nv.slots } ∧ ∀ k, tabGet t.nv.slots ({} : KeySlot) k =
          if k ≠ sl then tabGet s.nv.slots {} k
          else if op = 1 then { st := 1, hash := bytes (w.take 8), wrap := bytes ((w.drop 8).take 8) }
          else { tabGet s.nv.slots ({} : KeySlot) k with st := 2 }) ∧
        (op = 3 → t.nv = { s.nv with signreq := true }) ∧ (op = 5 → t.nv = { s.nv with dbgdis := true }) ∧
        (op = 4 → s.nv.dbgHash = none → t.nv = { s.nv with dbgHash := some (bytes (w.take 8)) })) ∧
      ∃ t, exec (.safCmdDone false) s = .next t ∧ t.chip.isPending 106 = true ∧ c.BitsKept t.chip [evBit 106] ∧
        reads t.chip.boot.keys ∧ t = { s with
          nv := { s.nv with tleft := s.nv.tleft - 1 }
          chip := { c with
            regs := t.chip.regs, ctr := c.ctr + 1, saf := { c.saf with cmd := none, tamper := true }
            boot := { c.boot with keys := t.chip.boot.keys } } })

/-- CHAL draws a challenge that stays valid until it expires or is used. VERIFY stops at the first check of R583 that fails,
with its WHY and source 105, and uses the challenge up; the fourth failure for WHY 1, 2 or 3 sets the tamper state. One that
passes all of them starts the erasure: the engine stops, and once it has, parts and primer are gone. Once
the engine has stopped and the primer is unloaded, the erasure of an unlock ends: every provisioned maker key slot is erased
for good, banks and cell memories read 0, with no write left waiting for them and none in the Restorer's save buffer, PROT falls,
the count of failures clears, and UNLOCKED rises with source 104. LOCK ends the unlock and releases every halt: the easel reads what
its receivers queued. While unlocked a write of DBG_HALT halts the block and the easel that it names, and releases the rest; source
109 rises as the easel's halt begins, and as the block's does where its MAC cells stand; otherwise the write is refused with WHY 4. -/
def Obligations.DebugUnlock : Prop :=
  (∀ s : State, s.chip.clocked = true →
     let c := s.chip
     let h := s.nv.dbgHash
     let key := sha256 (c.dbgResp 0 ++ c.dbgResp 8)
     let signed := ecdsaVerify (c.dbgResp 0) (c.dbgResp 8) (c.dbgResp 16) (c.dbgResp 24) c.dbgMessage
     let fails (why : Nat) : Prop := ∃ t, exec .dbgVerify s = .next t ∧ t.chip.fld DBG_STAT_WHY = why ∧
       t.chip.isPending 105 = true ∧ c.BitsKept t.chip [DBG_STAT_WHY, evBit 105, evBit 106] ∧ t.mem = s.mem ∧
       (3 < why ∨ c.saf.fails ≠ 3 → t.nv = s.nv ∧ t.chip.isPending 106 = c.isPending 106 ∧
         t.chip.saf = { c.saf with chalOk := false, fails := if why ≤ 3 then (c.saf.fails + 1) % 4 else c.saf.fails }) ∧
       (why ≤ 3 → c.saf.fails = 3 → t.nv = { s.nv with tleft := s.nv.tleft - 1 } ∧ t.chip.isPending 106 = true ∧
         t.chip.saf = { c.saf with chalOk := false, fails := 0, tamper := true }) ∧
       t = { s with nv := t.nv, chip := { c with regs := t.chip.regs, ctr := c.ctr + 1, saf := t.chip.saf } }
     (∃ t, exec .dbgChal s = .next t ∧ t.chip.saf = { c.saf with chalOk := true } ∧
       (∀ i, i < 8 → t.chip.reg (DBG_CHAL i) = bytesWord ((List.range 4).map fun k => Config.entropy c.ctr (4 * i + k))) ∧
       c.BitsKept t.chip ((List.range 8).map fun i => regField (DBG_CHAL i)) ∧
       t = { s with chip := { c with regs := t.chip.regs, ctr := c.ctr + 1, saf := { c.saf with chalOk := true } } }) ∧
     exec .dbgChalExpire s = .next { s with chip := { c with saf := { c.saf with chalOk := false } } } ∧
     (c.saf.tamper = true → fails 6) ∧
     (c.saf.tamper = false →
       (h = none ∨ s.nv.dbgdis = true → fails 4) ∧
       (h ≠ none → s.nv.dbgdis = false →
         (c.boot.loading.isSome = true → fails 5) ∧
         (c.boot.loading = none → c.saf.chalOk = false → fails 1) ∧
         (c.boot.loading = none → c.saf.chalOk = true → h ≠ some key → fails 2) ∧
         (c.boot.loading = none → c.saf.chalOk = true → h = some key → signed = false → fails 3) ∧
         (c.boot.loading = none → c.saf.chalOk = true → h = some key → signed = true → ∃ t, exec .dbgVerify s = .next t ∧
           t.chip.saf = { c.saf with chalOk := false, unlocking := true } ∧ t.mem = s.mem ∧ t.nv = s.nv ∧
           (c.stopped = false → t.chip.is CLK_CFG_ESTOP = true ∧ (c.clk.stopAt = none → t.chip.clk.stopAt = some (c.clk.smp + 1))) ∧
           (c.stopped = true → t.chip.pal.loaded = false ∧ t.chip.ez.store = [] ∧ t.chip.returned = [] ∧
             (c.pal.loaded = true → ∀ p, 0 < p → p < 64 → (t.chip.part p).exists_ = false)))))) ∧
  (∀ s : State, s.chip.clocked = true →
     let c := s.chip
     let ready := c.saf.unlocking = true ∧ c.clk.stopAt = none ∧ c.pal.loaded = false
     let silent := ∀ i, i < 4 → (c.midiOf i).rx = []
     let drained (t : State) : Prop := ∀ i, i < 4 → t.chip.midiOf i = { c.midiOf i with rx := [], dropped := false }
     (¬ready → exec .dbgUnlockDone s = .next { s with chip := { c with ctr := c.ctr + 1 } }) ∧
     (ready → ∃ t, exec .dbgUnlockDone s = .next t ∧ t.mem = {} ∧ t.chip.isPending 104 = true ∧
       c.BitsKept t.chip (evBit 104 :: (List.range 4).flatMap fun r => [RGNn_MSTAT_WBOCC r, RGNn_MSTAT_BUSY r, PWR_RGSTAT_DOZING r]) ∧
       t.chip.saf = { c.saf with unlocking := false, unlocked := true, prot := false, fails := 0 } ∧
       (∀ r, r < 4 → (c.rm r).wbuf.length ≤ 32 → (t.chip.rm r).wbuf = []) ∧
       (c.rep.step.on = false → t.chip.rep = c.rep) ∧
       (c.rep.step.on = true → t.chip.rep = { c.rep with step := { c.rep.step with save := List.replicate 256 0 } }) ∧
       t.nv = { s.nv with slots := t.nv.slots, erased := true } ∧
       (∀ k, (tabGet t.nv.slots ({} : KeySlot) k).st = if (tabGet s.nv.slots ({} : KeySlot) k).st = 1 then 3
         else (tabGet s.nv.slots ({} : KeySlot) k).st) ∧
       (∀ k, (t.chip.blk k).pm0 = [] ∧ (t.chip.blk k).pm1 = [] ∧ (t.chip.blk k).cache = []) ∧
       (∀ k, t.chip.slot k = { gen := (c.slot k).gen }) ∧ (∀ p, (t.chip.part p).front = [] ∧ (t.chip.part p).back = []) ∧
       t = { s with mem := {}, nv := t.nv, chip := { c with
         regs := t.chip.regs, ctr := c.ctr + 1, blocks := t.chip.blocks, slots := t.chip.slots, parts := t.chip.parts
         rmem := t.chip.rmem, rep := t.chip.rep, pwr := { c.pwr with dozing := t.chip.pwr.dozing, point := t.chip.pwr.point }
         saf := t.chip.saf } }) ∧
     (∃ t, exec .dbgLock s = .next t ∧ t.chip.saf = { c.saf with unlocked := false } ∧ t.chip.reg DBG_HALT = 0 ∧
       t.chip.ez.halted = false ∧ (∀ i, i < 4 → (t.chip.midiOf i).rx = []) ∧ s.SameStore t ∧
       (∀ k, k < 96 → (t.chip.blk k).halted = false ∧ ((c.blk k).halted = false → t.chip.blk k = c.blk k)) ∧
       (silent → c.BitsKept t.chip [regField DBG_HALT] ∧ drained t ∧ t = { s with chip := { c with
         regs := t.chip.regs, blocks := t.chip.blocks, saf := t.chip.saf
         ez := { c.ez with halted := false, midi := t.chip.ez.midi } } })) ∧
     (∀ v : Word,
       let b := fieldOf v 0 5
       let k := blkKey (fieldOf v 5 2) b
       let names := v.getLsbD 15 = true ∧ b < 24
       let easel := v.getLsbD 16 = true ∧ c.ez.halted = false
       let due := names ∧ ((c.blk k).halted = false ∨ (c.blk k).haltDue = true)
       let stand := ∀ u, u < 3 → ((c.blk k).cell u).running = false ∨ ((c.blk k).cell u).halted = true
       ∃ t, exec (.dbgHaltWrite v) s = .next t ∧
         (c.saf.unlocked = false → HostErrs c t.chip 4 ∧ c.BitsKept t.chip hostErrBits ∧
           t = { s with chip := { c with regs := t.chip.regs, host := { c.host with err := true } } }) ∧
         (c.saf.unlocked = true → t.chip.reg DBG_HALT = v &&& 0x1807F ∧ t.chip.ez.halted = v.getLsbD 16 ∧ s.SameStore t ∧
           (∀ j, j < 96 → ((t.chip.blk j).halted = true ↔ names ∧ j = k)) ∧
           (names → ((t.chip.blk k).haltDue = true ↔ due ∧ ¬stand)) ∧
           (easel ∨ due ∧ stand → t.chip.isPending 109 = true) ∧
           (¬easel → ¬(due ∧ stand) → t.chip.isPending 109 = c.isPending 109) ∧
           (v.getLsbD 16 = false → ∀ i, i < 4 → (t.chip.midiOf i).rx = []) ∧
           (v.getLsbD 16 = true ∨ silent → c.BitsKept t.chip [regField DBG_HALT, evBit 109] ∧
             (v.getLsbD 16 = true → t.chip.ez.midi = c.ez.midi) ∧ (v.getLsbD 16 = false → drained t) ∧
             t = { s with chip := { c with
               regs := t.chip.regs, blocks := t.chip.blocks
               ez := { c.ez with halted := v.getLsbD 16, midi := t.chip.ez.midi } } }))))

/-- The TAP works whenever VIN is present, and its instructions act on nothing but its own registers. EXTEST and CLAMP drive
each scanned pin that has an output by its cells of the boundary-scan register, HIGHZ leaves them floating, SAMPLE captures
the pins sampled, IDCODE reads 0x01536E5B, and BYPASS, CLAMP and HIGHZ capture 0. DBGACC keeps what was shifted in, with DATA
and DONE of its access, and captures them at their bits. A misaligned one, and one while the chip logic does not run, is not
taken; while locked it reads 0 and writes nothing beyond the DBG registers; it reads and writes these always, and every
register, parameter and open bank word while unlocked. -/
def Obligations.TapAndDebugAccess : Prop :=
  (∀ (s : State) (shift : BitVec 171) (pins : BitVec 57) (code : BitVec 5), s.chip.pwr.vin = true →
     let tap := s.chip.tap
     let only (i : Instr) (f : Tap → Prop) : Prop := ∃ x, exec i s = .next { s with chip := { s.chip with tap := x } } ∧ f x
     let driven (x : Tap) : Prop := ∀ i, i < 57 → x.pin i =
       if i = 30 ∨ i = 33 ∨ 34 ≤ i ∧ i ≤ 37 then none
       else some (if x.bsr.getLsbD (3 * i + 2) then some (x.bsr.getLsbD (3 * i + 1)) else none)
     only (.extest shift) (fun x => x = { tap with ir := 0, bsr := shift } ∧ driven x) ∧
     only (.samplePreload pins shift) (fun x => x = { tap with ir := 1, sampled := pins, bsr := shift } ∧ (∀ i, x.pin i = none) ∧
       ∀ i, i < 57 → x.capture.testBit (3 * i) = pins.getLsbD i ∧ x.capture.testBit (3 * i + 1) = shift.getLsbD (3 * i + 1) ∧
         x.capture.testBit (3 * i + 2) = shift.getLsbD (3 * i + 2)) ∧
     (∀ i ∈ [Instr.idcode, .tapReset], only i fun x => x = { tap with ir := 2 } ∧ x.capture = 0x01536E5B ∧ ∀ i, x.pin i = none) ∧
     only .highz (fun x => x = { tap with ir := 4, byp := false } ∧ x.capture = 0 ∧
       ∀ i, i < 57 → x.pin i = if i = 30 ∨ i = 33 ∨ 34 ≤ i ∧ i ≤ 37 then none else some none) ∧
     only .clamp (fun x => x = { tap with ir := 5, byp := false } ∧ x.capture = 0 ∧ driven x) ∧
     only (.bypass code) (fun x => x.capture = 0 ∧ (∀ i, x.pin i = none) ∧ x = { tap with
       ir := if code.toNat ∈ [0, 1, 2, 4, 5, 16] then 0x1F else code.toNat, byp := false })) ∧
  (∀ (s : State) (shift : BitVec 66) (same : Word), s.chip.pwr.vin = true →
     let c := s.chip
     let w := shift.extractLsb' 1 32
     let a := w.toNat
     let v : Word := shift.extractLsb' 33 32
     let tap (data : Word) (done : Bool) : Tap := { c.tap with
       ir := 0x10, wr := shift.getLsbD 0, addr := w, data := data, done := done }
     let quiet (data : Word) (done : Bool) : Prop :=
       exec (.dbgacc shift same) s = .next { s with chip := { c with tap := tap data done, ctr := c.ctr + 1 } }
     let reads := shift.getLsbD 0 = false
     let writes := shift.getLsbD 0 = true
     (∃ t, exec (.dbgacc shift same) s = .next t ∧ t.chip.tap.ir = 0x10 ∧ let x := t.chip.tap
       x.capture.testBit 0 = shift.getLsbD 0 ∧ x.capture / 2 % 2 ^ 32 = a ∧ x.capture / 2 ^ 33 % 2 ^ 32 = x.data.toNat ∧
       x.capture.testBit 65 = x.done) ∧
     (a % 4 ≠ 0 ∨ c.clocked = false → quiet 0 false) ∧
     (a % 4 = 0 → c.clocked = true →
       (c.saf.unlocked = false → ¬(0xB100 ≤ a ∧ a < 0xB200) → quiet 0 true) ∧
       (reads → a = DBG_STAT → quiet c.dbgStat true) ∧ (∀ i : Fin 8, reads → a = DBG_CHAL i → quiet (c.reg (DBG_CHAL i)) true) ∧
       (writes → a = DBG_CTL → v = 1 → ∃ t, exec .dbgLock s = .next t ∧
         exec (.dbgacc shift same) s = .next { t with chip := { t.chip with tap := tap 0 true, ctr := t.chip.ctr + 1 } }) ∧
       (∀ j : Fin 32, writes → a = 0xB140 + 4 * j → exec (.dbgacc shift same) s = .next { s with chip := { c with
         tap := tap 0 true, ctr := c.ctr + 1, saf := { c.saf with resp := tabSet c.saf.resp 0 j v } } }) ∧
       (writes → a = DBG_HALT → c.saf.unlocked = false → quiet 0 false) ∧
       (c.saf.unlocked = true →
         (reads → a ∈ plainReads → ∃ t, exec (.dbgacc shift same) s = .next t ∧ t.chip.tap = tap (t.chip.reg a) true ∧
           ∀ n, t.chip.reg n = c.reg n) ∧
         (writes → a ∈ plainRegs → ∀ d, findReg a = some d → ∃ t, exec (.dbgacc shift same) s = .next t ∧ t.chip.tap = tap 0 true ∧
           t = { s with chip := { c with regs := t.chip.regs, tap := tap 0 true, ctr := c.ctr + 1 } } ∧
           c.BitsKept t.chip [regField a] ∧ ∀ i, (t.chip.reg a).getLsbD i = if d.rw.testBit i then v.getLsbD i
             else (c.reg a).getLsbD i && !(d.w1c.testBit i && v.getLsbD i && !same.getLsbD i)) ∧
         (writes → placeOf a = .bank → (c.rm (bankRegion a)).wbuf.length < 32 → ∃ t, exec (.dbgacc shift same) s = .next t ∧
           t.chip.tap = tap 0 true ∧ (t.chip.rm (bankRegion a)).wbuf = (c.rm (bankRegion a)).wbuf ++ [(a, v)] ∧ t.mem = s.mem) ∧
         (reads → placeOf a = .bank → bankRegion a ∉ c.pwr.oos → (c.rm (bankRegion a)).retained = false → s.quietRead a →
           ∃ t, exec (.dbgacc shift same) s = .next t ∧ t.chip.tap = tap (s.portWord a) true ∧ t.mem = s.mem) ∧
         (placeOf a = .outside → quiet 0 false))))
end

