-- ==== Sys2Proof/Laws/State.lean ====
section
/-! SUPPORT. What each named update of the device leaves alone: one lemma per update and field, and what it writes. -/

namespace Sys2Proof.Machine

variable (c : Chip)

/-! ### setReg writes `regs` only -/

@[simp] theorem Chip.setReg_ctr (a : Nat) (v : Word) : (c.setReg a v).ctr = c.ctr := rfl
@[simp] theorem Chip.setReg_clk (a : Nat) (v : Word) : (c.setReg a v).clk = c.clk := rfl
@[simp] theorem Chip.setReg_pal (a : Nat) (v : Word) : (c.setReg a v).pal = c.pal := rfl
@[simp] theorem Chip.setReg_blocks (a : Nat) (v : Word) : (c.setReg a v).blocks = c.blocks := rfl
@[simp] theorem Chip.setReg_slots (a : Nat) (v : Word) : (c.setReg a v).slots = c.slots := rfl
@[simp] theorem Chip.setReg_late (a : Nat) (v : Word) : (c.setReg a v).late = c.late := rfl
@[simp] theorem Chip.setReg_tails (a : Nat) (v : Word) : (c.setReg a v).tails = c.tails := rfl
@[simp] theorem Chip.setReg_regions (a : Nat) (v : Word) : (c.setReg a v).regions = c.regions := rfl
@[simp] theorem Chip.setReg_rmem (a : Nat) (v : Word) : (c.setReg a v).rmem = c.rmem := rfl
@[simp] theorem Chip.setReg_parts (a : Nat) (v : Word) : (c.setReg a v).parts = c.parts := rfl
@[simp] theorem Chip.setReg_returned (a : Nat) (v : Word) : (c.setReg a v).returned = c.returned := rfl
@[simp] theorem Chip.setReg_ez (a : Nat) (v : Word) : (c.setReg a v).ez = c.ez := rfl
@[simp] theorem Chip.setReg_cnv (a : Nat) (v : Word) : (c.setReg a v).cnv = c.cnv := rfl
@[simp] theorem Chip.setReg_ao (a : Nat) (v : Word) : (c.setReg a v).ao = c.ao := rfl
@[simp] theorem Chip.setReg_cv (a : Nat) (v : Word) : (c.setReg a v).cv = c.cv := rfl
@[simp] theorem Chip.setReg_cvg (a : Nat) (v : Word) : (c.setReg a v).cvg = c.cvg := rfl
@[simp] theorem Chip.setReg_cvNew (a : Nat) (v : Word) : (c.setReg a v).cvNew = c.cvNew := rfl
@[simp] theorem Chip.setReg_cvNow (a : Nat) (v : Word) : (c.setReg a v).cvNow = c.cvNow := rfl
@[simp] theorem Chip.setReg_pumpStop (a : Nat) (v : Word) : (c.setReg a v).pumpStop = c.pumpStop := rfl
@[simp] theorem Chip.setReg_ai (a : Nat) (v : Word) : (c.setReg a v).ai = c.ai := rfl
@[simp] theorem Chip.setReg_sa (a : Nat) (v : Word) : (c.setReg a v).sa = c.sa := rfl
@[simp] theorem Chip.setReg_dma (a : Nat) (v : Word) : (c.setReg a v).dma = c.dma := rfl
@[simp] theorem Chip.setReg_dmaLast (a : Nat) (v : Word) : (c.setReg a v).dmaLast = c.dmaLast := rfl
@[simp] theorem Chip.setReg_tmr (a : Nat) (v : Word) : (c.setReg a v).tmr = c.tmr := rfl
@[simp] theorem Chip.setReg_tempo (a : Nat) (v : Word) : (c.setReg a v).tempo = c.tempo := rfl
@[simp] theorem Chip.setReg_trg (a : Nat) (v : Word) : (c.setReg a v).trg = c.trg := rfl
@[simp] theorem Chip.setReg_trgNow (a : Nat) (v : Word) : (c.setReg a v).trgNow = c.trgNow := rfl
@[simp] theorem Chip.setReg_gpIn (a : Nat) (v : Word) : (c.setReg a v).gpIn = c.gpIn := rfl
@[simp] theorem Chip.setReg_host (a : Nat) (v : Word) : (c.setReg a v).host = c.host := rfl
@[simp] theorem Chip.setReg_rep (a : Nat) (v : Word) : (c.setReg a v).rep = c.rep := rfl
@[simp] theorem Chip.setReg_boot (a : Nat) (v : Word) : (c.setReg a v).boot = c.boot := rfl
@[simp] theorem Chip.setReg_saf (a : Nat) (v : Word) : (c.setReg a v).saf = c.saf := rfl
@[simp] theorem Chip.setReg_tap (a : Nat) (v : Word) : (c.setReg a v).tap = c.tap := rfl
@[simp] theorem Chip.setReg_pwr (a : Nat) (v : Word) : (c.setReg a v).pwr = c.pwr := rfl

/-! ### setFld writes `regs` only -/

@[simp] theorem Chip.setFld_ctr (f : Field) (v : Nat) : (c.setFld f v).ctr = c.ctr := rfl
@[simp] theorem Chip.setFld_clk (f : Field) (v : Nat) : (c.setFld f v).clk = c.clk := rfl
@[simp] theorem Chip.setFld_pal (f : Field) (v : Nat) : (c.setFld f v).pal = c.pal := rfl
@[simp] theorem Chip.setFld_blocks (f : Field) (v : Nat) : (c.setFld f v).blocks = c.blocks := rfl
@[simp] theorem Chip.setFld_slots (f : Field) (v : Nat) : (c.setFld f v).slots = c.slots := rfl
@[simp] theorem Chip.setFld_late (f : Field) (v : Nat) : (c.setFld f v).late = c.late := rfl
@[simp] theorem Chip.setFld_tails (f : Field) (v : Nat) : (c.setFld f v).tails = c.tails := rfl
@[simp] theorem Chip.setFld_regions (f : Field) (v : Nat) : (c.setFld f v).regions = c.regions := rfl
@[simp] theorem Chip.setFld_rmem (f : Field) (v : Nat) : (c.setFld f v).rmem = c.rmem := rfl
@[simp] theorem Chip.setFld_parts (f : Field) (v : Nat) : (c.setFld f v).parts = c.parts := rfl
@[simp] theorem Chip.setFld_returned (f : Field) (v : Nat) : (c.setFld f v).returned = c.returned := rfl
@[simp] theorem Chip.setFld_ez (f : Field) (v : Nat) : (c.setFld f v).ez = c.ez := rfl
@[simp] theorem Chip.setFld_cnv (f : Field) (v : Nat) : (c.setFld f v).cnv = c.cnv := rfl
@[simp] theorem Chip.setFld_ao (f : Field) (v : Nat) : (c.setFld f v).ao = c.ao := rfl
@[simp] theorem Chip.setFld_cv (f : Field) (v : Nat) : (c.setFld f v).cv = c.cv := rfl
@[simp] theorem Chip.setFld_cvg (f : Field) (v : Nat) : (c.setFld f v).cvg = c.cvg := rfl
@[simp] theorem Chip.setFld_cvNew (f : Field) (v : Nat) : (c.setFld f v).cvNew = c.cvNew := rfl
@[simp] theorem Chip.setFld_cvNow (f : Field) (v : Nat) : (c.setFld f v).cvNow = c.cvNow := rfl
@[simp] theorem Chip.setFld_pumpStop (f : Field) (v : Nat) : (c.setFld f v).pumpStop = c.pumpStop := rfl
@[simp] theorem Chip.setFld_ai (f : Field) (v : Nat) : (c.setFld f v).ai = c.ai := rfl
@[simp] theorem Chip.setFld_sa (f : Field) (v : Nat) : (c.setFld f v).sa = c.sa := rfl
@[simp] theorem Chip.setFld_dma (f : Field) (v : Nat) : (c.setFld f v).dma = c.dma := rfl
@[simp] theorem Chip.setFld_dmaLast (f : Field) (v : Nat) : (c.setFld f v).dmaLast = c.dmaLast := rfl
@[simp] theorem Chip.setFld_tmr (f : Field) (v : Nat) : (c.setFld f v).tmr = c.tmr := rfl
@[simp] theorem Chip.setFld_tempo (f : Field) (v : Nat) : (c.setFld f v).tempo = c.tempo := rfl
@[simp] theorem Chip.setFld_trg (f : Field) (v : Nat) : (c.setFld f v).trg = c.trg := rfl
@[simp] theorem Chip.setFld_trgNow (f : Field) (v : Nat) : (c.setFld f v).trgNow = c.trgNow := rfl
@[simp] theorem Chip.setFld_gpIn (f : Field) (v : Nat) : (c.setFld f v).gpIn = c.gpIn := rfl
@[simp] theorem Chip.setFld_host (f : Field) (v : Nat) : (c.setFld f v).host = c.host := rfl
@[simp] theorem Chip.setFld_rep (f : Field) (v : Nat) : (c.setFld f v).rep = c.rep := rfl
@[simp] theorem Chip.setFld_boot (f : Field) (v : Nat) : (c.setFld f v).boot = c.boot := rfl
@[simp] theorem Chip.setFld_saf (f : Field) (v : Nat) : (c.setFld f v).saf = c.saf := rfl
@[simp] theorem Chip.setFld_tap (f : Field) (v : Nat) : (c.setFld f v).tap = c.tap := rfl
@[simp] theorem Chip.setFld_pwr (f : Field) (v : Nat) : (c.setFld f v).pwr = c.pwr := rfl

/-! ### set1 writes `regs` only -/

@[simp] theorem Chip.set1_ctr (f : Field) : (c.set1 f).ctr = c.ctr := rfl
@[simp] theorem Chip.set1_clk (f : Field) : (c.set1 f).clk = c.clk := rfl
@[simp] theorem Chip.set1_pal (f : Field) : (c.set1 f).pal = c.pal := rfl
@[simp] theorem Chip.set1_blocks (f : Field) : (c.set1 f).blocks = c.blocks := rfl
@[simp] theorem Chip.set1_slots (f : Field) : (c.set1 f).slots = c.slots := rfl
@[simp] theorem Chip.set1_late (f : Field) : (c.set1 f).late = c.late := rfl
@[simp] theorem Chip.set1_tails (f : Field) : (c.set1 f).tails = c.tails := rfl
@[simp] theorem Chip.set1_regions (f : Field) : (c.set1 f).regions = c.regions := rfl
@[simp] theorem Chip.set1_rmem (f : Field) : (c.set1 f).rmem = c.rmem := rfl
@[simp] theorem Chip.set1_parts (f : Field) : (c.set1 f).parts = c.parts := rfl
@[simp] theorem Chip.set1_returned (f : Field) : (c.set1 f).returned = c.returned := rfl
@[simp] theorem Chip.set1_ez (f : Field) : (c.set1 f).ez = c.ez := rfl
@[simp] theorem Chip.set1_cnv (f : Field) : (c.set1 f).cnv = c.cnv := rfl
@[simp] theorem Chip.set1_ao (f : Field) : (c.set1 f).ao = c.ao := rfl
@[simp] theorem Chip.set1_cv (f : Field) : (c.set1 f).cv = c.cv := rfl
@[simp] theorem Chip.set1_cvg (f : Field) : (c.set1 f).cvg = c.cvg := rfl
@[simp] theorem Chip.set1_cvNew (f : Field) : (c.set1 f).cvNew = c.cvNew := rfl
@[simp] theorem Chip.set1_cvNow (f : Field) : (c.set1 f).cvNow = c.cvNow := rfl
@[simp] theorem Chip.set1_pumpStop (f : Field) : (c.set1 f).pumpStop = c.pumpStop := rfl
@[simp] theorem Chip.set1_ai (f : Field) : (c.set1 f).ai = c.ai := rfl
@[simp] theorem Chip.set1_sa (f : Field) : (c.set1 f).sa = c.sa := rfl
@[simp] theorem Chip.set1_dma (f : Field) : (c.set1 f).dma = c.dma := rfl
@[simp] theorem Chip.set1_dmaLast (f : Field) : (c.set1 f).dmaLast = c.dmaLast := rfl
@[simp] theorem Chip.set1_tmr (f : Field) : (c.set1 f).tmr = c.tmr := rfl
@[simp] theorem Chip.set1_tempo (f : Field) : (c.set1 f).tempo = c.tempo := rfl
@[simp] theorem Chip.set1_trg (f : Field) : (c.set1 f).trg = c.trg := rfl
@[simp] theorem Chip.set1_trgNow (f : Field) : (c.set1 f).trgNow = c.trgNow := rfl
@[simp] theorem Chip.set1_gpIn (f : Field) : (c.set1 f).gpIn = c.gpIn := rfl
@[simp] theorem Chip.set1_host (f : Field) : (c.set1 f).host = c.host := rfl
@[simp] theorem Chip.set1_rep (f : Field) : (c.set1 f).rep = c.rep := rfl
@[simp] theorem Chip.set1_boot (f : Field) : (c.set1 f).boot = c.boot := rfl
@[simp] theorem Chip.set1_saf (f : Field) : (c.set1 f).saf = c.saf := rfl
@[simp] theorem Chip.set1_tap (f : Field) : (c.set1 f).tap = c.tap := rfl
@[simp] theorem Chip.set1_pwr (f : Field) : (c.set1 f).pwr = c.pwr := rfl

/-! ### clr writes `regs` only -/

@[simp] theorem Chip.clr_ctr (f : Field) : (c.clr f).ctr = c.ctr := rfl
@[simp] theorem Chip.clr_clk (f : Field) : (c.clr f).clk = c.clk := rfl
@[simp] theorem Chip.clr_pal (f : Field) : (c.clr f).pal = c.pal := rfl
@[simp] theorem Chip.clr_blocks (f : Field) : (c.clr f).blocks = c.blocks := rfl
@[simp] theorem Chip.clr_slots (f : Field) : (c.clr f).slots = c.slots := rfl
@[simp] theorem Chip.clr_late (f : Field) : (c.clr f).late = c.late := rfl
@[simp] theorem Chip.clr_tails (f : Field) : (c.clr f).tails = c.tails := rfl
@[simp] theorem Chip.clr_regions (f : Field) : (c.clr f).regions = c.regions := rfl
@[simp] theorem Chip.clr_rmem (f : Field) : (c.clr f).rmem = c.rmem := rfl
@[simp] theorem Chip.clr_parts (f : Field) : (c.clr f).parts = c.parts := rfl
@[simp] theorem Chip.clr_returned (f : Field) : (c.clr f).returned = c.returned := rfl
@[simp] theorem Chip.clr_ez (f : Field) : (c.clr f).ez = c.ez := rfl
@[simp] theorem Chip.clr_cnv (f : Field) : (c.clr f).cnv = c.cnv := rfl
@[simp] theorem Chip.clr_ao (f : Field) : (c.clr f).ao = c.ao := rfl
@[simp] theorem Chip.clr_cv (f : Field) : (c.clr f).cv = c.cv := rfl
@[simp] theorem Chip.clr_cvg (f : Field) : (c.clr f).cvg = c.cvg := rfl
@[simp] theorem Chip.clr_cvNew (f : Field) : (c.clr f).cvNew = c.cvNew := rfl
@[simp] theorem Chip.clr_cvNow (f : Field) : (c.clr f).cvNow = c.cvNow := rfl
@[simp] theorem Chip.clr_pumpStop (f : Field) : (c.clr f).pumpStop = c.pumpStop := rfl
@[simp] theorem Chip.clr_ai (f : Field) : (c.clr f).ai = c.ai := rfl
@[simp] theorem Chip.clr_sa (f : Field) : (c.clr f).sa = c.sa := rfl
@[simp] theorem Chip.clr_dma (f : Field) : (c.clr f).dma = c.dma := rfl
@[simp] theorem Chip.clr_dmaLast (f : Field) : (c.clr f).dmaLast = c.dmaLast := rfl
@[simp] theorem Chip.clr_tmr (f : Field) : (c.clr f).tmr = c.tmr := rfl
@[simp] theorem Chip.clr_tempo (f : Field) : (c.clr f).tempo = c.tempo := rfl
@[simp] theorem Chip.clr_trg (f : Field) : (c.clr f).trg = c.trg := rfl
@[simp] theorem Chip.clr_trgNow (f : Field) : (c.clr f).trgNow = c.trgNow := rfl
@[simp] theorem Chip.clr_gpIn (f : Field) : (c.clr f).gpIn = c.gpIn := rfl
@[simp] theorem Chip.clr_host (f : Field) : (c.clr f).host = c.host := rfl
@[simp] theorem Chip.clr_rep (f : Field) : (c.clr f).rep = c.rep := rfl
@[simp] theorem Chip.clr_boot (f : Field) : (c.clr f).boot = c.boot := rfl
@[simp] theorem Chip.clr_saf (f : Field) : (c.clr f).saf = c.saf := rfl
@[simp] theorem Chip.clr_tap (f : Field) : (c.clr f).tap = c.tap := rfl
@[simp] theorem Chip.clr_pwr (f : Field) : (c.clr f).pwr = c.pwr := rfl

/-! ### putB writes `regs` only -/

@[simp] theorem Chip.putB_ctr (f : Field) (b : Bool) : (c.putB f b).ctr = c.ctr := rfl
@[simp] theorem Chip.putB_clk (f : Field) (b : Bool) : (c.putB f b).clk = c.clk := rfl
@[simp] theorem Chip.putB_pal (f : Field) (b : Bool) : (c.putB f b).pal = c.pal := rfl
@[simp] theorem Chip.putB_blocks (f : Field) (b : Bool) : (c.putB f b).blocks = c.blocks := rfl
@[simp] theorem Chip.putB_slots (f : Field) (b : Bool) : (c.putB f b).slots = c.slots := rfl
@[simp] theorem Chip.putB_late (f : Field) (b : Bool) : (c.putB f b).late = c.late := rfl
@[simp] theorem Chip.putB_tails (f : Field) (b : Bool) : (c.putB f b).tails = c.tails := rfl
@[simp] theorem Chip.putB_regions (f : Field) (b : Bool) : (c.putB f b).regions = c.regions := rfl
@[simp] theorem Chip.putB_rmem (f : Field) (b : Bool) : (c.putB f b).rmem = c.rmem := rfl
@[simp] theorem Chip.putB_parts (f : Field) (b : Bool) : (c.putB f b).parts = c.parts := rfl
@[simp] theorem Chip.putB_returned (f : Field) (b : Bool) : (c.putB f b).returned = c.returned := rfl
@[simp] theorem Chip.putB_ez (f : Field) (b : Bool) : (c.putB f b).ez = c.ez := rfl
@[simp] theorem Chip.putB_cnv (f : Field) (b : Bool) : (c.putB f b).cnv = c.cnv := rfl
@[simp] theorem Chip.putB_ao (f : Field) (b : Bool) : (c.putB f b).ao = c.ao := rfl
@[simp] theorem Chip.putB_cv (f : Field) (b : Bool) : (c.putB f b).cv = c.cv := rfl
@[simp] theorem Chip.putB_cvg (f : Field) (b : Bool) : (c.putB f b).cvg = c.cvg := rfl
@[simp] theorem Chip.putB_cvNew (f : Field) (b : Bool) : (c.putB f b).cvNew = c.cvNew := rfl
@[simp] theorem Chip.putB_cvNow (f : Field) (b : Bool) : (c.putB f b).cvNow = c.cvNow := rfl
@[simp] theorem Chip.putB_pumpStop (f : Field) (b : Bool) : (c.putB f b).pumpStop = c.pumpStop := rfl
@[simp] theorem Chip.putB_ai (f : Field) (b : Bool) : (c.putB f b).ai = c.ai := rfl
@[simp] theorem Chip.putB_sa (f : Field) (b : Bool) : (c.putB f b).sa = c.sa := rfl
@[simp] theorem Chip.putB_dma (f : Field) (b : Bool) : (c.putB f b).dma = c.dma := rfl
@[simp] theorem Chip.putB_dmaLast (f : Field) (b : Bool) : (c.putB f b).dmaLast = c.dmaLast := rfl
@[simp] theorem Chip.putB_tmr (f : Field) (b : Bool) : (c.putB f b).tmr = c.tmr := rfl
@[simp] theorem Chip.putB_tempo (f : Field) (b : Bool) : (c.putB f b).tempo = c.tempo := rfl
@[simp] theorem Chip.putB_trg (f : Field) (b : Bool) : (c.putB f b).trg = c.trg := rfl
@[simp] theorem Chip.putB_trgNow (f : Field) (b : Bool) : (c.putB f b).trgNow = c.trgNow := rfl
@[simp] theorem Chip.putB_gpIn (f : Field) (b : Bool) : (c.putB f b).gpIn = c.gpIn := rfl
@[simp] theorem Chip.putB_host (f : Field) (b : Bool) : (c.putB f b).host = c.host := rfl
@[simp] theorem Chip.putB_rep (f : Field) (b : Bool) : (c.putB f b).rep = c.rep := rfl
@[simp] theorem Chip.putB_boot (f : Field) (b : Bool) : (c.putB f b).boot = c.boot := rfl
@[simp] theorem Chip.putB_saf (f : Field) (b : Bool) : (c.putB f b).saf = c.saf := rfl
@[simp] theorem Chip.putB_tap (f : Field) (b : Bool) : (c.putB f b).tap = c.tap := rfl
@[simp] theorem Chip.putB_pwr (f : Field) (b : Bool) : (c.putB f b).pwr = c.pwr := rfl

/-! ### addCnt writes `regs` only -/

@[simp] theorem Chip.addCnt_ctr (f : Field) (n : Nat) : (c.addCnt f n).ctr = c.ctr := rfl
@[simp] theorem Chip.addCnt_clk (f : Field) (n : Nat) : (c.addCnt f n).clk = c.clk := rfl
@[simp] theorem Chip.addCnt_pal (f : Field) (n : Nat) : (c.addCnt f n).pal = c.pal := rfl
@[simp] theorem Chip.addCnt_blocks (f : Field) (n : Nat) : (c.addCnt f n).blocks = c.blocks := rfl
@[simp] theorem Chip.addCnt_slots (f : Field) (n : Nat) : (c.addCnt f n).slots = c.slots := rfl
@[simp] theorem Chip.addCnt_late (f : Field) (n : Nat) : (c.addCnt f n).late = c.late := rfl
@[simp] theorem Chip.addCnt_tails (f : Field) (n : Nat) : (c.addCnt f n).tails = c.tails := rfl
@[simp] theorem Chip.addCnt_regions (f : Field) (n : Nat) : (c.addCnt f n).regions = c.regions := rfl
@[simp] theorem Chip.addCnt_rmem (f : Field) (n : Nat) : (c.addCnt f n).rmem = c.rmem := rfl
@[simp] theorem Chip.addCnt_parts (f : Field) (n : Nat) : (c.addCnt f n).parts = c.parts := rfl
@[simp] theorem Chip.addCnt_returned (f : Field) (n : Nat) : (c.addCnt f n).returned = c.returned := rfl
@[simp] theorem Chip.addCnt_ez (f : Field) (n : Nat) : (c.addCnt f n).ez = c.ez := rfl
@[simp] theorem Chip.addCnt_cnv (f : Field) (n : Nat) : (c.addCnt f n).cnv = c.cnv := rfl
@[simp] theorem Chip.addCnt_ao (f : Field) (n : Nat) : (c.addCnt f n).ao = c.ao := rfl
@[simp] theorem Chip.addCnt_cv (f : Field) (n : Nat) : (c.addCnt f n).cv = c.cv := rfl
@[simp] theorem Chip.addCnt_cvg (f : Field) (n : Nat) : (c.addCnt f n).cvg = c.cvg := rfl
@[simp] theorem Chip.addCnt_cvNew (f : Field) (n : Nat) : (c.addCnt f n).cvNew = c.cvNew := rfl
@[simp] theorem Chip.addCnt_cvNow (f : Field) (n : Nat) : (c.addCnt f n).cvNow = c.cvNow := rfl
@[simp] theorem Chip.addCnt_pumpStop (f : Field) (n : Nat) : (c.addCnt f n).pumpStop = c.pumpStop := rfl
@[simp] theorem Chip.addCnt_ai (f : Field) (n : Nat) : (c.addCnt f n).ai = c.ai := rfl
@[simp] theorem Chip.addCnt_sa (f : Field) (n : Nat) : (c.addCnt f n).sa = c.sa := rfl
@[simp] theorem Chip.addCnt_dma (f : Field) (n : Nat) : (c.addCnt f n).dma = c.dma := rfl
@[simp] theorem Chip.addCnt_dmaLast (f : Field) (n : Nat) : (c.addCnt f n).dmaLast = c.dmaLast := rfl
@[simp] theorem Chip.addCnt_tmr (f : Field) (n : Nat) : (c.addCnt f n).tmr = c.tmr := rfl
@[simp] theorem Chip.addCnt_tempo (f : Field) (n : Nat) : (c.addCnt f n).tempo = c.tempo := rfl
@[simp] theorem Chip.addCnt_trg (f : Field) (n : Nat) : (c.addCnt f n).trg = c.trg := rfl
@[simp] theorem Chip.addCnt_trgNow (f : Field) (n : Nat) : (c.addCnt f n).trgNow = c.trgNow := rfl
@[simp] theorem Chip.addCnt_gpIn (f : Field) (n : Nat) : (c.addCnt f n).gpIn = c.gpIn := rfl
@[simp] theorem Chip.addCnt_host (f : Field) (n : Nat) : (c.addCnt f n).host = c.host := rfl
@[simp] theorem Chip.addCnt_rep (f : Field) (n : Nat) : (c.addCnt f n).rep = c.rep := rfl
@[simp] theorem Chip.addCnt_boot (f : Field) (n : Nat) : (c.addCnt f n).boot = c.boot := rfl
@[simp] theorem Chip.addCnt_saf (f : Field) (n : Nat) : (c.addCnt f n).saf = c.saf := rfl
@[simp] theorem Chip.addCnt_tap (f : Field) (n : Nat) : (c.addCnt f n).tap = c.tap := rfl
@[simp] theorem Chip.addCnt_pwr (f : Field) (n : Nat) : (c.addCnt f n).pwr = c.pwr := rfl

/-! ### bump writes `regs` only -/

@[simp] theorem Chip.bump_ctr (f : Field) : (c.bump f).ctr = c.ctr := rfl
@[simp] theorem Chip.bump_clk (f : Field) : (c.bump f).clk = c.clk := rfl
@[simp] theorem Chip.bump_pal (f : Field) : (c.bump f).pal = c.pal := rfl
@[simp] theorem Chip.bump_blocks (f : Field) : (c.bump f).blocks = c.blocks := rfl
@[simp] theorem Chip.bump_slots (f : Field) : (c.bump f).slots = c.slots := rfl
@[simp] theorem Chip.bump_late (f : Field) : (c.bump f).late = c.late := rfl
@[simp] theorem Chip.bump_tails (f : Field) : (c.bump f).tails = c.tails := rfl
@[simp] theorem Chip.bump_regions (f : Field) : (c.bump f).regions = c.regions := rfl
@[simp] theorem Chip.bump_rmem (f : Field) : (c.bump f).rmem = c.rmem := rfl
@[simp] theorem Chip.bump_parts (f : Field) : (c.bump f).parts = c.parts := rfl
@[simp] theorem Chip.bump_returned (f : Field) : (c.bump f).returned = c.returned := rfl
@[simp] theorem Chip.bump_ez (f : Field) : (c.bump f).ez = c.ez := rfl
@[simp] theorem Chip.bump_cnv (f : Field) : (c.bump f).cnv = c.cnv := rfl
@[simp] theorem Chip.bump_ao (f : Field) : (c.bump f).ao = c.ao := rfl
@[simp] theorem Chip.bump_cv (f : Field) : (c.bump f).cv = c.cv := rfl
@[simp] theorem Chip.bump_cvg (f : Field) : (c.bump f).cvg = c.cvg := rfl
@[simp] theorem Chip.bump_cvNew (f : Field) : (c.bump f).cvNew = c.cvNew := rfl
@[simp] theorem Chip.bump_cvNow (f : Field) : (c.bump f).cvNow = c.cvNow := rfl
@[simp] theorem Chip.bump_pumpStop (f : Field) : (c.bump f).pumpStop = c.pumpStop := rfl
@[simp] theorem Chip.bump_ai (f : Field) : (c.bump f).ai = c.ai := rfl
@[simp] theorem Chip.bump_sa (f : Field) : (c.bump f).sa = c.sa := rfl
@[simp] theorem Chip.bump_dma (f : Field) : (c.bump f).dma = c.dma := rfl
@[simp] theorem Chip.bump_dmaLast (f : Field) : (c.bump f).dmaLast = c.dmaLast := rfl
@[simp] theorem Chip.bump_tmr (f : Field) : (c.bump f).tmr = c.tmr := rfl
@[simp] theorem Chip.bump_tempo (f : Field) : (c.bump f).tempo = c.tempo := rfl
@[simp] theorem Chip.bump_trg (f : Field) : (c.bump f).trg = c.trg := rfl
@[simp] theorem Chip.bump_trgNow (f : Field) : (c.bump f).trgNow = c.trgNow := rfl
@[simp] theorem Chip.bump_gpIn (f : Field) : (c.bump f).gpIn = c.gpIn := rfl
@[simp] theorem Chip.bump_host (f : Field) : (c.bump f).host = c.host := rfl
@[simp] theorem Chip.bump_rep (f : Field) : (c.bump f).rep = c.rep := rfl
@[simp] theorem Chip.bump_boot (f : Field) : (c.bump f).boot = c.boot := rfl
@[simp] theorem Chip.bump_saf (f : Field) : (c.bump f).saf = c.saf := rfl
@[simp] theorem Chip.bump_tap (f : Field) : (c.bump f).tap = c.tap := rfl
@[simp] theorem Chip.bump_pwr (f : Field) : (c.bump f).pwr = c.pwr := rfl

/-! ### raise writes `regs` only -/

@[simp] theorem Chip.raise_ctr (n : Nat) : (c.raise n).ctr = c.ctr := rfl
@[simp] theorem Chip.raise_clk (n : Nat) : (c.raise n).clk = c.clk := rfl
@[simp] theorem Chip.raise_pal (n : Nat) : (c.raise n).pal = c.pal := rfl
@[simp] theorem Chip.raise_blocks (n : Nat) : (c.raise n).blocks = c.blocks := rfl
@[simp] theorem Chip.raise_slots (n : Nat) : (c.raise n).slots = c.slots := rfl
@[simp] theorem Chip.raise_late (n : Nat) : (c.raise n).late = c.late := rfl
@[simp] theorem Chip.raise_tails (n : Nat) : (c.raise n).tails = c.tails := rfl
@[simp] theorem Chip.raise_regions (n : Nat) : (c.raise n).regions = c.regions := rfl
@[simp] theorem Chip.raise_rmem (n : Nat) : (c.raise n).rmem = c.rmem := rfl
@[simp] theorem Chip.raise_parts (n : Nat) : (c.raise n).parts = c.parts := rfl
@[simp] theorem Chip.raise_returned (n : Nat) : (c.raise n).returned = c.returned := rfl
@[simp] theorem Chip.raise_ez (n : Nat) : (c.raise n).ez = c.ez := rfl
@[simp] theorem Chip.raise_cnv (n : Nat) : (c.raise n).cnv = c.cnv := rfl
@[simp] theorem Chip.raise_ao (n : Nat) : (c.raise n).ao = c.ao := rfl
@[simp] theorem Chip.raise_cv (n : Nat) : (c.raise n).cv = c.cv := rfl
@[simp] theorem Chip.raise_cvg (n : Nat) : (c.raise n).cvg = c.cvg := rfl
@[simp] theorem Chip.raise_cvNew (n : Nat) : (c.raise n).cvNew = c.cvNew := rfl
@[simp] theorem Chip.raise_cvNow (n : Nat) : (c.raise n).cvNow = c.cvNow := rfl
@[simp] theorem Chip.raise_pumpStop (n : Nat) : (c.raise n).pumpStop = c.pumpStop := rfl
@[simp] theorem Chip.raise_ai (n : Nat) : (c.raise n).ai = c.ai := rfl
@[simp] theorem Chip.raise_sa (n : Nat) : (c.raise n).sa = c.sa := rfl
@[simp] theorem Chip.raise_dma (n : Nat) : (c.raise n).dma = c.dma := rfl
@[simp] theorem Chip.raise_dmaLast (n : Nat) : (c.raise n).dmaLast = c.dmaLast := rfl
@[simp] theorem Chip.raise_tmr (n : Nat) : (c.raise n).tmr = c.tmr := rfl
@[simp] theorem Chip.raise_tempo (n : Nat) : (c.raise n).tempo = c.tempo := rfl
@[simp] theorem Chip.raise_trg (n : Nat) : (c.raise n).trg = c.trg := rfl
@[simp] theorem Chip.raise_trgNow (n : Nat) : (c.raise n).trgNow = c.trgNow := rfl
@[simp] theorem Chip.raise_gpIn (n : Nat) : (c.raise n).gpIn = c.gpIn := rfl
@[simp] theorem Chip.raise_host (n : Nat) : (c.raise n).host = c.host := rfl
@[simp] theorem Chip.raise_rep (n : Nat) : (c.raise n).rep = c.rep := rfl
@[simp] theorem Chip.raise_boot (n : Nat) : (c.raise n).boot = c.boot := rfl
@[simp] theorem Chip.raise_saf (n : Nat) : (c.raise n).saf = c.saf := rfl
@[simp] theorem Chip.raise_tap (n : Nat) : (c.raise n).tap = c.tap := rfl
@[simp] theorem Chip.raise_pwr (n : Nat) : (c.raise n).pwr = c.pwr := rfl

/-! ### updBlk writes `blocks` only -/

@[simp] theorem Chip.updBlk_regs (k : Nat) (g : Block → Block) : (c.updBlk k g).regs = c.regs := rfl
@[simp] theorem Chip.updBlk_ctr (k : Nat) (g : Block → Block) : (c.updBlk k g).ctr = c.ctr := rfl
@[simp] theorem Chip.updBlk_clk (k : Nat) (g : Block → Block) : (c.updBlk k g).clk = c.clk := rfl
@[simp] theorem Chip.updBlk_pal (k : Nat) (g : Block → Block) : (c.updBlk k g).pal = c.pal := rfl
@[simp] theorem Chip.updBlk_slots (k : Nat) (g : Block → Block) : (c.updBlk k g).slots = c.slots := rfl
@[simp] theorem Chip.updBlk_late (k : Nat) (g : Block → Block) : (c.updBlk k g).late = c.late := rfl
@[simp] theorem Chip.updBlk_tails (k : Nat) (g : Block → Block) : (c.updBlk k g).tails = c.tails := rfl
@[simp] theorem Chip.updBlk_regions (k : Nat) (g : Block → Block) : (c.updBlk k g).regions = c.regions := rfl
@[simp] theorem Chip.updBlk_rmem (k : Nat) (g : Block → Block) : (c.updBlk k g).rmem = c.rmem := rfl
@[simp] theorem Chip.updBlk_parts (k : Nat) (g : Block → Block) : (c.updBlk k g).parts = c.parts := rfl
@[simp] theorem Chip.updBlk_returned (k : Nat) (g : Block → Block) : (c.updBlk k g).returned = c.returned := rfl
@[simp] theorem Chip.updBlk_ez (k : Nat) (g : Block → Block) : (c.updBlk k g).ez = c.ez := rfl
@[simp] theorem Chip.updBlk_cnv (k : Nat) (g : Block → Block) : (c.updBlk k g).cnv = c.cnv := rfl
@[simp] theorem Chip.updBlk_ao (k : Nat) (g : Block → Block) : (c.updBlk k g).ao = c.ao := rfl
@[simp] theorem Chip.updBlk_cv (k : Nat) (g : Block → Block) : (c.updBlk k g).cv = c.cv := rfl
@[simp] theorem Chip.updBlk_cvg (k : Nat) (g : Block → Block) : (c.updBlk k g).cvg = c.cvg := rfl
@[simp] theorem Chip.updBlk_cvNew (k : Nat) (g : Block → Block) : (c.updBlk k g).cvNew = c.cvNew := rfl
@[simp] theorem Chip.updBlk_cvNow (k : Nat) (g : Block → Block) : (c.updBlk k g).cvNow = c.cvNow := rfl
@[simp] theorem Chip.updBlk_pumpStop (k : Nat) (g : Block → Block) : (c.updBlk k g).pumpStop = c.pumpStop := rfl
@[simp] theorem Chip.updBlk_ai (k : Nat) (g : Block → Block) : (c.updBlk k g).ai = c.ai := rfl
@[simp] theorem Chip.updBlk_sa (k : Nat) (g : Block → Block) : (c.updBlk k g).sa = c.sa := rfl
@[simp] theorem Chip.updBlk_dma (k : Nat) (g : Block → Block) : (c.updBlk k g).dma = c.dma := rfl
@[simp] theorem Chip.updBlk_dmaLast (k : Nat) (g : Block → Block) : (c.updBlk k g).dmaLast = c.dmaLast := rfl
@[simp] theorem Chip.updBlk_tmr (k : Nat) (g : Block → Block) : (c.updBlk k g).tmr = c.tmr := rfl
@[simp] theorem Chip.updBlk_tempo (k : Nat) (g : Block → Block) : (c.updBlk k g).tempo = c.tempo := rfl
@[simp] theorem Chip.updBlk_trg (k : Nat) (g : Block → Block) : (c.updBlk k g).trg = c.trg := rfl
@[simp] theorem Chip.updBlk_trgNow (k : Nat) (g : Block → Block) : (c.updBlk k g).trgNow = c.trgNow := rfl
@[simp] theorem Chip.updBlk_gpIn (k : Nat) (g : Block → Block) : (c.updBlk k g).gpIn = c.gpIn := rfl
@[simp] theorem Chip.updBlk_host (k : Nat) (g : Block → Block) : (c.updBlk k g).host = c.host := rfl
@[simp] theorem Chip.updBlk_rep (k : Nat) (g : Block → Block) : (c.updBlk k g).rep = c.rep := rfl
@[simp] theorem Chip.updBlk_boot (k : Nat) (g : Block → Block) : (c.updBlk k g).boot = c.boot := rfl
@[simp] theorem Chip.updBlk_saf (k : Nat) (g : Block → Block) : (c.updBlk k g).saf = c.saf := rfl
@[simp] theorem Chip.updBlk_tap (k : Nat) (g : Block → Block) : (c.updBlk k g).tap = c.tap := rfl
@[simp] theorem Chip.updBlk_pwr (k : Nat) (g : Block → Block) : (c.updBlk k g).pwr = c.pwr := rfl

/-! ### setSlot writes `slots` only -/

@[simp] theorem Chip.setSlot_regs (k : Nat) (x : SlotSt) : (c.setSlot k x).regs = c.regs := rfl
@[simp] theorem Chip.setSlot_ctr (k : Nat) (x : SlotSt) : (c.setSlot k x).ctr = c.ctr := rfl
@[simp] theorem Chip.setSlot_clk (k : Nat) (x : SlotSt) : (c.setSlot k x).clk = c.clk := rfl
@[simp] theorem Chip.setSlot_pal (k : Nat) (x : SlotSt) : (c.setSlot k x).pal = c.pal := rfl
@[simp] theorem Chip.setSlot_blocks (k : Nat) (x : SlotSt) : (c.setSlot k x).blocks = c.blocks := rfl
@[simp] theorem Chip.setSlot_late (k : Nat) (x : SlotSt) : (c.setSlot k x).late = c.late := rfl
@[simp] theorem Chip.setSlot_tails (k : Nat) (x : SlotSt) : (c.setSlot k x).tails = c.tails := rfl
@[simp] theorem Chip.setSlot_regions (k : Nat) (x : SlotSt) : (c.setSlot k x).regions = c.regions := rfl
@[simp] theorem Chip.setSlot_rmem (k : Nat) (x : SlotSt) : (c.setSlot k x).rmem = c.rmem := rfl
@[simp] theorem Chip.setSlot_parts (k : Nat) (x : SlotSt) : (c.setSlot k x).parts = c.parts := rfl
@[simp] theorem Chip.setSlot_returned (k : Nat) (x : SlotSt) : (c.setSlot k x).returned = c.returned := rfl
@[simp] theorem Chip.setSlot_ez (k : Nat) (x : SlotSt) : (c.setSlot k x).ez = c.ez := rfl
@[simp] theorem Chip.setSlot_cnv (k : Nat) (x : SlotSt) : (c.setSlot k x).cnv = c.cnv := rfl
@[simp] theorem Chip.setSlot_ao (k : Nat) (x : SlotSt) : (c.setSlot k x).ao = c.ao := rfl
@[simp] theorem Chip.setSlot_cv (k : Nat) (x : SlotSt) : (c.setSlot k x).cv = c.cv := rfl
@[simp] theorem Chip.setSlot_cvg (k : Nat) (x : SlotSt) : (c.setSlot k x).cvg = c.cvg := rfl
@[simp] theorem Chip.setSlot_cvNew (k : Nat) (x : SlotSt) : (c.setSlot k x).cvNew = c.cvNew := rfl
@[simp] theorem Chip.setSlot_cvNow (k : Nat) (x : SlotSt) : (c.setSlot k x).cvNow = c.cvNow := rfl
@[simp] theorem Chip.setSlot_pumpStop (k : Nat) (x : SlotSt) : (c.setSlot k x).pumpStop = c.pumpStop := rfl
@[simp] theorem Chip.setSlot_ai (k : Nat) (x : SlotSt) : (c.setSlot k x).ai = c.ai := rfl
@[simp] theorem Chip.setSlot_sa (k : Nat) (x : SlotSt) : (c.setSlot k x).sa = c.sa := rfl
@[simp] theorem Chip.setSlot_dma (k : Nat) (x : SlotSt) : (c.setSlot k x).dma = c.dma := rfl
@[simp] theorem Chip.setSlot_dmaLast (k : Nat) (x : SlotSt) : (c.setSlot k x).dmaLast = c.dmaLast := rfl
@[simp] theorem Chip.setSlot_tmr (k : Nat) (x : SlotSt) : (c.setSlot k x).tmr = c.tmr := rfl
@[simp] theorem Chip.setSlot_tempo (k : Nat) (x : SlotSt) : (c.setSlot k x).tempo = c.tempo := rfl
@[simp] theorem Chip.setSlot_trg (k : Nat) (x : SlotSt) : (c.setSlot k x).trg = c.trg := rfl
@[simp] theorem Chip.setSlot_trgNow (k : Nat) (x : SlotSt) : (c.setSlot k x).trgNow = c.trgNow := rfl
@[simp] theorem Chip.setSlot_gpIn (k : Nat) (x : SlotSt) : (c.setSlot k x).gpIn = c.gpIn := rfl
@[simp] theorem Chip.setSlot_host (k : Nat) (x : SlotSt) : (c.setSlot k x).host = c.host := rfl
@[simp] theorem Chip.setSlot_rep (k : Nat) (x : SlotSt) : (c.setSlot k x).rep = c.rep := rfl
@[simp] theorem Chip.setSlot_boot (k : Nat) (x : SlotSt) : (c.setSlot k x).boot = c.boot := rfl
@[simp] theorem Chip.setSlot_saf (k : Nat) (x : SlotSt) : (c.setSlot k x).saf = c.saf := rfl
@[simp] theorem Chip.setSlot_tap (k : Nat) (x : SlotSt) : (c.setSlot k x).tap = c.tap := rfl
@[simp] theorem Chip.setSlot_pwr (k : Nat) (x : SlotSt) : (c.setSlot k x).pwr = c.pwr := rfl

/-! ### updSlot writes `slots` only -/

@[simp] theorem Chip.updSlot_regs (k : Nat) (g : SlotSt → SlotSt) : (c.updSlot k g).regs = c.regs := rfl
@[simp] theorem Chip.updSlot_ctr (k : Nat) (g : SlotSt → SlotSt) : (c.updSlot k g).ctr = c.ctr := rfl
@[simp] theorem Chip.updSlot_clk (k : Nat) (g : SlotSt → SlotSt) : (c.updSlot k g).clk = c.clk := rfl
@[simp] theorem Chip.updSlot_pal (k : Nat) (g : SlotSt → SlotSt) : (c.updSlot k g).pal = c.pal := rfl
@[simp] theorem Chip.updSlot_blocks (k : Nat) (g : SlotSt → SlotSt) : (c.updSlot k g).blocks = c.blocks := rfl
@[simp] theorem Chip.updSlot_late (k : Nat) (g : SlotSt → SlotSt) : (c.updSlot k g).late = c.late := rfl
@[simp] theorem Chip.updSlot_tails (k : Nat) (g : SlotSt → SlotSt) : (c.updSlot k g).tails = c.tails := rfl
@[simp] theorem Chip.updSlot_regions (k : Nat) (g : SlotSt → SlotSt) : (c.updSlot k g).regions = c.regions := rfl
@[simp] theorem Chip.updSlot_rmem (k : Nat) (g : SlotSt → SlotSt) : (c.updSlot k g).rmem = c.rmem := rfl
@[simp] theorem Chip.updSlot_parts (k : Nat) (g : SlotSt → SlotSt) : (c.updSlot k g).parts = c.parts := rfl
@[simp] theorem Chip.updSlot_returned (k : Nat) (g : SlotSt → SlotSt) : (c.updSlot k g).returned = c.returned := rfl
@[simp] theorem Chip.updSlot_ez (k : Nat) (g : SlotSt → SlotSt) : (c.updSlot k g).ez = c.ez := rfl
@[simp] theorem Chip.updSlot_cnv (k : Nat) (g : SlotSt → SlotSt) : (c.updSlot k g).cnv = c.cnv := rfl
@[simp] theorem Chip.updSlot_ao (k : Nat) (g : SlotSt → SlotSt) : (c.updSlot k g).ao = c.ao := rfl
@[simp] theorem Chip.updSlot_cv (k : Nat) (g : SlotSt → SlotSt) : (c.updSlot k g).cv = c.cv := rfl
@[simp] theorem Chip.updSlot_cvg (k : Nat) (g : SlotSt → SlotSt) : (c.updSlot k g).cvg = c.cvg := rfl
@[simp] theorem Chip.updSlot_cvNew (k : Nat) (g : SlotSt → SlotSt) : (c.updSlot k g).cvNew = c.cvNew := rfl
@[simp] theorem Chip.updSlot_cvNow (k : Nat) (g : SlotSt → SlotSt) : (c.updSlot k g).cvNow = c.cvNow := rfl
@[simp] theorem Chip.updSlot_pumpStop (k : Nat) (g : SlotSt → SlotSt) : (c.updSlot k g).pumpStop = c.pumpStop := rfl
@[simp] theorem Chip.updSlot_ai (k : Nat) (g : SlotSt → SlotSt) : (c.updSlot k g).ai = c.ai := rfl
@[simp] theorem Chip.updSlot_sa (k : Nat) (g : SlotSt → SlotSt) : (c.updSlot k g).sa = c.sa := rfl
@[simp] theorem Chip.updSlot_dma (k : Nat) (g : SlotSt → SlotSt) : (c.updSlot k g).dma = c.dma := rfl
@[simp] theorem Chip.updSlot_dmaLast (k : Nat) (g : SlotSt → SlotSt) : (c.updSlot k g).dmaLast = c.dmaLast := rfl
@[simp] theorem Chip.updSlot_tmr (k : Nat) (g : SlotSt → SlotSt) : (c.updSlot k g).tmr = c.tmr := rfl
@[simp] theorem Chip.updSlot_tempo (k : Nat) (g : SlotSt → SlotSt) : (c.updSlot k g).tempo = c.tempo := rfl
@[simp] theorem Chip.updSlot_trg (k : Nat) (g : SlotSt → SlotSt) : (c.updSlot k g).trg = c.trg := rfl
@[simp] theorem Chip.updSlot_trgNow (k : Nat) (g : SlotSt → SlotSt) : (c.updSlot k g).trgNow = c.trgNow := rfl
@[simp] theorem Chip.updSlot_gpIn (k : Nat) (g : SlotSt → SlotSt) : (c.updSlot k g).gpIn = c.gpIn := rfl
@[simp] theorem Chip.updSlot_host (k : Nat) (g : SlotSt → SlotSt) : (c.updSlot k g).host = c.host := rfl
@[simp] theorem Chip.updSlot_rep (k : Nat) (g : SlotSt → SlotSt) : (c.updSlot k g).rep = c.rep := rfl
@[simp] theorem Chip.updSlot_boot (k : Nat) (g : SlotSt → SlotSt) : (c.updSlot k g).boot = c.boot := rfl
@[simp] theorem Chip.updSlot_saf (k : Nat) (g : SlotSt → SlotSt) : (c.updSlot k g).saf = c.saf := rfl
@[simp] theorem Chip.updSlot_tap (k : Nat) (g : SlotSt → SlotSt) : (c.updSlot k g).tap = c.tap := rfl
@[simp] theorem Chip.updSlot_pwr (k : Nat) (g : SlotSt → SlotSt) : (c.updSlot k g).pwr = c.pwr := rfl

/-! ### updRgn writes `regions` only -/

@[simp] theorem Chip.updRgn_regs (r : Nat) (g : RegionSt → RegionSt) : (c.updRgn r g).regs = c.regs := rfl
@[simp] theorem Chip.updRgn_ctr (r : Nat) (g : RegionSt → RegionSt) : (c.updRgn r g).ctr = c.ctr := rfl
@[simp] theorem Chip.updRgn_clk (r : Nat) (g : RegionSt → RegionSt) : (c.updRgn r g).clk = c.clk := rfl
@[simp] theorem Chip.updRgn_pal (r : Nat) (g : RegionSt → RegionSt) : (c.updRgn r g).pal = c.pal := rfl
@[simp] theorem Chip.updRgn_blocks (r : Nat) (g : RegionSt → RegionSt) : (c.updRgn r g).blocks = c.blocks := rfl
@[simp] theorem Chip.updRgn_slots (r : Nat) (g : RegionSt → RegionSt) : (c.updRgn r g).slots = c.slots := rfl
@[simp] theorem Chip.updRgn_late (r : Nat) (g : RegionSt → RegionSt) : (c.updRgn r g).late = c.late := rfl
@[simp] theorem Chip.updRgn_tails (r : Nat) (g : RegionSt → RegionSt) : (c.updRgn r g).tails = c.tails := rfl
@[simp] theorem Chip.updRgn_rmem (r : Nat) (g : RegionSt → RegionSt) : (c.updRgn r g).rmem = c.rmem := rfl
@[simp] theorem Chip.updRgn_parts (r : Nat) (g : RegionSt → RegionSt) : (c.updRgn r g).parts = c.parts := rfl
@[simp] theorem Chip.updRgn_returned (r : Nat) (g : RegionSt → RegionSt) : (c.updRgn r g).returned = c.returned := rfl
@[simp] theorem Chip.updRgn_ez (r : Nat) (g : RegionSt → RegionSt) : (c.updRgn r g).ez = c.ez := rfl
@[simp] theorem Chip.updRgn_cnv (r : Nat) (g : RegionSt → RegionSt) : (c.updRgn r g).cnv = c.cnv := rfl
@[simp] theorem Chip.updRgn_ao (r : Nat) (g : RegionSt → RegionSt) : (c.updRgn r g).ao = c.ao := rfl
@[simp] theorem Chip.updRgn_cv (r : Nat) (g : RegionSt → RegionSt) : (c.updRgn r g).cv = c.cv := rfl
@[simp] theorem Chip.updRgn_cvg (r : Nat) (g : RegionSt → RegionSt) : (c.updRgn r g).cvg = c.cvg := rfl
@[simp] theorem Chip.updRgn_cvNew (r : Nat) (g : RegionSt → RegionSt) : (c.updRgn r g).cvNew = c.cvNew := rfl
@[simp] theorem Chip.updRgn_cvNow (r : Nat) (g : RegionSt → RegionSt) : (c.updRgn r g).cvNow = c.cvNow := rfl
@[simp] theorem Chip.updRgn_pumpStop (r : Nat) (g : RegionSt → RegionSt) : (c.updRgn r g).pumpStop = c.pumpStop := rfl
@[simp] theorem Chip.updRgn_ai (r : Nat) (g : RegionSt → RegionSt) : (c.updRgn r g).ai = c.ai := rfl
@[simp] theorem Chip.updRgn_sa (r : Nat) (g : RegionSt → RegionSt) : (c.updRgn r g).sa = c.sa := rfl
@[simp] theorem Chip.updRgn_dma (r : Nat) (g : RegionSt → RegionSt) : (c.updRgn r g).dma = c.dma := rfl
@[simp] theorem Chip.updRgn_dmaLast (r : Nat) (g : RegionSt → RegionSt) : (c.updRgn r g).dmaLast = c.dmaLast := rfl
@[simp] theorem Chip.updRgn_tmr (r : Nat) (g : RegionSt → RegionSt) : (c.updRgn r g).tmr = c.tmr := rfl
@[simp] theorem Chip.updRgn_tempo (r : Nat) (g : RegionSt → RegionSt) : (c.updRgn r g).tempo = c.tempo := rfl
@[simp] theorem Chip.updRgn_trg (r : Nat) (g : RegionSt → RegionSt) : (c.updRgn r g).trg = c.trg := rfl
@[simp] theorem Chip.updRgn_trgNow (r : Nat) (g : RegionSt → RegionSt) : (c.updRgn r g).trgNow = c.trgNow := rfl
@[simp] theorem Chip.updRgn_gpIn (r : Nat) (g : RegionSt → RegionSt) : (c.updRgn r g).gpIn = c.gpIn := rfl
@[simp] theorem Chip.updRgn_host (r : Nat) (g : RegionSt → RegionSt) : (c.updRgn r g).host = c.host := rfl
@[simp] theorem Chip.updRgn_rep (r : Nat) (g : RegionSt → RegionSt) : (c.updRgn r g).rep = c.rep := rfl
@[simp] theorem Chip.updRgn_boot (r : Nat) (g : RegionSt → RegionSt) : (c.updRgn r g).boot = c.boot := rfl
@[simp] theorem Chip.updRgn_saf (r : Nat) (g : RegionSt → RegionSt) : (c.updRgn r g).saf = c.saf := rfl
@[simp] theorem Chip.updRgn_tap (r : Nat) (g : RegionSt → RegionSt) : (c.updRgn r g).tap = c.tap := rfl
@[simp] theorem Chip.updRgn_pwr (r : Nat) (g : RegionSt → RegionSt) : (c.updRgn r g).pwr = c.pwr := rfl

/-! ### updRm writes `rmem` only -/

@[simp] theorem Chip.updRm_regs (r : Nat) (g : RegionMem → RegionMem) : (c.updRm r g).regs = c.regs := rfl
@[simp] theorem Chip.updRm_ctr (r : Nat) (g : RegionMem → RegionMem) : (c.updRm r g).ctr = c.ctr := rfl
@[simp] theorem Chip.updRm_clk (r : Nat) (g : RegionMem → RegionMem) : (c.updRm r g).clk = c.clk := rfl
@[simp] theorem Chip.updRm_pal (r : Nat) (g : RegionMem → RegionMem) : (c.updRm r g).pal = c.pal := rfl
@[simp] theorem Chip.updRm_blocks (r : Nat) (g : RegionMem → RegionMem) : (c.updRm r g).blocks = c.blocks := rfl
@[simp] theorem Chip.updRm_slots (r : Nat) (g : RegionMem → RegionMem) : (c.updRm r g).slots = c.slots := rfl
@[simp] theorem Chip.updRm_late (r : Nat) (g : RegionMem → RegionMem) : (c.updRm r g).late = c.late := rfl
@[simp] theorem Chip.updRm_tails (r : Nat) (g : RegionMem → RegionMem) : (c.updRm r g).tails = c.tails := rfl
@[simp] theorem Chip.updRm_regions (r : Nat) (g : RegionMem → RegionMem) : (c.updRm r g).regions = c.regions := rfl
@[simp] theorem Chip.updRm_parts (r : Nat) (g : RegionMem → RegionMem) : (c.updRm r g).parts = c.parts := rfl
@[simp] theorem Chip.updRm_returned (r : Nat) (g : RegionMem → RegionMem) : (c.updRm r g).returned = c.returned := rfl
@[simp] theorem Chip.updRm_ez (r : Nat) (g : RegionMem → RegionMem) : (c.updRm r g).ez = c.ez := rfl
@[simp] theorem Chip.updRm_cnv (r : Nat) (g : RegionMem → RegionMem) : (c.updRm r g).cnv = c.cnv := rfl
@[simp] theorem Chip.updRm_ao (r : Nat) (g : RegionMem → RegionMem) : (c.updRm r g).ao = c.ao := rfl
@[simp] theorem Chip.updRm_cv (r : Nat) (g : RegionMem → RegionMem) : (c.updRm r g).cv = c.cv := rfl
@[simp] theorem Chip.updRm_cvg (r : Nat) (g : RegionMem → RegionMem) : (c.updRm r g).cvg = c.cvg := rfl
@[simp] theorem Chip.updRm_cvNew (r : Nat) (g : RegionMem → RegionMem) : (c.updRm r g).cvNew = c.cvNew := rfl
@[simp] theorem Chip.updRm_cvNow (r : Nat) (g : RegionMem → RegionMem) : (c.updRm r g).cvNow = c.cvNow := rfl
@[simp] theorem Chip.updRm_pumpStop (r : Nat) (g : RegionMem → RegionMem) : (c.updRm r g).pumpStop = c.pumpStop := rfl
@[simp] theorem Chip.updRm_ai (r : Nat) (g : RegionMem → RegionMem) : (c.updRm r g).ai = c.ai := rfl
@[simp] theorem Chip.updRm_sa (r : Nat) (g : RegionMem → RegionMem) : (c.updRm r g).sa = c.sa := rfl
@[simp] theorem Chip.updRm_dma (r : Nat) (g : RegionMem → RegionMem) : (c.updRm r g).dma = c.dma := rfl
@[simp] theorem Chip.updRm_dmaLast (r : Nat) (g : RegionMem → RegionMem) : (c.updRm r g).dmaLast = c.dmaLast := rfl
@[simp] theorem Chip.updRm_tmr (r : Nat) (g : RegionMem → RegionMem) : (c.updRm r g).tmr = c.tmr := rfl
@[simp] theorem Chip.updRm_tempo (r : Nat) (g : RegionMem → RegionMem) : (c.updRm r g).tempo = c.tempo := rfl
@[simp] theorem Chip.updRm_trg (r : Nat) (g : RegionMem → RegionMem) : (c.updRm r g).trg = c.trg := rfl
@[simp] theorem Chip.updRm_trgNow (r : Nat) (g : RegionMem → RegionMem) : (c.updRm r g).trgNow = c.trgNow := rfl
@[simp] theorem Chip.updRm_gpIn (r : Nat) (g : RegionMem → RegionMem) : (c.updRm r g).gpIn = c.gpIn := rfl
@[simp] theorem Chip.updRm_host (r : Nat) (g : RegionMem → RegionMem) : (c.updRm r g).host = c.host := rfl
@[simp] theorem Chip.updRm_rep (r : Nat) (g : RegionMem → RegionMem) : (c.updRm r g).rep = c.rep := rfl
@[simp] theorem Chip.updRm_boot (r : Nat) (g : RegionMem → RegionMem) : (c.updRm r g).boot = c.boot := rfl
@[simp] theorem Chip.updRm_saf (r : Nat) (g : RegionMem → RegionMem) : (c.updRm r g).saf = c.saf := rfl
@[simp] theorem Chip.updRm_tap (r : Nat) (g : RegionMem → RegionMem) : (c.updRm r g).tap = c.tap := rfl
@[simp] theorem Chip.updRm_pwr (r : Nat) (g : RegionMem → RegionMem) : (c.updRm r g).pwr = c.pwr := rfl

/-! ### updPart writes `parts` only -/

@[simp] theorem Chip.updPart_regs (p : Nat) (g : Part → Part) : (c.updPart p g).regs = c.regs := rfl
@[simp] theorem Chip.updPart_ctr (p : Nat) (g : Part → Part) : (c.updPart p g).ctr = c.ctr := rfl
@[simp] theorem Chip.updPart_clk (p : Nat) (g : Part → Part) : (c.updPart p g).clk = c.clk := rfl
@[simp] theorem Chip.updPart_pal (p : Nat) (g : Part → Part) : (c.updPart p g).pal = c.pal := rfl
@[simp] theorem Chip.updPart_blocks (p : Nat) (g : Part → Part) : (c.updPart p g).blocks = c.blocks := rfl
@[simp] theorem Chip.updPart_slots (p : Nat) (g : Part → Part) : (c.updPart p g).slots = c.slots := rfl
@[simp] theorem Chip.updPart_late (p : Nat) (g : Part → Part) : (c.updPart p g).late = c.late := rfl
@[simp] theorem Chip.updPart_tails (p : Nat) (g : Part → Part) : (c.updPart p g).tails = c.tails := rfl
@[simp] theorem Chip.updPart_regions (p : Nat) (g : Part → Part) : (c.updPart p g).regions = c.regions := rfl
@[simp] theorem Chip.updPart_rmem (p : Nat) (g : Part → Part) : (c.updPart p g).rmem = c.rmem := rfl
@[simp] theorem Chip.updPart_returned (p : Nat) (g : Part → Part) : (c.updPart p g).returned = c.returned := rfl
@[simp] theorem Chip.updPart_ez (p : Nat) (g : Part → Part) : (c.updPart p g).ez = c.ez := rfl
@[simp] theorem Chip.updPart_cnv (p : Nat) (g : Part → Part) : (c.updPart p g).cnv = c.cnv := rfl
@[simp] theorem Chip.updPart_ao (p : Nat) (g : Part → Part) : (c.updPart p g).ao = c.ao := rfl
@[simp] theorem Chip.updPart_cv (p : Nat) (g : Part → Part) : (c.updPart p g).cv = c.cv := rfl
@[simp] theorem Chip.updPart_cvg (p : Nat) (g : Part → Part) : (c.updPart p g).cvg = c.cvg := rfl
@[simp] theorem Chip.updPart_cvNew (p : Nat) (g : Part → Part) : (c.updPart p g).cvNew = c.cvNew := rfl
@[simp] theorem Chip.updPart_cvNow (p : Nat) (g : Part → Part) : (c.updPart p g).cvNow = c.cvNow := rfl
@[simp] theorem Chip.updPart_pumpStop (p : Nat) (g : Part → Part) : (c.updPart p g).pumpStop = c.pumpStop := rfl
@[simp] theorem Chip.updPart_ai (p : Nat) (g : Part → Part) : (c.updPart p g).ai = c.ai := rfl
@[simp] theorem Chip.updPart_sa (p : Nat) (g : Part → Part) : (c.updPart p g).sa = c.sa := rfl
@[simp] theorem Chip.updPart_dma (p : Nat) (g : Part → Part) : (c.updPart p g).dma = c.dma := rfl
@[simp] theorem Chip.updPart_dmaLast (p : Nat) (g : Part → Part) : (c.updPart p g).dmaLast = c.dmaLast := rfl
@[simp] theorem Chip.updPart_tmr (p : Nat) (g : Part → Part) : (c.updPart p g).tmr = c.tmr := rfl
@[simp] theorem Chip.updPart_tempo (p : Nat) (g : Part → Part) : (c.updPart p g).tempo = c.tempo := rfl
@[simp] theorem Chip.updPart_trg (p : Nat) (g : Part → Part) : (c.updPart p g).trg = c.trg := rfl
@[simp] theorem Chip.updPart_trgNow (p : Nat) (g : Part → Part) : (c.updPart p g).trgNow = c.trgNow := rfl
@[simp] theorem Chip.updPart_gpIn (p : Nat) (g : Part → Part) : (c.updPart p g).gpIn = c.gpIn := rfl
@[simp] theorem Chip.updPart_host (p : Nat) (g : Part → Part) : (c.updPart p g).host = c.host := rfl
@[simp] theorem Chip.updPart_rep (p : Nat) (g : Part → Part) : (c.updPart p g).rep = c.rep := rfl
@[simp] theorem Chip.updPart_boot (p : Nat) (g : Part → Part) : (c.updPart p g).boot = c.boot := rfl
@[simp] theorem Chip.updPart_saf (p : Nat) (g : Part → Part) : (c.updPart p g).saf = c.saf := rfl
@[simp] theorem Chip.updPart_tap (p : Nat) (g : Part → Part) : (c.updPart p g).tap = c.tap := rfl
@[simp] theorem Chip.updPart_pwr (p : Nat) (g : Part → Part) : (c.updPart p g).pwr = c.pwr := rfl

/-! ### updEz writes `ez` only -/

@[simp] theorem Chip.updEz_regs (g : Easel → Easel) : (c.updEz g).regs = c.regs := rfl
@[simp] theorem Chip.updEz_ctr (g : Easel → Easel) : (c.updEz g).ctr = c.ctr := rfl
@[simp] theorem Chip.updEz_clk (g : Easel → Easel) : (c.updEz g).clk = c.clk := rfl
@[simp] theorem Chip.updEz_pal (g : Easel → Easel) : (c.updEz g).pal = c.pal := rfl
@[simp] theorem Chip.updEz_blocks (g : Easel → Easel) : (c.updEz g).blocks = c.blocks := rfl
@[simp] theorem Chip.updEz_slots (g : Easel → Easel) : (c.updEz g).slots = c.slots := rfl
@[simp] theorem Chip.updEz_late (g : Easel → Easel) : (c.updEz g).late = c.late := rfl
@[simp] theorem Chip.updEz_tails (g : Easel → Easel) : (c.updEz g).tails = c.tails := rfl
@[simp] theorem Chip.updEz_regions (g : Easel → Easel) : (c.updEz g).regions = c.regions := rfl
@[simp] theorem Chip.updEz_rmem (g : Easel → Easel) : (c.updEz g).rmem = c.rmem := rfl
@[simp] theorem Chip.updEz_parts (g : Easel → Easel) : (c.updEz g).parts = c.parts := rfl
@[simp] theorem Chip.updEz_returned (g : Easel → Easel) : (c.updEz g).returned = c.returned := rfl
@[simp] theorem Chip.updEz_cnv (g : Easel → Easel) : (c.updEz g).cnv = c.cnv := rfl
@[simp] theorem Chip.updEz_ao (g : Easel → Easel) : (c.updEz g).ao = c.ao := rfl
@[simp] theorem Chip.updEz_cv (g : Easel → Easel) : (c.updEz g).cv = c.cv := rfl
@[simp] theorem Chip.updEz_cvg (g : Easel → Easel) : (c.updEz g).cvg = c.cvg := rfl
@[simp] theorem Chip.updEz_cvNew (g : Easel → Easel) : (c.updEz g).cvNew = c.cvNew := rfl
@[simp] theorem Chip.updEz_cvNow (g : Easel → Easel) : (c.updEz g).cvNow = c.cvNow := rfl
@[simp] theorem Chip.updEz_pumpStop (g : Easel → Easel) : (c.updEz g).pumpStop = c.pumpStop := rfl
@[simp] theorem Chip.updEz_ai (g : Easel → Easel) : (c.updEz g).ai = c.ai := rfl
@[simp] theorem Chip.updEz_sa (g : Easel → Easel) : (c.updEz g).sa = c.sa := rfl
@[simp] theorem Chip.updEz_dma (g : Easel → Easel) : (c.updEz g).dma = c.dma := rfl
@[simp] theorem Chip.updEz_dmaLast (g : Easel → Easel) : (c.updEz g).dmaLast = c.dmaLast := rfl
@[simp] theorem Chip.updEz_tmr (g : Easel → Easel) : (c.updEz g).tmr = c.tmr := rfl
@[simp] theorem Chip.updEz_tempo (g : Easel → Easel) : (c.updEz g).tempo = c.tempo := rfl
@[simp] theorem Chip.updEz_trg (g : Easel → Easel) : (c.updEz g).trg = c.trg := rfl
@[simp] theorem Chip.updEz_trgNow (g : Easel → Easel) : (c.updEz g).trgNow = c.trgNow := rfl
@[simp] theorem Chip.updEz_gpIn (g : Easel → Easel) : (c.updEz g).gpIn = c.gpIn := rfl
@[simp] theorem Chip.updEz_host (g : Easel → Easel) : (c.updEz g).host = c.host := rfl
@[simp] theorem Chip.updEz_rep (g : Easel → Easel) : (c.updEz g).rep = c.rep := rfl
@[simp] theorem Chip.updEz_boot (g : Easel → Easel) : (c.updEz g).boot = c.boot := rfl
@[simp] theorem Chip.updEz_saf (g : Easel → Easel) : (c.updEz g).saf = c.saf := rfl
@[simp] theorem Chip.updEz_tap (g : Easel → Easel) : (c.updEz g).tap = c.tap := rfl
@[simp] theorem Chip.updEz_pwr (g : Easel → Easel) : (c.updEz g).pwr = c.pwr := rfl

/-! ### updClk writes `clk` only -/

@[simp] theorem Chip.updClk_regs (g : ClockSt → ClockSt) : (c.updClk g).regs = c.regs := rfl
@[simp] theorem Chip.updClk_ctr (g : ClockSt → ClockSt) : (c.updClk g).ctr = c.ctr := rfl
@[simp] theorem Chip.updClk_pal (g : ClockSt → ClockSt) : (c.updClk g).pal = c.pal := rfl
@[simp] theorem Chip.updClk_blocks (g : ClockSt → ClockSt) : (c.updClk g).blocks = c.blocks := rfl
@[simp] theorem Chip.updClk_slots (g : ClockSt → ClockSt) : (c.updClk g).slots = c.slots := rfl
@[simp] theorem Chip.updClk_late (g : ClockSt → ClockSt) : (c.updClk g).late = c.late := rfl
@[simp] theorem Chip.updClk_tails (g : ClockSt → ClockSt) : (c.updClk g).tails = c.tails := rfl
@[simp] theorem Chip.updClk_regions (g : ClockSt → ClockSt) : (c.updClk g).regions = c.regions := rfl
@[simp] theorem Chip.updClk_rmem (g : ClockSt → ClockSt) : (c.updClk g).rmem = c.rmem := rfl
@[simp] theorem Chip.updClk_parts (g : ClockSt → ClockSt) : (c.updClk g).parts = c.parts := rfl
@[simp] theorem Chip.updClk_returned (g : ClockSt → ClockSt) : (c.updClk g).returned = c.returned := rfl
@[simp] theorem Chip.updClk_ez (g : ClockSt → ClockSt) : (c.updClk g).ez = c.ez := rfl
@[simp] theorem Chip.updClk_cnv (g : ClockSt → ClockSt) : (c.updClk g).cnv = c.cnv := rfl
@[simp] theorem Chip.updClk_ao (g : ClockSt → ClockSt) : (c.updClk g).ao = c.ao := rfl
@[simp] theorem Chip.updClk_cv (g : ClockSt → ClockSt) : (c.updClk g).cv = c.cv := rfl
@[simp] theorem Chip.updClk_cvg (g : ClockSt → ClockSt) : (c.updClk g).cvg = c.cvg := rfl
@[simp] theorem Chip.updClk_cvNew (g : ClockSt → ClockSt) : (c.updClk g).cvNew = c.cvNew := rfl
@[simp] theorem Chip.updClk_cvNow (g : ClockSt → ClockSt) : (c.updClk g).cvNow = c.cvNow := rfl
@[simp] theorem Chip.updClk_pumpStop (g : ClockSt → ClockSt) : (c.updClk g).pumpStop = c.pumpStop := rfl
@[simp] theorem Chip.updClk_ai (g : ClockSt → ClockSt) : (c.updClk g).ai = c.ai := rfl
@[simp] theorem Chip.updClk_sa (g : ClockSt → ClockSt) : (c.updClk g).sa = c.sa := rfl
@[simp] theorem Chip.updClk_dma (g : ClockSt → ClockSt) : (c.updClk g).dma = c.dma := rfl
@[simp] theorem Chip.updClk_dmaLast (g : ClockSt → ClockSt) : (c.updClk g).dmaLast = c.dmaLast := rfl
@[simp] theorem Chip.updClk_tmr (g : ClockSt → ClockSt) : (c.updClk g).tmr = c.tmr := rfl
@[simp] theorem Chip.updClk_tempo (g : ClockSt → ClockSt) : (c.updClk g).tempo = c.tempo := rfl
@[simp] theorem Chip.updClk_trg (g : ClockSt → ClockSt) : (c.updClk g).trg = c.trg := rfl
@[simp] theorem Chip.updClk_trgNow (g : ClockSt → ClockSt) : (c.updClk g).trgNow = c.trgNow := rfl
@[simp] theorem Chip.updClk_gpIn (g : ClockSt → ClockSt) : (c.updClk g).gpIn = c.gpIn := rfl
@[simp] theorem Chip.updClk_host (g : ClockSt → ClockSt) : (c.updClk g).host = c.host := rfl
@[simp] theorem Chip.updClk_rep (g : ClockSt → ClockSt) : (c.updClk g).rep = c.rep := rfl
@[simp] theorem Chip.updClk_boot (g : ClockSt → ClockSt) : (c.updClk g).boot = c.boot := rfl
@[simp] theorem Chip.updClk_saf (g : ClockSt → ClockSt) : (c.updClk g).saf = c.saf := rfl
@[simp] theorem Chip.updClk_tap (g : ClockSt → ClockSt) : (c.updClk g).tap = c.tap := rfl
@[simp] theorem Chip.updClk_pwr (g : ClockSt → ClockSt) : (c.updClk g).pwr = c.pwr := rfl

/-! ### raiseIf writes `regs` only -/

@[simp] theorem Chip.raiseIf_ctr (b : Bool) (n : Nat) : (c.raiseIf b n).ctr = c.ctr := by cases b <;> rfl
@[simp] theorem Chip.raiseIf_clk (b : Bool) (n : Nat) : (c.raiseIf b n).clk = c.clk := by cases b <;> rfl
@[simp] theorem Chip.raiseIf_pal (b : Bool) (n : Nat) : (c.raiseIf b n).pal = c.pal := by cases b <;> rfl
@[simp] theorem Chip.raiseIf_blocks (b : Bool) (n : Nat) : (c.raiseIf b n).blocks = c.blocks := by cases b <;> rfl
@[simp] theorem Chip.raiseIf_slots (b : Bool) (n : Nat) : (c.raiseIf b n).slots = c.slots := by cases b <;> rfl
@[simp] theorem Chip.raiseIf_late (b : Bool) (n : Nat) : (c.raiseIf b n).late = c.late := by cases b <;> rfl
@[simp] theorem Chip.raiseIf_tails (b : Bool) (n : Nat) : (c.raiseIf b n).tails = c.tails := by cases b <;> rfl
@[simp] theorem Chip.raiseIf_regions (b : Bool) (n : Nat) : (c.raiseIf b n).regions = c.regions := by cases b <;> rfl
@[simp] theorem Chip.raiseIf_rmem (b : Bool) (n : Nat) : (c.raiseIf b n).rmem = c.rmem := by cases b <;> rfl
@[simp] theorem Chip.raiseIf_parts (b : Bool) (n : Nat) : (c.raiseIf b n).parts = c.parts := by cases b <;> rfl
@[simp] theorem Chip.raiseIf_returned (b : Bool) (n : Nat) : (c.raiseIf b n).returned = c.returned := by cases b <;> rfl
@[simp] theorem Chip.raiseIf_ez (b : Bool) (n : Nat) : (c.raiseIf b n).ez = c.ez := by cases b <;> rfl
@[simp] theorem Chip.raiseIf_cnv (b : Bool) (n : Nat) : (c.raiseIf b n).cnv = c.cnv := by cases b <;> rfl
@[simp] theorem Chip.raiseIf_ao (b : Bool) (n : Nat) : (c.raiseIf b n).ao = c.ao := by cases b <;> rfl
@[simp] theorem Chip.raiseIf_cv (b : Bool) (n : Nat) : (c.raiseIf b n).cv = c.cv := by cases b <;> rfl
@[simp] theorem Chip.raiseIf_cvg (b : Bool) (n : Nat) : (c.raiseIf b n).cvg = c.cvg := by cases b <;> rfl
@[simp] theorem Chip.raiseIf_cvNew (b : Bool) (n : Nat) : (c.raiseIf b n).cvNew = c.cvNew := by cases b <;> rfl
@[simp] theorem Chip.raiseIf_cvNow (b : Bool) (n : Nat) : (c.raiseIf b n).cvNow = c.cvNow := by cases b <;> rfl
@[simp] theorem Chip.raiseIf_pumpStop (b : Bool) (n : Nat) : (c.raiseIf b n).pumpStop = c.pumpStop := by cases b <;> rfl
@[simp] theorem Chip.raiseIf_ai (b : Bool) (n : Nat) : (c.raiseIf b n).ai = c.ai := by cases b <;> rfl
@[simp] theorem Chip.raiseIf_sa (b : Bool) (n : Nat) : (c.raiseIf b n).sa = c.sa := by cases b <;> rfl
@[simp] theorem Chip.raiseIf_dma (b : Bool) (n : Nat) : (c.raiseIf b n).dma = c.dma := by cases b <;> rfl
@[simp] theorem Chip.raiseIf_dmaLast (b : Bool) (n : Nat) : (c.raiseIf b n).dmaLast = c.dmaLast := by cases b <;> rfl
@[simp] theorem Chip.raiseIf_tmr (b : Bool) (n : Nat) : (c.raiseIf b n).tmr = c.tmr := by cases b <;> rfl
@[simp] theorem Chip.raiseIf_tempo (b : Bool) (n : Nat) : (c.raiseIf b n).tempo = c.tempo := by cases b <;> rfl
@[simp] theorem Chip.raiseIf_trg (b : Bool) (n : Nat) : (c.raiseIf b n).trg = c.trg := by cases b <;> rfl
@[simp] theorem Chip.raiseIf_trgNow (b : Bool) (n : Nat) : (c.raiseIf b n).trgNow = c.trgNow := by cases b <;> rfl
@[simp] theorem Chip.raiseIf_gpIn (b : Bool) (n : Nat) : (c.raiseIf b n).gpIn = c.gpIn := by cases b <;> rfl
@[simp] theorem Chip.raiseIf_host (b : Bool) (n : Nat) : (c.raiseIf b n).host = c.host := by cases b <;> rfl
@[simp] theorem Chip.raiseIf_rep (b : Bool) (n : Nat) : (c.raiseIf b n).rep = c.rep := by cases b <;> rfl
@[simp] theorem Chip.raiseIf_boot (b : Bool) (n : Nat) : (c.raiseIf b n).boot = c.boot := by cases b <;> rfl
@[simp] theorem Chip.raiseIf_saf (b : Bool) (n : Nat) : (c.raiseIf b n).saf = c.saf := by cases b <;> rfl
@[simp] theorem Chip.raiseIf_tap (b : Bool) (n : Nat) : (c.raiseIf b n).tap = c.tap := by cases b <;> rfl
@[simp] theorem Chip.raiseIf_pwr (b : Bool) (n : Nat) : (c.raiseIf b n).pwr = c.pwr := by cases b <;> rfl

/-! ### What the updates write -/

@[simp] theorem Chip.updEz_ez (g : Easel → Easel) : (c.updEz g).ez = g c.ez := rfl
@[simp] theorem Chip.updClk_clk (g : ClockSt → ClockSt) : (c.updClk g).clk = g c.clk := rfl

end Sys2Proof.Machine
end

