-- ==== Sys2Proof/Laws/Table.lean ====
section
/-! SUPPORT. Laws of the sparse tables: a read after a write, and the canonical form, which every operation keeps. -/

namespace Sys2Proof.Machine

variable {α : Type}

theorem tabGet_tabErase_self (t : Tab α) (d : α) (k : Nat) : tabGet (tabErase t k) d k = d := by
  induction t with
  | nil => rfl
  | cons p r ih =>
    obtain ⟨j, w⟩ := p
    by_cases h : j = k <;> simp [tabErase, tabGet, h, ih]

theorem tabGet_tabErase_ne (t : Tab α) (d : α) {k j : Nat} (h : j ≠ k) : tabGet (tabErase t k) d j = tabGet t d j := by
  induction t with
  | nil => rfl
  | cons p r ih =>
    obtain ⟨i, w⟩ := p
    by_cases hk : i = k
    · subst hk; simp [tabErase, tabGet, ih, Ne.symm h]
    · by_cases hj : i = j
      · subst hj; simp [tabErase, tabGet, hk]
      · simp [tabErase, tabGet, hk, hj, ih]

theorem tabGet_tabPut_self (t : Tab α) (d : α) (k : Nat) (v : α) : tabGet (tabPut t k v) d k = v := by
  induction t with
  | nil => simp [tabPut, tabGet]
  | cons p r ih =>
    obtain ⟨j, w⟩ := p
    by_cases h : j = k
    · simp [tabPut, tabGet, h]
    · by_cases h2 : k < j <;> simp [tabPut, tabGet, h, h2, ih]

theorem tabGet_tabPut_ne (t : Tab α) (d : α) {k j : Nat} (v : α) (h : j ≠ k) : tabGet (tabPut t k v) d j = tabGet t d j := by
  induction t with
  | nil => simp [tabPut, tabGet, Ne.symm h]
  | cons p r ih =>
    obtain ⟨i, w⟩ := p
    by_cases hk : i = k
    · subst hk; simp [tabPut, tabGet, Ne.symm h]
    · by_cases h2 : k < i
      · simp [tabPut, tabGet, hk, h2, Ne.symm h]
      · by_cases hj : i = j
        · subst hj; simp [tabPut, tabGet, hk, h2]
        · simp [tabPut, tabGet, hk, h2, hj, ih]

theorem tabErase_eq_filter (t : Tab α) (k : Nat) : tabErase t k = t.filter fun p => decide (p.1 ≠ k) := by
  induction t with
  | nil => rfl
  | cons p r ih =>
    obtain ⟨j, w⟩ := p
    by_cases h : j = k <;> simp [tabErase, h, ih]

theorem mem_tabPut {t : Tab α} {k : Nat} {v : α} {p : Nat × α} (h : p ∈ tabPut t k v) : p = (k, v) ∨ p ∈ t := by
  induction t with
  | nil => simpa [tabPut] using h
  | cons q r ih =>
    obtain ⟨j, w⟩ := q
    simp only [tabPut] at h
    split at h
    · rcases List.mem_cons.1 h with h | h
      · exact .inl h
      · exact .inr (List.mem_cons_of_mem _ h)
    · split at h
      · rcases List.mem_cons.1 h with h | h
        · exact .inl h
        · exact .inr h
      · rcases List.mem_cons.1 h with h | h
        · exact .inr (h ▸ List.mem_cons_self)
        · rcases ih h with h | h
          · exact .inl h
          · exact .inr (List.mem_cons_of_mem _ h)

theorem pairwise_tabPut {t : Tab α} (k : Nat) (v : α) (h : t.Pairwise fun p q => p.1 < q.1) :
    (tabPut t k v).Pairwise fun p q => p.1 < q.1 := by
  induction t with
  | nil => simp [tabPut]
  | cons q r ih =>
    obtain ⟨j, w⟩ := q
    have hc := List.pairwise_cons.1 h
    simp only [tabPut]
    split
    · next e => subst e; exact List.pairwise_cons.2 ⟨hc.1, hc.2⟩
    · split
      · next hlt =>
        refine List.pairwise_cons.2 ⟨?_, h⟩
        intro p hp
        rcases List.mem_cons.1 hp with e | hp
        · subst e; exact hlt
        · exact lt_trans hlt (hc.1 p hp)
      · next hne hlt =>
        refine List.pairwise_cons.2 ⟨?_, ih hc.2⟩
        intro p hp
        rcases mem_tabPut hp with e | hp
        · subst e; simp only; omega
        · exact hc.1 p hp

/-- Clearing a range leaves the keys outside it alone. -/
theorem tabGet_tabClear (t : Tab α) (d : α) (lo n k : Nat) :
    tabGet (tabClear t lo n) d k = if lo ≤ k ∧ k < lo + n then d else tabGet t d k := by
  induction t with
  | nil => simp [tabClear, tabGet]
  | cons p r ih =>
    obtain ⟨j, w⟩ := p
    have hc : tabClear ((j, w) :: r) lo n =
        if lo ≤ j ∧ j < lo + n then tabClear r lo n else (j, w) :: tabClear r lo n := by
      by_cases h : lo ≤ j ∧ j < lo + n
      · simp [tabClear, h.1, h.2]
      · rw [if_neg h]
        have : (!(decide (lo ≤ j) && decide (j < lo + n))) = true := by
          simp only [Bool.not_eq_true', Bool.and_eq_false_iff, decide_eq_false_iff_not]; omega
        exact List.filter_cons_of_pos (p := fun p => !(decide (lo ≤ p.1) && decide (p.1 < lo + n))) (a := (j, w)) this
    rw [hc]
    by_cases h : lo ≤ j ∧ j < lo + n
    · rw [if_pos h, ih]
      by_cases hj : j = k
      · subst hj; simp [h]
      · simp [tabGet, hj]
    · rw [if_neg h]
      by_cases hj : j = k
      · subst hj; simp [tabGet, h]
      · simp [tabGet, hj, ih]

variable [DecidableEq α]

/-- A read after a write to the same key gives the value written. -/
@[simp] theorem tabGet_tabSet_self (t : Tab α) (d : α) (k : Nat) (v : α) : tabGet (tabSet t d k v) d k = v := by
  unfold tabSet; split
  · next h => rw [tabGet_tabErase_self, h]
  · exact tabGet_tabPut_self t d k v

/-- A write leaves every other key alone, whatever an unlisted key reads as. -/
theorem tabGet_tabSet_ne (t : Tab α) (d d' : α) {k j : Nat} (v : α) (h : j ≠ k) :
    tabGet (tabSet t d k v) d' j = tabGet t d' j := by
  unfold tabSet; split
  · exact tabGet_tabErase_ne t d' h
  · exact tabGet_tabPut_ne t d' v h

/-- The canonical form as a property: the keys strictly rise and no entry is a default. -/
theorem tabWf_iff (d : Nat → α) (t : Tab α) :
    tabWf d t = true ↔ t.Pairwise (fun p q => p.1 < q.1) ∧ ∀ p ∈ t, p.2 ≠ d p.1 := by
  induction t with
  | nil => simp [tabWf]
  | cons p r ih =>
    obtain ⟨k, v⟩ := p
    cases r with
    | nil => simp [tabWf]
    | cons q r =>
      obtain ⟨j, w⟩ := q
      simp only [tabWf, Bool.and_eq_true, decide_eq_true_eq, ih]
      constructor
      · rintro ⟨⟨hkj, hv⟩, hp, hd⟩
        refine ⟨List.pairwise_cons.2 ⟨?_, hp⟩, ?_⟩
        · rintro ⟨i, x⟩ hi
          rcases List.mem_cons.1 hi with h | h
          · cases h; exact hkj
          · exact lt_trans hkj ((List.pairwise_cons.1 hp).1 _ h)
        · intro p hpm
          rcases List.mem_cons.1 hpm with h | h
          · subst h; exact hv
          · exact hd p h
      · rintro ⟨hp, hd⟩
        have := List.pairwise_cons.1 hp
        exact ⟨⟨this.1 _ List.mem_cons_self, hd _ List.mem_cons_self⟩, this.2, fun p h => hd p (List.mem_cons_of_mem _ h)⟩

theorem tabWf_filter (d : Nat → α) (t : Tab α) (f : Nat × α → Bool) (h : tabWf d t = true) : tabWf d (t.filter f) = true := by
  rw [tabWf_iff] at h ⊢
  exact ⟨h.1.filter f, fun p hp => h.2 p (List.mem_filter.1 hp).1⟩

theorem tabWf_tabErase (d : Nat → α) (t : Tab α) (k : Nat) (h : tabWf d t = true) : tabWf d (tabErase t k) = true := by
  rw [tabErase_eq_filter]; exact tabWf_filter d t _ h

/-- A write keeps the canonical form when the table's default at its key is what an unlisted key reads as. -/
theorem tabWf_tabSet (d : Nat → α) (t : Tab α) (k : Nat) (v : α) (h : tabWf d t = true) :
    tabWf d (tabSet t (d k) k v) = true := by
  unfold tabSet; split
  · exact tabWf_tabErase d t k h
  · next hv =>
    rw [tabWf_iff] at h ⊢
    refine ⟨pairwise_tabPut k v h.1, fun p hp => ?_⟩
    rcases mem_tabPut hp with e | hp
    · subst e; exact hv
    · exact h.2 p hp

theorem tabWf_tabClear (d : Nat → α) (t : Tab α) (lo n : Nat) (h : tabWf d t = true) : tabWf d (tabClear t lo n) = true :=
  tabWf_filter d t _ h

end Sys2Proof.Machine
end

