-- ==== Sys2Proof/Laws/Fields.lean ====
section
/-! SUPPORT. Registers and their fields: a read after a write, and what a write leaves alone (R4, R8); event sources (R519). -/

namespace Sys2Proof.Machine

/-! ### Words -/

/-- A bit of a field's mask. -/
theorem getLsbD_fieldMask (f : Field) (h : f.lo + f.width ≤ 32) (i : Nat) :
    (fieldMask f).getLsbD i = (decide (f.lo ≤ i) && decide (i < f.lo + f.width)) := by
  unfold fieldMask
  by_cases hi : i < 32
  · rw [BitVec.getLsbD_ofNat, Nat.testBit_mul_two_pow, Nat.testBit_two_pow_sub_one]
    by_cases h1 : f.lo ≤ i <;> by_cases h2 : i < f.lo + f.width <;> simp [h1, h2, hi] <;> omega
  · rw [BitVec.getLsbD_of_ge _ _ (by omega)]
    have : ¬ i < f.lo + f.width := by omega
    simp [this]

/-- A bit of a value put in a field's place. -/
theorem getLsbD_fieldVal (f : Field) (h : f.lo + f.width ≤ 32) (v i : Nat) :
    (BitVec.ofNat 32 (v % 2 ^ f.width * 2 ^ f.lo)).getLsbD i =
      (decide (f.lo ≤ i) && decide (i < f.lo + f.width) && v.testBit (i - f.lo)) := by
  by_cases hi : i < 32
  · rw [BitVec.getLsbD_ofNat, Nat.testBit_mul_two_pow, Nat.testBit_mod_two_pow]
    by_cases h1 : f.lo ≤ i <;> by_cases h2 : i < f.lo + f.width <;> simp [h1, h2, hi] <;> omega
  · rw [BitVec.getLsbD_of_ge _ _ (by omega)]
    have : ¬ i < f.lo + f.width := by omega
    simp [this]

/-- A field's value bit by bit. -/
theorem testBit_fieldVal (w : Word) (lo n i : Nat) :
    (w.toNat / 2 ^ lo % 2 ^ n).testBit i = (decide (i < n) && w.getLsbD (lo + i)) := by
  rw [Nat.testBit_mod_two_pow, Nat.testBit_div_two_pow, BitVec.getLsbD, Nat.add_comm]

variable (c : Chip)

/-! ### Registers -/

@[simp] theorem Chip.reg_setReg_self (a : Nat) (v : Word) : (c.setReg a v).reg a = v := tabGet_tabSet_self _ _ _ _

theorem Chip.reg_setReg_ne {a b : Nat} (v : Word) (h : b ≠ a) : (c.setReg a v).reg b = c.reg b :=
  tabGet_tabSet_ne _ _ _ _ h

theorem Chip.reg_setFld_ne {f : Field} {b : Nat} (v : Nat) (h : b ≠ f.addr) : (c.setFld f v).reg b = c.reg b :=
  c.reg_setReg_ne _ h

theorem Chip.getLsbD_reg_setFld {f : Field} (h : f.lo + f.width ≤ 32) (v i : Nat) :
    ((c.setFld f v).reg f.addr).getLsbD i =
      if f.lo ≤ i ∧ i < f.lo + f.width then v.testBit (i - f.lo) else (c.reg f.addr).getLsbD i := by
  rw [Chip.setFld, Chip.reg_setReg_self, BitVec.getLsbD_or, BitVec.getLsbD_and, BitVec.getLsbD_not,
    getLsbD_fieldMask f h, getLsbD_fieldVal f h]
  by_cases hi : i < 32
  · by_cases h1 : f.lo ≤ i <;> by_cases h2 : i < f.lo + f.width <;> simp [h1, h2, hi]
  · have : ¬ i < f.lo + f.width := by omega
    have hz : (c.reg f.addr).getLsbD i = false := BitVec.getLsbD_of_ge _ _ (by omega)
    simp [this, hz]

/-! ### Fields -/

/-- A field reads as it was written. -/
theorem Chip.fld_setFld_self {f : Field} (h : f.lo + f.width ≤ 32) (v : Nat) : (c.setFld f v).fld f = v % 2 ^ f.width := by
  apply Nat.eq_of_testBit_eq
  intro i
  rw [Chip.fld, testBit_fieldVal, c.getLsbD_reg_setFld h, Nat.testBit_mod_two_pow]
  by_cases hi : i < f.width
  · have : f.lo ≤ f.lo + i ∧ f.lo + i < f.lo + f.width := by omega
    rw [if_pos this]
    have hs : f.lo + i - f.lo = i := by omega
    rw [hs]
  · simp [hi]

/-- A write to another register leaves a field alone. -/
theorem Chip.fld_setFld_ne {f g : Field} (v : Nat) (h : g.addr ≠ f.addr) : (c.setFld f v).fld g = c.fld g := by
  rw [Chip.fld, c.reg_setFld_ne v h, Chip.fld]

/-- A write to other bits of the register leaves a field alone. -/
theorem Chip.fld_setFld_disjoint {f g : Field} (v : Nat) (h : f.lo + f.width ≤ 32) (ha : g.addr = f.addr)
    (hd : g.lo + g.width ≤ f.lo ∨ f.lo + f.width ≤ g.lo) : (c.setFld f v).fld g = c.fld g := by
  apply Nat.eq_of_testBit_eq
  intro i
  rw [Chip.fld, Chip.fld, testBit_fieldVal, testBit_fieldVal, ha, c.getLsbD_reg_setFld h]
  by_cases hi : i < g.width
  · have : ¬ (f.lo ≤ g.lo + i ∧ g.lo + i < f.lo + f.width) := by omega
    rw [if_neg this]
  · simp [hi]

theorem Chip.fld_setReg_ne {a : Nat} {g : Field} (v : Word) (h : g.addr ≠ a) : (c.setReg a v).fld g = c.fld g := by
  rw [Chip.fld, c.reg_setReg_ne v h, Chip.fld]

theorem Chip.fld_setReg_self (g : Field) (v : Word) : (c.setReg g.addr v).fld g = v.toNat / 2 ^ g.lo % 2 ^ g.width := by
  rw [Chip.fld, c.reg_setReg_self]

theorem Chip.is_set1 {f : Field} (h : f.lo + f.width ≤ 32) (hw : 0 < f.width) : (c.set1 f).is f = true := by
  have : 1 % 2 ^ f.width = 1 := Nat.mod_eq_of_lt (Nat.one_lt_two_pow (by omega))
  simp [Chip.is, Chip.set1, c.fld_setFld_self h, this]

theorem Chip.is_clr {f : Field} (h : f.lo + f.width ≤ 32) : (c.clr f).is f = false := by
  simp [Chip.is, Chip.clr, c.fld_setFld_self h]

theorem Chip.is_putB {f : Field} (h : f.lo + f.width ≤ 32) (hw : 0 < f.width) (b : Bool) : (c.putB f b).is f = b := by
  cases b
  · exact c.is_clr h
  · exact c.is_set1 h hw

/-- A field is below 2 to its width. -/
theorem Chip.fld_lt (f : Field) : c.fld f < 2 ^ f.width := Nat.mod_lt _ (Nat.two_pow_pos _)

/-- A counter field counts and stops at its maximum (R126). -/
theorem Chip.fld_addCnt_self {f : Field} (h : f.lo + f.width ≤ 32) (n : Nat) :
    (c.addCnt f n).fld f = min (c.fld f + n) (2 ^ f.width - 1) := by
  rw [Chip.addCnt, c.fld_setFld_self h]
  apply Nat.mod_eq_of_lt
  have := Nat.two_pow_pos f.width
  omega

theorem Chip.fld_bump_self {f : Field} (h : f.lo + f.width ≤ 32) : (c.bump f).fld f = min (c.fld f + 1) (2 ^ f.width - 1) :=
  c.fld_addCnt_self h 1

/-! ### Reads that see the registers only -/

@[simp] theorem Chip.reg_updBlk (k : Nat) (g : Block → Block) (a : Nat) : (c.updBlk k g).reg a = c.reg a := rfl
@[simp] theorem Chip.reg_setSlot (k : Nat) (x : SlotSt) (a : Nat) : (c.setSlot k x).reg a = c.reg a := rfl
@[simp] theorem Chip.reg_updSlot (k : Nat) (g : SlotSt → SlotSt) (a : Nat) : (c.updSlot k g).reg a = c.reg a := rfl
@[simp] theorem Chip.reg_updRgn (k : Nat) (g : RegionSt → RegionSt) (a : Nat) : (c.updRgn k g).reg a = c.reg a := rfl
@[simp] theorem Chip.reg_updRm (k : Nat) (g : RegionMem → RegionMem) (a : Nat) : (c.updRm k g).reg a = c.reg a := rfl
@[simp] theorem Chip.reg_updPart (k : Nat) (g : Part → Part) (a : Nat) : (c.updPart k g).reg a = c.reg a := rfl
@[simp] theorem Chip.reg_updEz (g : Easel → Easel) (a : Nat) : (c.updEz g).reg a = c.reg a := rfl
@[simp] theorem Chip.reg_updClk (g : ClockSt → ClockSt) (a : Nat) : (c.updClk g).reg a = c.reg a := rfl
@[simp] theorem Chip.fld_updBlk (k : Nat) (g : Block → Block) (f : Field) : (c.updBlk k g).fld f = c.fld f := rfl
@[simp] theorem Chip.fld_setSlot (k : Nat) (x : SlotSt) (f : Field) : (c.setSlot k x).fld f = c.fld f := rfl
@[simp] theorem Chip.fld_updSlot (k : Nat) (g : SlotSt → SlotSt) (f : Field) : (c.updSlot k g).fld f = c.fld f := rfl
@[simp] theorem Chip.fld_updRgn (k : Nat) (g : RegionSt → RegionSt) (f : Field) : (c.updRgn k g).fld f = c.fld f := rfl
@[simp] theorem Chip.fld_updRm (k : Nat) (g : RegionMem → RegionMem) (f : Field) : (c.updRm k g).fld f = c.fld f := rfl
@[simp] theorem Chip.fld_updPart (k : Nat) (g : Part → Part) (f : Field) : (c.updPart k g).fld f = c.fld f := rfl
@[simp] theorem Chip.fld_updEz (g : Easel → Easel) (f : Field) : (c.updEz g).fld f = c.fld f := rfl
@[simp] theorem Chip.fld_updClk (g : ClockSt → ClockSt) (f : Field) : (c.updClk g).fld f = c.fld f := rfl

/-! ### Event sources -/

/-- Is event source n pending (R519)? -/
theorem Chip.getLsbD_raise (n i : Nat) (j : Nat) (hj : j < 32) :
    ((c.raise n).reg (EVC_PEND i)).getLsbD j =
      ((c.reg (EVC_PEND i)).getLsbD j || (decide (i = n / 32) && decide (j = n % 32))) := by
  by_cases hi : i = n / 32
  · subst hi
    rw [Chip.raise, Chip.reg_setReg_self, BitVec.getLsbD_or, BitVec.getLsbD_shiftLeft]
    have : n % 32 < 32 := Nat.mod_lt _ (by decide)
    by_cases h : j = n % 32
    · subst h; simp [this]
    · by_cases h2 : j < n % 32
      · simp [h, h2]
      · have h3 : j - n % 32 ≠ 0 := by omega
        simp [h, h2, hj, h3]
  · have : EVC_PEND i ≠ EVC_PEND (n / 32) := by unfold EVC_PEND; omega
    rw [Chip.raise, c.reg_setReg_ne _ this]
    simp [hi]

theorem Chip.reg_raise_ne {n a : Nat} (h : a ≠ EVC_PEND (n / 32)) : (c.raise n).reg a = c.reg a := c.reg_setReg_ne _ h

theorem Chip.fld_raise_ne {n : Nat} {f : Field} (h : f.addr ≠ EVC_PEND (n / 32)) : (c.raise n).fld f = c.fld f := by
  rw [Chip.fld, c.reg_raise_ne h, Chip.fld]

/-! ### Blocks, slots, regions and parts -/

@[simp] theorem Chip.blk_updBlk_self (k : Nat) (g : Block → Block) : (c.updBlk k g).blk k = g (c.blk k) :=
  tabGet_tabSet_self _ _ _ _
theorem Chip.blk_updBlk_ne {k j : Nat} (g : Block → Block) (h : j ≠ k) : (c.updBlk k g).blk j = c.blk j :=
  tabGet_tabSet_ne _ _ _ _ h
@[simp] theorem Chip.slot_setSlot_self (k : Nat) (x : SlotSt) : (c.setSlot k x).slot k = x := tabGet_tabSet_self _ _ _ _
theorem Chip.slot_setSlot_ne {k j : Nat} (x : SlotSt) (h : j ≠ k) : (c.setSlot k x).slot j = c.slot j :=
  tabGet_tabSet_ne _ _ _ _ h
@[simp] theorem Chip.slot_updSlot_self (k : Nat) (g : SlotSt → SlotSt) : (c.updSlot k g).slot k = g (c.slot k) :=
  tabGet_tabSet_self _ _ _ _
theorem Chip.slot_updSlot_ne {k j : Nat} (g : SlotSt → SlotSt) (h : j ≠ k) : (c.updSlot k g).slot j = c.slot j :=
  tabGet_tabSet_ne _ _ _ _ h
@[simp] theorem Chip.rgn_updRgn_self (k : Nat) (g : RegionSt → RegionSt) : (c.updRgn k g).rgn k = g (c.rgn k) :=
  tabGet_tabSet_self _ _ _ _
theorem Chip.rgn_updRgn_ne {k j : Nat} (g : RegionSt → RegionSt) (h : j ≠ k) : (c.updRgn k g).rgn j = c.rgn j :=
  tabGet_tabSet_ne _ _ _ _ h
@[simp] theorem Chip.rm_updRm_self (k : Nat) (g : RegionMem → RegionMem) : (c.updRm k g).rm k = g (c.rm k) :=
  tabGet_tabSet_self _ _ _ _
theorem Chip.rm_updRm_ne {k j : Nat} (g : RegionMem → RegionMem) (h : j ≠ k) : (c.updRm k g).rm j = c.rm j :=
  tabGet_tabSet_ne _ _ _ _ h
@[simp] theorem Chip.part_updPart_self (k : Nat) (g : Part → Part) : (c.updPart k g).part k = g (c.part k) :=
  tabGet_tabSet_self _ _ _ _
theorem Chip.part_updPart_ne {k j : Nat} (g : Part → Part) (h : j ≠ k) : (c.updPart k g).part j = c.part j :=
  tabGet_tabSet_ne _ _ _ _ h

end Sys2Proof.Machine
end

