-- ==== Sys2Proof/Laws/Ops.lean ====
section
/-! SUPPORT. The forms of a meaning: each of the shared wrappers ends in a next state that keeps the queue, and acts only where its
condition holds. And the loops over indices and lists. -/

namespace Sys2Proof.Machine

variable {s : State} {ok : Chip → Bool} {f : Chip → Chip}

/-! ### Wrappers -/

theorem actIf_of (h : ok s.chip = true) : actIf ok f s = .next { s with chip := f s.chip } := if_pos h

theorem actIf_of_not (h : ok s.chip = false) : actIf ok f s = .next s := if_neg (by simp [h])

/-- A command of a clocked device acts on it. -/
theorem act_clocked (h : s.chip.clocked = true) : act f s = .next { s with chip := f s.chip } := actIf_of h

/-- A command of a device that is not clocked changes nothing. -/
theorem act_held (h : s.chip.clocked = false) : act f s = .next s := actIf_of_not h

theorem actFree_clocked (h : s.chip.clocked = true) :
    actFree f s = .next { s with chip := { f s.chip with ctr := s.chip.ctr + 1 } } := act_clocked h

theorem actFree_held (h : s.chip.clocked = false) : actFree f s = .next s := act_held h

theorem actAll_clocked {g : State → State} (h : s.chip.clocked = true) :
    actAll g s = .next { g s with chip := { (g s).chip with ctr := s.chip.ctr + 1 }, pending := s.pending } := if_pos h

theorem actAll_held {g : State → State} (h : s.chip.clocked = false) : actAll g s = .next s := if_neg (by simp [h])

theorem actReset_of {g : State → State} (h : ok s.chip = true) :
    actReset ok g s = .next { g s with chip := { (g s).chip with ctr := (g s).chip.ctr + 1 }, pending := s.pending } :=
  if_pos h

theorem actReset_of_not {g : State → State} (h : ok s.chip = false) : actReset ok g s = .next s := if_neg (by simp [h])

theorem actTap_of {g : Tap → Tap} (h : s.chip.pwr.vin = true) : actTap g s = .next { s with chip := s.chip.updTap g } :=
  actIf_of h

theorem actTap_of_not {g : Tap → Tap} (h : s.chip.pwr.vin = false) : actTap g s = .next s := actIf_of_not h

/-! ### What a wrapper can answer: a next state with the same queue -/

/-- The answer of a meaning: a next state that keeps the queue. -/
def Answers (s : State) (o : Host.Outcome State Fault Refusal) : Prop := ∃ t, o = .next t ∧ t.pending = s.pending

theorem answers_actIf (ok : Chip → Bool) (f : Chip → Chip) (s : State) : Answers s (actIf ok f s) := by
  unfold actIf; split <;> exact ⟨_, rfl, rfl⟩

theorem answers_act (f : Chip → Chip) (s : State) : Answers s (act f s) := answers_actIf _ f s

theorem answers_actFree (f : Chip → Chip) (s : State) : Answers s (actFree f s) := answers_act _ s

theorem answers_actAll (g : State → State) (s : State) : Answers s (actAll g s) := by
  unfold actAll; split <;> exact ⟨_, rfl, rfl⟩

theorem answers_actReset (ok : Chip → Bool) (g : State → State) (s : State) : Answers s (actReset ok g s) := by
  unfold actReset; split <;> exact ⟨_, rfl, rfl⟩

theorem answers_actTap (g : Tap → Tap) (s : State) : Answers s (actTap g s) := answers_actIf _ _ s

/-- A command of the device alone leaves the banks and what outlasts resets alone. -/
theorem actIf_store {t : State} (h : actIf ok f s = .next t) : t.mem = s.mem ∧ t.nv = s.nv ∧ t.pending = s.pending := by
  unfold actIf at h; split at h <;> cases h <;> exact ⟨rfl, rfl, rfl⟩

theorem act_store {t : State} (h : act f s = .next t) : t.mem = s.mem ∧ t.nv = s.nv ∧ t.pending = s.pending := actIf_store h

theorem actFree_store {t : State} (h : actFree f s = .next t) : t.mem = s.mem ∧ t.nv = s.nv ∧ t.pending = s.pending :=
  act_store h

/-- A property of banks and store that a meaning's operation keeps is kept by its step. -/
theorem actAll_keeps {P : MemState → NonVol → Prop} {g : State → State} {t : State} (hs : P s.mem s.nv)
    (hg : P (g s).mem (g s).nv) (h : actAll g s = .next t) : P t.mem t.nv := by
  unfold actAll at h; split at h <;> cases h <;> assumption

theorem actReset_keeps {P : MemState → NonVol → Prop} {g : State → State} {t : State} (hs : P s.mem s.nv)
    (hg : P (g s).mem (g s).nv) (h : actReset ok g s = .next t) : P t.mem t.nv := by
  unfold actReset at h; split at h <;> cases h <;> assumption

/-! ### Loops -/

/-- What every pass of a loop over indices keeps, the loop keeps. -/
theorem Chip.forN_keeps {P : Chip → Prop} (n : Nat) (f : Nat → Chip → Chip) (h : ∀ i c, i < n → P c → P (f i c)) (c : Chip)
    (hc : P c) : P (c.forN n f) := by
  unfold Chip.forN
  have : ∀ l : List Nat, (∀ i ∈ l, i < n) → ∀ c, P c → P (l.foldl (fun c i => f i c) c) := by
    intro l
    induction l with
    | nil => intro _ c hc; exact hc
    | cons i l ih =>
      intro hl c hc
      exact ih (fun j hj => hl j (List.mem_cons_of_mem _ hj)) _ (h i c (hl i List.mem_cons_self) hc)
  exact this _ (fun i hi => List.mem_range.1 hi) c hc

/-- What every pass of a loop over a list keeps, the loop keeps. -/
theorem Chip.forL_keeps {α : Type} {P : Chip → Prop} (l : List α) (f : α → Chip → Chip) (h : ∀ x c, x ∈ l → P c → P (f x c))
    (c : Chip) (hc : P c) : P (c.forL l f) := by
  unfold Chip.forL
  induction l generalizing c with
  | nil => exact hc
  | cons x l ih =>
    exact ih (fun y c hy => h y c (List.mem_cons_of_mem _ hy)) _ (h x c List.mem_cons_self hc)

end Sys2Proof.Machine
end

