-- ==== Sys2Proof/Laws/Frames.lean ====
section
/-! SUPPORT. Frames of registers: which bits an update can change. -/

namespace Sys2Proof.Machine

variable {c d e : Chip} {l : List Field}

theorem Chip.BitsKept.refl (c : Chip) (l : List Field) : c.BitsKept c l := fun _ _ _ => rfl

theorem Chip.BitsKept.of_regs (h : d.regs = c.regs) : c.BitsKept d l := fun a i _ => by unfold Chip.reg; rw [h]

theorem Chip.BitsKept.trans (h : c.BitsKept d l) (k : d.BitsKept e l) : c.BitsKept e l :=
  fun a i ha => (k a i ha).trans (h a i ha)

theorem Chip.BitsKept.mono {l' : List Field} (h : c.BitsKept d l) (hl : ∀ f ∈ l, f ∈ l') : c.BitsKept d l' :=
  fun a i ha => h a i fun f hf => ha f (hl f hf)

/-- Bits of a register no field of which is named are kept. -/
theorem Chip.BitsKept.reg (h : c.BitsKept d l) {a : Nat} (ha : ∀ f ∈ l, f.addr ≠ a) : d.reg a = c.reg a :=
  BitVec.eq_of_getLsbD_eq fun i _ => h a i fun f hf => fun k => ha f hf k.1

/-- A field apart from those named keeps its value. -/
theorem Chip.BitsKept.fld (h : c.BitsKept d l) {g : Field}
    (hg : ∀ f ∈ l, f.addr ≠ g.addr ∨ g.lo + g.width ≤ f.lo ∨ f.lo + f.width ≤ g.lo) : d.fld g = c.fld g := by
  apply Nat.eq_of_testBit_eq
  intro i
  rw [Chip.fld, Chip.fld, testBit_fieldVal, testBit_fieldVal]
  by_cases hi : i < g.width
  · rw [h g.addr (g.lo + i) fun f hf k => by have := hg f hf; omega]
  · simp [hi]

theorem Chip.BitsKept.setFld (h : c.BitsKept d l) {f : Field} (hf : f ∈ l) (hw : f.lo + f.width ≤ 32) (v : Nat) :
    c.BitsKept (d.setFld f v) l := by
  refine h.trans fun a i ha => ?_
  by_cases e : a = f.addr
  · subst e
    rw [d.getLsbD_reg_setFld hw, if_neg]
    exact fun k => ha f hf ⟨rfl, k⟩
  · rw [d.reg_setFld_ne v e]

theorem Chip.BitsKept.set1 (h : c.BitsKept d l) {f : Field} (hf : f ∈ l) (hw : f.lo + f.width ≤ 32) : c.BitsKept (d.set1 f) l :=
  h.setFld hf hw 1

theorem Chip.BitsKept.clr (h : c.BitsKept d l) {f : Field} (hf : f ∈ l) (hw : f.lo + f.width ≤ 32) : c.BitsKept (d.clr f) l :=
  h.setFld hf hw 0

theorem Chip.BitsKept.putB (h : c.BitsKept d l) {f : Field} (hf : f ∈ l) (hw : f.lo + f.width ≤ 32) (b : Bool) :
    c.BitsKept (d.putB f b) l := h.setFld hf hw _

theorem Chip.BitsKept.addCnt (h : c.BitsKept d l) {f : Field} (hf : f ∈ l) (hw : f.lo + f.width ≤ 32) (n : Nat) :
    c.BitsKept (d.addCnt f n) l := h.setFld hf hw _

theorem Chip.BitsKept.bump (h : c.BitsKept d l) {f : Field} (hf : f ∈ l) (hw : f.lo + f.width ≤ 32) : c.BitsKept (d.bump f) l :=
  h.addCnt hf hw 1

theorem Chip.BitsKept.setReg (h : c.BitsKept d l) {a : Nat} (ha : (⟨a, 0, 32⟩ : Field) ∈ l) (v : Word) :
    c.BitsKept (d.setReg a v) l := by
  refine h.trans fun b i hb => ?_
  by_cases e : b = a
  · subst e
    have hi : ¬ i < 32 := fun k => hb _ ha ⟨rfl, Nat.zero_le _, by simpa using k⟩
    rw [BitVec.getLsbD_of_ge _ _ (by omega), BitVec.getLsbD_of_ge _ _ (by omega)]
  · rw [d.reg_setReg_ne v e]

/-- Raising a source changes its pending bit alone (R519). -/
theorem Chip.BitsKept.raise (h : c.BitsKept d l) {n : Nat} (hn : evBit n ∈ l) : c.BitsKept (d.raise n) l := by
  refine h.trans fun a i ha => ?_
  by_cases e : a = EVC_PEND (n / 32)
  · subst e
    have hi : i ≠ n % 32 := fun k => ha _ hn ⟨rfl, by simp [evBit, k], by simp [evBit, k]⟩
    unfold Chip.raise
    rw [Chip.reg_setReg_self, BitVec.getLsbD_or]
    have : (1#32 <<< (n % 32)).getLsbD i = false := by
      simp only [BitVec.getLsbD_shiftLeft, BitVec.getLsbD_one]
      by_cases h1 : i < n % 32
      · simp [h1]
      · have : i - n % 32 ≠ 0 := by omega
        simp [this]
    rw [this, Bool.or_false]
  · unfold Chip.raise; rw [d.reg_setReg_ne _ e]

theorem Chip.BitsKept.raiseIf (h : c.BitsKept d l) {n : Nat} (hn : evBit n ∈ l) (b : Bool) : c.BitsKept (d.raiseIf b n) l := by
  unfold Chip.raiseIf; split
  · exact h.raise hn
  · exact h

/-- A raised source is pending. -/
theorem Chip.isPending_raise (c : Chip) (n : Nat) : (c.raise n).isPending n = true := by
  have e : ((c.raise n).reg (EVC_PEND (n / 32))).getLsbD (n % 32) = true := by
    have h32 : n % 32 < 32 := Nat.mod_lt _ (by decide)
    unfold Chip.raise
    rw [Chip.reg_setReg_self, BitVec.getLsbD_or]
    simp [h32]
  have hb : ((c.raise n).fld (evBit n)).testBit 0 = true := by
    rw [Chip.fld, testBit_fieldVal]; simpa [evBit] using e
  unfold Chip.isPending Chip.is
  rw [decide_eq_true_eq]
  intro h0
  rw [h0] at hb
  simp at hb

end Sys2Proof.Machine
end

