-- ==== Sys2Proof/Laws/Memory.lean ====
section
/-! SUPPORT. Banks and flash: a read after a write, what a write leaves alone, and the canonical form, which every operation on
them keeps. And the one-time content of the store, which every operation on it moves forward. -/

namespace Sys2Proof.Machine

/-! ### Banks -/

@[simp] theorem MemState.setByte_ecc (m : MemState) (a : Nat) (v : Byte) : (m.setByte a v).ecc = m.ecc := rfl

theorem MemState.setByte_banks (m : MemState) (a b : Nat) (v : Byte) :
    tabGet (m.setByte a v).banks 0 b = if b = a then v else tabGet m.banks 0 b := by
  unfold MemState.setByte
  split
  · next h => subst h; exact tabGet_tabSet_self _ _ _ _
  · next h => exact tabGet_tabSet_ne _ _ _ _ h

/-- A word written leaves every byte outside it alone. -/
theorem MemState.wr_banks_ne (m : MemState) (a b : Nat) (v : Word) (h : b < a ∨ a + 4 ≤ b) :
    tabGet (m.wr a v).banks 0 b = tabGet m.banks 0 b := by
  unfold MemState.wr
  simp only [MemState.setByte_banks]
  rw [if_neg (by omega), if_neg (by omega), if_neg (by omega), if_neg (by omega)]

/-- A word is made of its four bytes (R5). -/
theorem bytesWord_parts (v : Word) :
    bytesWord [v.extractLsb' 0 8, v.extractLsb' 8 8, v.extractLsb' 16 8, v.extractLsb' 24 8] = v := by
  apply BitVec.eq_of_getLsbD_eq
  intro i hi
  simp only [bytesWord, List.getD_cons_zero, List.getD_cons_succ, BitVec.getLsbD_or, BitVec.getLsbD_shiftLeft,
    BitVec.getLsbD_setWidth, BitVec.getLsbD_extractLsb']
  by_cases a : i < 8
  · simp [a, hi, show i < 16 by omega, show i < 24 by omega]
  · by_cases b : i < 16
    · simp [a, b, hi, show i < 24 by omega, show i - 8 < 8 by omega, show 8 + (i - 8) = i by omega,
        show i - 8 < 32 by omega]
    · by_cases c : i < 24
      · simp [a, b, c, hi, show ¬ i - 8 < 8 by omega, show i - 16 < 8 by omega, show 16 + (i - 16) = i by omega,
          show i - 16 < 32 by omega]
      · simp [a, b, c, hi, show ¬ i - 8 < 8 by omega, show ¬ i - 16 < 8 by omega, show i - 24 < 8 by omega,
          show 24 + (i - 24) = i by omega, show i - 24 < 32 by omega]

/-- A word reads as it was written. -/
theorem MemState.rd_wr (m : MemState) (a : Nat) (v : Word) : (m.wr a v).rd a = v := by
  have e : tabGet (m.wr a v).ecc 0 (bankOf a * 2 ^ 19 + bankWord a) = 0 := by
    unfold MemState.wr; exact tabGet_tabErase_self _ _ _
  unfold MemState.rd
  rw [e, if_neg (by decide)]
  unfold MemState.wr
  simp only [MemState.setByte_banks]
  have h0 : ¬ a = a + 3 ∧ ¬ a = a + 2 ∧ ¬ a = a + 1 := by omega
  have h1 : ¬ a + 1 = a + 3 ∧ ¬ a + 1 = a + 2 := by omega
  have h2 : ¬ a + 2 = a + 3 := by omega
  simp only [h0, h1, h2, if_true, if_false]
  exact bytesWord_parts v

theorem MemState.wf_setByte (m : MemState) (a : Nat) (v : Byte) (h : m.wf = true) : (m.setByte a v).wf = true := by
  simp only [MemState.wf, Bool.and_eq_true] at h ⊢
  exact ⟨tabWf_tabSet (fun _ => 0) _ a v h.1, h.2⟩

theorem MemState.wf_wr (m : MemState) (a : Nat) (v : Word) (h : m.wf = true) : (m.wr a v).wf = true := by
  unfold MemState.wr
  refine MemState.wf_setByte _ _ _ (MemState.wf_setByte _ _ _ (MemState.wf_setByte _ _ _ (MemState.wf_setByte _ _ _ ?_)))
  simp only [MemState.wf, Bool.and_eq_true] at h ⊢
  exact ⟨h.1, tabWf_tabErase _ _ _ h.2⟩

theorem MemState.wf_wrs (m : MemState) (a : Nat) (l : List Word) (h : m.wf = true) : (m.wrs a l).wf = true := by
  induction l generalizing m a with
  | nil => exact h
  | cons v r ih => exact ih _ _ (m.wf_wr a v h)

theorem MemState.wf_setEcc (m : MemState) (k : Nat) (n : Nat) (h : m.wf = true) :
    MemState.wf { m with ecc := tabSet m.ecc 0 k n } = true := by
  simp only [MemState.wf, Bool.and_eq_true] at h ⊢
  exact ⟨h.1, tabWf_tabSet (fun _ => 0) _ k n h.2⟩

theorem MemState.wf_clear (m : MemState) (a n k l : Nat) (h : m.wf = true) :
    MemState.wf { m with banks := tabClear m.banks a n, ecc := tabClear m.ecc k l } = true := by
  simp only [MemState.wf, Bool.and_eq_true] at h ⊢
  exact ⟨tabWf_tabClear _ _ _ _ h.1, tabWf_tabClear _ _ _ _ h.2⟩

theorem MemState.wf_empty : MemState.wf {} = true := rfl

/-- Cells of consecutive bytes are in canonical form and lie in their range. -/
theorem cellsFrom_sound (l : List Byte) (a : Nat) :
    tabWf (fun _ => (0 : Byte)) (cellsFrom a l) = true ∧ ∀ p ∈ cellsFrom a l, a ≤ p.1 ∧ p.1 < a + l.length := by
  induction l generalizing a with
  | nil => exact ⟨rfl, fun p h => absurd h (by simp [cellsFrom])⟩
  | cons b r ih =>
    obtain ⟨hw, hr⟩ := ih (a + 1)
    by_cases hb : b = 0
    · simp only [cellsFrom, if_pos hb, List.length_cons]
      exact ⟨hw, fun p hp => by have := hr p hp; omega⟩
    · simp only [cellsFrom, if_neg hb, List.length_cons]
      rw [tabWf_iff] at hw ⊢
      refine ⟨⟨List.pairwise_cons.2 ⟨fun p hp => ?_, hw.1⟩, fun p hp => ?_⟩, fun p hp => ?_⟩
      · have := hr p hp; simp only; omega
      · rcases List.mem_cons.1 hp with e | hp
        · subst e; exact hb
        · exact hw.2 p hp
      · rcases List.mem_cons.1 hp with e | hp
        · subst e; simp only; omega
        · have := hr p hp; omega

/-- Tables whose keys lie in rising, separate ranges join in canonical form. -/
theorem tabWf_append {α : Type} [DecidableEq α] (d : Nat → α) (t u : Tab α) (m : Nat) (ht : tabWf d t = true)
    (hu : tabWf d u = true) (h1 : ∀ p ∈ t, p.1 < m) (h2 : ∀ p ∈ u, m ≤ p.1) : tabWf d (t ++ u) = true := by
  rw [tabWf_iff] at ht hu ⊢
  refine ⟨List.pairwise_append.2 ⟨ht.1, hu.1, fun p hp q hq => ?_⟩, fun p hp => ?_⟩
  · have := h1 p hp; have := h2 q hq; omega
  · rcases List.mem_append.1 hp with hp | hp
    · exact ht.2 p hp
    · exact hu.2 p hp

/-- What a load writes to the banks is in canonical form (R437). -/
theorem Primer.banks_wf (x : Primer) : tabWf (fun _ => (0 : Byte)) x.banks = true := by
  have len : ∀ r, (((x.space r).take 1048576).flatMap wordBytes).length ≤ 4194304 := by
    intro r
    have : ∀ l : List Word, (l.flatMap wordBytes).length = 4 * l.length := by
      intro l
      induction l with
      | nil => rfl
      | cons v l ih => simp only [List.flatMap_cons, List.length_append, ih, List.length_cons]; simp [wordBytes]; omega
    rw [this]
    have := List.length_take_le 1048576 (x.space r)
    omega
  have step : ∀ n, contentAddr (n + 1) 0 = contentAddr n 0 + 4194304 := by
    intro n; unfold contentAddr; omega
  have piece := fun r => cellsFrom_sound (((x.space r).take 1048576).flatMap wordBytes) (contentAddr r 0)
  have key : ∀ n, tabWf (fun _ => (0 : Byte))
        ((List.range n).flatMap fun r => cellsFrom (contentAddr r 0) (((x.space r).take 1048576).flatMap wordBytes)) = true ∧
      ∀ p ∈ (List.range n).flatMap fun r => cellsFrom (contentAddr r 0) (((x.space r).take 1048576).flatMap wordBytes),
        p.1 < contentAddr n 0 := by
    intro n
    induction n with
    | zero => exact ⟨rfl, fun p h => absurd h (by simp)⟩
    | succ n ih =>
      rw [List.range_succ, List.flatMap_append, List.flatMap_singleton]
      have hn : ∀ p ∈ cellsFrom (contentAddr n 0) (((x.space n).take 1048576).flatMap wordBytes),
          contentAddr n 0 ≤ p.1 ∧ p.1 < contentAddr (n + 1) 0 := by
        intro p hp
        have h1 := (piece n).2 p hp
        have h2 := len n
        have h3 := step n
        omega
      refine ⟨tabWf_append _ _ _ (contentAddr n 0) ih.1 (piece n).1 ih.2 (fun p hp => (hn p hp).1), fun p hp => ?_⟩
      rcases List.mem_append.1 hp with hp | hp
      · have h1 := ih.2 p hp
        have h3 := step n
        omega
      · exact (hn p hp).2
  have := (key 4).1
  unfold Primer.banks
  exact this

/-! ### Flash -/

theorem NonVol.wf_setFlash (n : NonVol) (x a : Nat) (v : Byte) (h : n.flashWf = true) : (n.setFlash x a v).flashWf = true := by
  simp only [NonVol.flashWf, Bool.and_eq_true] at h
  unfold NonVol.setFlash
  split <;> simp only [NonVol.flashWf, Bool.and_eq_true]
  · exact ⟨tabWf_tabSet (fun _ => 0xFF) _ a v h.1, h.2⟩
  · exact ⟨h.1, tabWf_tabSet (fun _ => 0xFF) _ a v h.2⟩

theorem NonVol.wf_setFlashes (n : NonVol) (x a : Nat) (l : List Byte) (h : n.flashWf = true) :
    (n.setFlashes x a l).flashWf = true := by
  induction l generalizing n a with
  | nil => exact h
  | cons v r ih => exact ih _ _ (n.wf_setFlash x a v h)

theorem NonVol.wf_erase (n : NonVol) (x a len : Nat) (h : n.flashWf = true) : (n.erase x a len).flashWf = true := by
  simp only [NonVol.flashWf, Bool.and_eq_true] at h
  unfold NonVol.erase
  simp only
  split <;> simp only [NonVol.flashWf, Bool.and_eq_true]
  · exact ⟨tabWf_tabClear _ _ _ _ h.1, h.2⟩
  · exact ⟨h.1, tabWf_tabClear _ _ _ _ h.2⟩

theorem NonVol.wf_program (n : NonVol) (x a : Nat) (data : List Byte) (h : n.flashWf = true) :
    (n.program x a data).flashWf = true := by
  unfold NonVol.program
  generalize List.range data.length = l
  induction l generalizing n with
  | nil => exact h
  | cons i r ih => exact ih _ (n.wf_setFlash x _ _ h)

theorem NonVol.wf_xsApply (n : NonVol) (x : Nat) (o : XsOp) (h : n.flashWf = true) : (n.xsApply x o).flashWf = true := by
  unfold NonVol.xsApply
  split
  · exact n.wf_program x _ _ h
  · exact n.wf_erase x _ _ h
  · exact n.wf_erase x _ _ h

theorem NonVol.wf_journal (n : NonVol) (copy : Nat) (seq : Word) (m : List Repair) (h : n.flashWf = true) :
    (n.journal copy seq m).flashWf = true :=
  NonVol.wf_setFlashes _ _ _ _ (n.wf_erase _ _ _ h)

theorem NonVol.wf_safApply (n : NonVol) (op slot : Nat) (w : List Word) (h : n.flashWf = true) :
    (n.safApply op slot w).flashWf = true := by
  unfold NonVol.safApply
  simp only
  split
  · exact h
  · exact h
  · exact h
  · split <;> exact h
  · exact h

theorem NonVol.wf_burnKeys (n : NonVol) (ctr : Nat) (h : n.flashWf = true) : (n.burnKeys ctr).flashWf = true := h

/-- A byte of flash reads as it was written, and a write leaves every other byte alone. -/
theorem NonVol.flash_setFlash (n : NonVol) (x a y b : Nat) (v : Byte) (hx : x < 2) (hy : y < 2) :
    (n.setFlash x a v).flash y b = if x = y ∧ a = b then v else n.flash y b := by
  unfold NonVol.setFlash NonVol.flash
  by_cases h0 : x = 0 <;> by_cases h1 : y = 0
  · subst h0 h1
    by_cases h : a = b
    · subst h; simp
    · simp [h, tabGet_tabSet_ne _ _ _ _ (Ne.symm h)]
  · have : ¬ 0 = y := by omega
    subst h0; simp [h1, this]
  · have : ¬ x = 0 := h0
    subst h1; simp [h0]
  · have e : x = y := by omega
    subst e
    by_cases h : a = b
    · subst h; simp [h0]
    · simp [h0, h, tabGet_tabSet_ne _ _ _ _ (Ne.symm h)]

/-! ### The one-time content (R576) -/

theorem NonVol.Forward.rfl' (n : NonVol) : n.Forward n :=
  ⟨id, id, id, fun _ => rfl, le_refl _, fun _ => id⟩

theorem NonVol.Forward.trans {a b c : NonVol} (h : a.Forward b) (k : b.Forward c) : a.Forward c where
  signreq := fun x => k.signreq (h.signreq x)
  dbgdis := fun x => k.dbgdis (h.dbgdis x)
  erased := fun x => k.erased (h.erased x)
  dbgHash := fun x => by rw [k.dbgHash (by rw [h.dbgHash x]; exact x), h.dbgHash x]
  fuses := le_trans k.fuses h.fuses
  slots := fun j x => k.slots j (h.slots j x)

/-- An operation that leaves the one-time content alone moves it forward. -/
theorem NonVol.Forward.of_eq {n n' : NonVol} (h1 : n'.signreq = n.signreq) (h2 : n'.dbgdis = n.dbgdis) (h3 : n'.erased = n.erased)
    (h4 : n'.dbgHash = n.dbgHash) (h5 : n'.tleft = n.tleft) (h6 : n'.slots = n.slots) : n.Forward n' where
  signreq := fun x => h1 ▸ x
  dbgdis := fun x => h2 ▸ x
  erased := fun x => h3 ▸ x
  dbgHash := fun _ => h4
  fuses := le_of_eq h5
  slots := fun _ x => h6 ▸ x

theorem NonVol.forward_setFlash (n : NonVol) (x a : Nat) (v : Byte) : n.Forward (n.setFlash x a v) := by
  unfold NonVol.setFlash; split <;> exact .of_eq rfl rfl rfl rfl rfl rfl

theorem NonVol.forward_setFlashes (n : NonVol) (x a : Nat) (l : List Byte) : n.Forward (n.setFlashes x a l) := by
  induction l generalizing n a with
  | nil => exact .rfl' n
  | cons v r ih => exact (n.forward_setFlash x a v).trans (ih _ _)

theorem NonVol.forward_erase (n : NonVol) (x a len : Nat) : n.Forward (n.erase x a len) := by
  unfold NonVol.erase; simp only; split <;> exact .of_eq rfl rfl rfl rfl rfl rfl

theorem NonVol.forward_program (n : NonVol) (x a : Nat) (data : List Byte) : n.Forward (n.program x a data) := by
  unfold NonVol.program
  generalize List.range data.length = l
  induction l generalizing n with
  | nil => exact .rfl' n
  | cons i r ih => exact (n.forward_setFlash x _ _).trans (ih _)

theorem NonVol.forward_xsApply (n : NonVol) (x : Nat) (o : XsOp) : n.Forward (n.xsApply x o) := by
  unfold NonVol.xsApply
  split
  · exact n.forward_program x _ _
  · exact n.forward_erase x _ _
  · exact n.forward_erase x _ _

theorem NonVol.forward_journal (n : NonVol) (copy : Nat) (seq : Word) (m : List Repair) : n.Forward (n.journal copy seq m) :=
  (n.forward_erase _ _ _).trans (NonVol.forward_setFlashes _ _ _ _)

theorem NonVol.forward_safApply (n : NonVol) (op slot : Nat) (w : List Word) : n.Forward (n.safApply op slot w) := by
  have put : ∀ (v : KeySlot), v.st ≠ 0 → n.Forward { n with slots := tabSet n.slots {} slot v } := by
    intro v hv
    refine ⟨id, id, id, fun _ => rfl, le_refl _, fun k h => ?_⟩
    by_cases e : k = slot
    · subst e; simpa using hv
    · simpa [tabGet_tabSet_ne _ _ _ _ e] using h
  unfold NonVol.safApply
  simp only
  split
  · exact put _ (Nat.succ_ne_zero 0)
  · exact put _ (Nat.succ_ne_zero 1)
  · exact ⟨fun _ => rfl, id, id, fun _ => rfl, le_refl _, fun _ => id⟩
  · split
    · exact .rfl' n
    · next h => exact ⟨id, id, id, fun x => absurd x h, le_refl _, fun _ => id⟩
  · exact ⟨id, fun _ => rfl, id, fun _ => rfl, le_refl _, fun _ => id⟩

theorem NonVol.forward_burnKeys (n : NonVol) (ctr : Nat) : n.Forward (n.burnKeys ctr) := by
  refine ⟨id, id, fun _ => rfl, fun _ => rfl, le_refl _, fun k h => ?_⟩
  unfold NonVol.burnKeys
  simp only
  revert h
  generalize n.slots = l
  intro h
  induction l with
  | nil => exact h
  | cons p r ih =>
    obtain ⟨j, x⟩ := p
    simp only [List.map_cons]
    by_cases hj : j = k
    · subst hj
      simp only [tabGet, if_true] at h
      split <;> simp_all [tabGet]
    · simp only [tabGet, if_neg hj] at h
      have := ih h
      split <;> simp_all [tabGet]

/-- A tamper event burns one fuse (R588). -/
theorem NonVol.forward_fuse (n : NonVol) : n.Forward { n with tleft := n.tleft - 1 } :=
  ⟨id, id, id, fun _ => rfl, Nat.sub_le _ _, fun _ => id⟩

end Sys2Proof.Machine
end

