-- ==== Sys2Proof/Laws/Store.lean ====
section
/-! SUPPORT. Everything a step can do to the banks, the flash and the store: every command reaches its next state's memories by
the moves listed here, one after another. -/

namespace Sys2Proof.Machine

/-- One move on the banks, and on flash and the store. -/
inductive StoreMove : MemState × NonVol → MemState × NonVol → Prop
  | write (m : MemState) (n : NonVol) (a : Nat) (v : Word) : StoreMove (m, n) (m.wr a v, n)
  | error (m : MemState) (n : NonVol) (k v : Nat) : StoreMove (m, n) ({ m with ecc := tabSet m.ecc 0 k v }, n)
  | region (m : MemState) (n : NonVol) (a l k j : Nat) :
      StoreMove (m, n) ({ m with banks := tabClear m.banks a l, ecc := tabClear m.ecc k j }, n)
  | clear (m : MemState) (n : NonVol) : StoreMove (m, n) ({}, n)
  | load (m : MemState) (n : NonVol) (x : Primer) (l : List Nat) :
      StoreMove (m, n) ({ banks := l.foldl (fun b r => tabClear b (0x1000000 + r * 0x400000) 0x400000) x.banks, ecc := [] }, n)
  | flash (m : MemState) (n : NonVol) (x a : Nat) (v : Byte) : StoreMove (m, n) (m, n.setFlash x a v)
  | erase (m : MemState) (n : NonVol) (x a l : Nat) : StoreMove (m, n) (m, n.erase x a l)
  | fuse (m : MemState) (n : NonVol) : StoreMove (m, n) (m, { n with tleft := n.tleft - 1 })
  | saffron (m : MemState) (n : NonVol) (op slot : Nat) (w : List Word) : StoreMove (m, n) (m, n.safApply op slot w)
  | burn (m : MemState) (n : NonVol) (ctr : Nat) : StoreMove (m, n) (m, n.burnKeys ctr)

/-- Moves one after another. -/
abbrev StoreMoves := Relation.ReflTransGen StoreMove

/-- A state's memories reach another's by moves. -/
def State.Moves (s t : State) : Prop := StoreMoves (s.mem, s.nv) (t.mem, t.nv)

/-- Moves keep the canonical form. -/
theorem State.Moves.wf {s t : State} (h : s.Moves t) (hs : s.memWf = true) : t.memWf = true := by
  have key : ∀ {p q : MemState × NonVol}, StoreMoves p q → (p.1.wf = true ∧ p.2.flashWf = true) →
      q.1.wf = true ∧ q.2.flashWf = true := by
    intro p q hpq
    induction hpq with
    | refl => exact id
    | tail _ h ih =>
      intro hp
      obtain ⟨h1, h2⟩ := ih hp
      cases h with
      | write m n a v => exact ⟨m.wf_wr a v h1, h2⟩
      | error m n k v => exact ⟨m.wf_setEcc k v h1, h2⟩
      | region m n a l k j => exact ⟨m.wf_clear a l k j h1, h2⟩
      | clear m n => exact ⟨rfl, h2⟩
      | load m n x l =>
        refine ⟨?_, h2⟩
        have : ∀ (l : List Nat) (b : Tab Byte), tabWf (fun _ => (0 : Byte)) b = true →
            tabWf (fun _ => (0 : Byte)) (l.foldl (fun b r => tabClear b (0x1000000 + r * 0x400000) 0x400000) b) = true := by
          intro l
          induction l with
          | nil => exact fun b hb => hb
          | cons r l ih => exact fun b hb => ih _ (tabWf_tabClear _ _ _ _ hb)
        simp only [MemState.wf, Bool.and_eq_true]
        exact ⟨this l _ x.banks_wf, rfl⟩
      | flash m n x a v => exact ⟨h1, n.wf_setFlash x a v h2⟩
      | erase m n x a l => exact ⟨h1, n.wf_erase x a l h2⟩
      | fuse m n => exact ⟨h1, h2⟩
      | saffron m n op slot w => exact ⟨h1, n.wf_safApply op slot w h2⟩
      | burn m n ctr => exact ⟨h1, n.wf_burnKeys ctr h2⟩
  simp only [State.memWf, Bool.and_eq_true] at hs ⊢
  exact key h hs

/-- Moves take the one-time content forward only. -/
theorem State.Moves.forward {s t : State} (h : s.Moves t) : s.nv.Forward t.nv := by
  have key : ∀ {p q : MemState × NonVol}, StoreMoves p q → p.2.Forward q.2 := by
    intro p q hpq
    induction hpq with
    | refl => exact .rfl' _
    | tail _ h ih =>
      refine ih.trans ?_
      cases h with
      | flash m n x a v => exact n.forward_setFlash x a v
      | erase m n x a l => exact n.forward_erase x a l
      | fuse m n => exact n.forward_fuse
      | saffron m n op slot w => exact n.forward_safApply op slot w
      | burn m n ctr => exact n.forward_burnKeys ctr
      | _ => exact .rfl' _
  exact key h

theorem State.Moves.same {s t : State} (hm : t.mem = s.mem) (hn : t.nv = s.nv) : s.Moves t := by
  unfold State.Moves; rw [hm, hn]

theorem State.Moves.trans {s t u : State} (h : s.Moves t) (k : t.Moves u) : s.Moves u := Relation.ReflTransGen.trans h k

/-- Moves from a state with the same memories. -/
theorem State.Moves.since {s s' t : State} (h : s'.Moves t) (hm : s'.mem = s.mem) (hn : s'.nv = s.nv) : s.Moves t := by
  unfold State.Moves at h ⊢; rw [← hm, ← hn]; exact h

/-- Moves to memories that are named. -/
theorem State.Moves.to_ {s t : State} {m : MemState} {n : NonVol} (h : StoreMoves (s.mem, s.nv) (m, n)) (hm : t.mem = m)
    (hn : t.nv = n) : s.Moves t := by
  unfold State.Moves; rw [hm, hn]; exact h

theorem State.Moves.withNv {s : State} (c : Chip) {n : NonVol} (h : StoreMoves (s.mem, s.nv) (s.mem, n)) :
    s.Moves { s with chip := c, nv := n } := h

theorem State.Moves.withMem {s : State} (c : Chip) {m : MemState} (h : StoreMoves (s.mem, s.nv) (m, s.nv)) :
    s.Moves { s with chip := c, mem := m } := h

theorem State.Moves.withChip {s t : State} (c : Chip) (h : s.Moves t) : s.Moves { t with chip := c } := h

theorem State.Moves.ofStep {s t : State} (h : StoreMove (s.mem, s.nv) (t.mem, t.nv)) : s.Moves t := .single h

/-! ### Banks and flash -/

theorem moves_wrs (m : MemState) (n : NonVol) (a : Nat) (l : List Word) : StoreMoves (m, n) (m.wrs a l, n) := by
  induction l generalizing m a with
  | nil => exact .refl
  | cons v r ih => exact .head (.write m n a v) (ih _ _)

theorem moves_wrAll (m : MemState) (n : NonVol) (l : List (Nat × Word)) : StoreMoves (m, n) (m.wrAll l, n) := by
  induction l generalizing m with
  | nil => exact .refl
  | cons p r ih => exact .head (.write m n p.1 p.2) (ih _)

theorem moves_setFlashes (m : MemState) (n : NonVol) (x a : Nat) (l : List Byte) : StoreMoves (m, n) (m, n.setFlashes x a l) := by
  induction l generalizing n a with
  | nil => exact .refl
  | cons v r ih => exact .head (.flash m n x a v) (ih _ _)

theorem moves_program (m : MemState) (n : NonVol) (x a : Nat) (data : List Byte) : StoreMoves (m, n) (m, n.program x a data) := by
  unfold NonVol.program
  generalize List.range data.length = l
  induction l generalizing n with
  | nil => exact .refl
  | cons i r ih => exact .head (.flash m n x _ _) (ih _)

theorem moves_xsApply (m : MemState) (n : NonVol) (x : Nat) (o : XsOp) : StoreMoves (m, n) (m, n.xsApply x o) := by
  unfold NonVol.xsApply
  split
  · exact moves_program m n x _ _
  · exact .single (.erase ..)
  · exact .single (.erase ..)

theorem moves_journal (m : MemState) (n : NonVol) (copy : Nat) (seq : Word) (l : List Repair) :
    StoreMoves (m, n) (m, n.journal copy seq l) :=
  .head (.erase m n _ _ _) (moves_setFlashes _ _ _ _ _)

theorem State.journalTorn_moves (s : State) (m : MemState) : StoreMoves (m, s.nv) (m, s.journalTorn) := by
  unfold State.journalTorn
  split
  · exact .refl
  · simp only
    split
    · exact .refl
    · exact .single (.erase ..)
    · exact .head (.erase m s.nv _ _ _) (moves_setFlashes _ _ _ _ _)
    · exact moves_journal ..

theorem State.journalDone_moves (s : State) (ready : Bool) : s.Moves (s.journalDone ready) := by
  unfold State.journalDone
  split
  · exact .same rfl rfl
  · simp only
    split
    · exact .withNv _ (moves_journal ..)
    · exact .withNv _ (s.journalTorn_moves s.mem)

theorem State.wbufLand_moves (s : State) (r : Nat) : s.Moves (s.wbufLand r) := by
  unfold State.wbufLand
  simp only
  split
  · exact .same rfl rfl
  · split
    · exact .same rfl rfl
    · exact .ofStep (.write ..)

theorem State.stepTakes_moves (s : State) : s.Moves s.stepTakes := by
  unfold State.stepTakes
  simp only
  split <;> exact .same rfl rfl

theorem State.wbufDrain_moves (s : State) (r n : Nat) : s.Moves (s.wbufDrain r n) := by
  induction n generalizing s with
  | zero => exact .same rfl rfl
  | succ n ih =>
    unfold State.wbufDrain
    exact .since ((State.wbufLand_moves _ r).trans (ih _)) rfl rfl

theorem State.restorerStep_moves (s : State) : s.Moves s.restorerStep := by
  unfold State.restorerStep; simp only; split <;> exact .same rfl rfl

theorem State.restorerDone_moves (s : State) (reads : List MarchRead) : s.Moves (s.restorerDone reads) := by
  unfold State.restorerDone
  simp only
  split
  · exact .same rfl rfl
  · exact .withMem _ (moves_wrs ..)

theorem State.xsDone_moves (s : State) (x : Nat) (ready : Bool) : s.Moves (s.xsDone x ready) := by
  unfold State.xsDone
  simp only
  split
  · exact .same rfl rfl
  · refine .withNv _ ?_
    split
    · exact moves_xsApply ..
    · exact .refl

theorem State.fillRing_moves (s : State) (r n chunk : Nat) : s.Moves (s.fillRing r n chunk) := by
  unfold State.fillRing
  split
  · exact .same rfl rfl
  · split
    · exact .same rfl rfl
    · exact .withMem _ (moves_wrAll ..)

theorem State.streamRefill_moves (s : State) (x : Nat) : s.Moves (s.streamRefill x) := by
  unfold State.streamRefill
  split
  · exact .same rfl rfl
  · simp only
    split
    · exact .since (State.fillRing_moves _ _ _ _) rfl rfl
    · split
      · exact .since (State.fillRing_moves _ _ _ _) rfl rfl
      · exact .same rfl rfl

theorem State.regionOut_moves (s : State) (r : Nat) : s.Moves (s.regionOut r) := by
  unfold State.regionOut
  simp only
  split
  · exact .same rfl rfl
  · exact .ofStep (.region ..)

theorem State.loadDone_moves (s : State) (r : Nat) : s.Moves (s.loadDone r) := by
  unfold State.loadDone
  repeat' (first | exact .same rfl rfl | split | simp only)

theorem State.wakeDone_moves (s : State) (r : Nat) : s.Moves (s.wakeDone r) := by
  unfold State.wakeDone
  repeat' (first | exact .same rfl rfl | split)

theorem State.refillDone_moves (s : State) (r b line : Nat) : s.Moves (s.refillDone r b line) := by
  unfold State.refillDone
  repeat' (first | exact .same rfl rfl | split | simp only)

theorem State.cellHandover_moves (s : State) (differs : Bool) : s.Moves (s.cellHandover differs) := by
  unfold State.cellHandover
  repeat' (first | exact .same rfl rfl | split | simp only)

/-! ### Boot -/

theorem State.logPut1_moves (s : State) (step event reason : Nat) (data : Word) : s.Moves (s.logPut1 step event reason data) := by
  unfold State.logPut1
  simp only
  split
  · exact State.Moves.withNv _ (moves_program ..)
  · exact .same rfl rfl

theorem State.logFlush_moves (s : State) : s.Moves s.logFlush := by
  unfold State.logFlush
  split
  · have : ∀ (l : List (Nat × Nat × Word)) (s : State), s.Moves (l.foldl (fun s x => s.logPut1 x.1 3 x.2.1 x.2.2) s) := by
      intro l
      induction l with
      | nil => exact fun s => .same rfl rfl
      | cons x l ih => exact fun s => (s.logPut1_moves _ _ _ _).trans (ih _)
    exact .since (this _ _) rfl rfl
  · exact .same rfl rfl

theorem State.logPut_moves (s : State) (step event reason : Nat) (data : Word) : s.Moves (s.logPut step event reason data) :=
  s.logFlush_moves.trans (State.logPut1_moves _ _ _ _ _)

theorem State.bootFail_moves (s : State) (step reason : Nat) (data : Word) : s.Moves (s.bootFail step reason data) :=
  .since (State.logFlush_moves _) rfl rfl

theorem State.tornNv_moves (s : State) (m : MemState) : StoreMoves (m, s.nv) (m, s.tornNv) := by
  unfold State.tornNv
  have fold : ∀ (l : List Nat) (n : NonVol), StoreMoves (m, n) (m, l.foldl (fun n x => match (s.chip.xs x).op with
      | some o => if Config.freeBool s.chip.ctr (808003 + x) then n.xsApply x o else n
      | none => n) n) := by
    intro l
    induction l with
    | nil => exact fun n => .refl
    | cons x l ih =>
      intro n
      refine Relation.ReflTransGen.trans ?_ (ih _)
      simp only
      split
      · split
        · exact moves_xsApply ..
        · exact .refl
      · exact .refl
  simp only
  refine Relation.ReflTransGen.trans (s.journalTorn_moves m) ?_
  split
  · exact Relation.ReflTransGen.tail (fold _ _) (.burn ..)
  · exact fold _ _

theorem State.resetNow_moves (s : State) (tb : Bool) : s.Moves (s.resetNow tb) :=
  .withNv _ (s.tornNv_moves s.mem)

theorem State.logOpen_moves (s : State) : s.Moves s.logOpen := by
  have e : ∀ (b : Prop) [Decidable b] (a : Nat), s.Moves (if b then { s with nv := s.nv.erase 0 a 4096 } else s) := by
    intro b _ a
    split
    · exact .withNv _ (.single (.erase ..))
    · exact .same rfl rfl
  unfold State.logOpen
  extract_lets l start skip pos seq free t
  have h : s.Moves t := e _ _
  clear_value t pos seq
  exact h.trans (.same rfl rfl)

theorem State.cutLoad_moves (s : State) : s.Moves s.cutLoad := by
  unfold State.cutLoad
  split
  · exact .since (State.bootFail_moves _ _ _ _) rfl rfl
  · exact .same rfl rfl

theorem State.standAside_moves (s : State) (reason : Nat) : s.Moves (s.standAside reason) := by
  have open_ : ∀ (b : Prop) [Decidable b] (t : State), t.Moves (if b then t.logOpen else t) := by
    intro b _ t
    split
    · exact t.logOpen_moves
    · exact .same rfl rfl
  unfold State.standAside
  exact (s.cutLoad_moves.trans (open_ _ _)).trans
    ((State.logPut_moves _ _ _ _ _).trans ((State.resetNow_moves _ false).trans (.withMem _ (.single (.clear _ _)))))

theorem State.tamperSet_moves (s : State) : s.Moves s.tamperSet :=
  .withNv _ (.single (.fuse s.mem s.nv))

theorem State.logRebuild_moves (s : State) (l : List LogEntry) : s.Moves (s.logRebuild l) := by
  have put : ∀ f : BootRec → BootRec, s.Moves (s.updBoot f) := fun f => .same rfl rfl
  have fail : ∀ (t : State) (k r : Nat) (d : Word), s.Moves t → s.Moves (State.bootFail { t with chip := t.chip.raise 10 } k r d) :=
    fun t k r d h => (h.withChip _).trans (State.bootFail_moves _ _ _ _)
  unfold State.logRebuild
  simp only
  split
  · exact fail _ _ _ _ (put _)
  · exact put _

theorem State.logScan_moves (s : State) : s.Moves s.logScan := by
  unfold State.logScan
  simp only
  split
  · exact s.logOpen_moves
  · exact s.logOpen_moves.trans (State.logRebuild_moves _ _)

end Sys2Proof.Machine
end

