-- ==== Sys2Proof/Laws/StoreBoot.lean ====
section
/-! SUPPORT. The moves of banks, flash and store in boot and resets (R526 to R546), and in the store's own commands. -/

namespace Sys2Proof.Machine

/-! ### Records -/

theorem State.updBoot_moves (s : State) (f : BootRec → BootRec) : s.Moves (s.updBoot f) := .same rfl rfl

theorem State.levelUp_moves (s : State) (k : Nat) : s.Moves (s.levelUp k) := .same rfl rfl

theorem State.markSlot_moves (s : State) (slot hcrc reason : Nat) : s.Moves (s.markSlot slot hcrc reason) := .same rfl rfl

theorem State.unmark_moves (s : State) (slot : Nat) : s.Moves (s.unmark slot) := .same rfl rfl

theorem State.putChip_moves (s : State) (c : Chip) : s.Moves { s with chip := c } := .same rfl rfl

theorem State.updSaf_moves (s : State) (f : Saffron → Saffron) : s.Moves (s.updSaf f) := .same rfl rfl

theorem State.updHost_moves (s : State) (f : HostPort → HostPort) : s.Moves (s.updHost f) := .same rfl rfl

/-! ### Loading -/

theorem State.applyPrimer_moves (s : State) (x : Primer) : s.Moves (s.applyPrimer x) :=
  .withMem _ (.single (.load ..))

theorem State.loadFail_moves (s : State) (slot reason sec : Nat) : s.Moves (s.loadFail slot reason sec) := by
  have h : s.Moves { s with mem := if loadWrote (s.image slot) reason then {} else s.mem } := by
    split
    · exact .withMem _ (.single (.clear _ _))
    · exact .same rfl rfl
  exact h.trans (.since (State.bootFail_moves _ _ _ _) rfl rfl)

theorem State.loadBegin_moves (s : State) (slot : Nat) : s.Moves (s.loadBegin slot) :=
  (s.logPut_moves _ _ _ _).trans (State.updBoot_moves _ _)

theorem State.loadRun_moves (s : State) (slot : Nat) : s.Moves (s.loadRun slot).2 := by
  unfold State.loadRun
  simp only
  split
  · exact State.loadFail_moves _ _ _ _
  · next x _ =>
    refine State.Moves.trans ?_ (State.logPut_moves _ _ _ _ _)
    exact (s.applyPrimer_moves x).trans (.same rfl rfl)

/-! ### Steps -/

/-- The state in which a step of the sequencer ends. -/
def StepEnd.state : StepEnd → State
  | .done s => s
  | .failed s _ => s
  | .over s => s

theorem stepSupply_moves (e : BootEnv) (s : State) : s.Moves (stepSupply e s).state := by
  unfold stepSupply
  simp only
  split
  · exact (s.bootFail_moves _ _ _).trans (State.standAside_moves _ _)
  · split
    · exact s.putChip_moves _
    · split
      · exact s.putChip_moves _
      · exact s.putChip_moves _

theorem stepClock_moves (e : BootEnv) (s : State) : s.Moves (stepClock e s).state := by
  have last : ∀ (c : Chip) (a b : Nat) (d : Word), s.Moves (State.bootFail { s with chip := c } a b d) :=
    fun c a b d => (s.putChip_moves c).trans (State.bootFail_moves _ _ _ _)
  unfold stepClock
  simp only
  generalize (if s.level 2 = 0 then e.xti0 else e.xti1) = hz
  generalize (if s.level 2 = 0 then e.epll0 else e.epll1) = lock
  split
  · exact .same rfl rfl
  · split
    · exact .same rfl rfl
    · split
      · exact .same rfl rfl
      · split
        · exact s.putChip_moves _
        · split
          · exact s.putChip_moves _
          · exact last _ _ _ _

theorem stepFuse_moves (e : BootEnv) (s : State) : s.Moves (stepFuse e s).state := by
  unfold stepFuse
  generalize (if s.level 3 = 0 then e.fuse0 else e.fuse1) = ok
  split <;> exact .same rfl rfl

theorem stepSaffron_moves (e : BootEnv) (s : State) : s.Moves (stepSaffron e s).state := by
  unfold stepSaffron
  split
  · exact s.putChip_moves _
  · split
    · exact s.tamperSet_moves
    · split <;> exact .same rfl rfl

theorem stepRegions_moves (e : BootEnv) (s : State) : s.Moves (stepRegions e s).state := by
  have key : ∀ (f : BootRec → BootRec) (b : Prop) [Decidable b] (g : State → Chip),
      s.Moves (let t := if b then s.updBoot f else State.bootFail { s.updBoot f with chip := (s.updBoot f).chip.raise 10 } 5 0x22 0
        { t with chip := g t, mem := {} }) := by
    intro f b _ g
    refine State.Moves.trans (t := if b then _ else _) ?_ (.withMem _ (.single (.clear _ _)))
    split
    · exact s.updBoot_moves f
    · exact ((s.updBoot_moves f).withChip _).trans (State.bootFail_moves _ _ _ _)
  unfold stepRegions
  simp only [StepEnd.state]
  exact key _ _ fun t => _

theorem stepXspi_moves (e : BootEnv) (s : State) : s.Moves (stepXspi e s).state := by
  unfold stepXspi
  simp only
  split
  · exact s.putChip_moves _
  · exact .same rfl rfl

theorem stepJournal_moves (s : State) : s.Moves (stepJournal s).state := by
  have scan : ∀ c : Chip, s.Moves (State.logScan { s with chip := c }) :=
    fun c => (s.putChip_moves c).trans (State.logScan_moves _)
  unfold stepJournal
  split
  · exact s.putChip_moves _
  · simp only
    split
    · split
      · exact .same rfl rfl
      · simp only [StepEnd.state]; exact scan _
    · simp only [StepEnd.state]; exact scan _

theorem logPut_chip_moves (s : State) (c : Chip) (a b d : Nat) (w : Word) : s.Moves (State.logPut { s with chip := c } a b d w) :=
  (s.putChip_moves c).trans (State.logPut_moves _ _ _ _ _)

theorem stepRepair_moves (e : BootEnv) (s : State) : s.Moves (stepRepair e s).state := by
  unfold stepRepair
  extract_lets c1 c2 c3 t
  have h : s.Moves t := logPut_chip_moves s c3 9 2 0 0
  split
  · exact h
  · exact h.trans (State.standAside_moves _ _)

/-! ### Selection -/

theorem State.noImage_moves (s : State) : s.Moves s.noImage := by
  unfold State.noImage
  split
  · exact s.updBoot_moves _
  · exact s.standAside_moves _

theorem State.enterRun_moves (s : State) (us : Nat) : s.Moves (s.enterRun us) := by
  have key : ∀ (f : BootRec → BootRec) (g : State → Chip) (a b c : Nat) (d : State → Word),
      s.Moves (let t := s.updBoot f; State.logPut { t with chip := g t } a b c (d t)) :=
    fun f g a b c d => ((s.updBoot_moves f).withChip _).trans (State.logPut_moves _ _ _ _ _)
  exact key _ (fun t => t.chip.raise 9) _ _ _ (fun t => t.chip.bootRead 0x208)

theorem State.loads_moves (e : BootEnv) (l : List Nat) (s : State) : s.Moves (s.loads e l) := by
  induction l generalizing s with
  | nil => exact s.noImage_moves
  | cons slot rest ih =>
    have begin_ : ∀ f : BootRec → BootRec, s.Moves ((s.updBoot f).loadBegin slot) :=
      fun f => (s.updBoot_moves f).trans (State.loadBegin_moves _ _)
    have run : ∀ t : State, s.Moves t → s.Moves (match t.loadRun slot with
        | (true, s) => s.enterRun e.us
        | (false, s) => State.loads e rest s) := by
      intro t ht
      have := t.loadRun_moves slot
      split
      · next h => rw [h] at this; exact ht.trans (this.trans (State.enterRun_moves _ _))
      · next h => rw [h] at this; exact ht.trans (this.trans (ih _))
    unfold State.loads
    simp only
    split
    · exact begin_ _
    · exact run _ (begin_ _)

theorem State.dropMarks_moves (s : State) : s.Moves s.dropMarks := by
  unfold State.dropMarks
  generalize [0, 1, 2] = l
  induction l generalizing s with
  | nil => exact .same rfl rfl
  | cons slot l ih =>
    refine State.Moves.trans ?_ (ih _)
    simp only
    split
    · exact s.unmark_moves slot
    · exact .same rfl rfl

theorem State.slotReasons_moves (s : State) (l : List Nat) : s.Moves (l.foldl (fun s n => s.bootFail 0x0B n 0) s) := by
  induction l generalizing s with
  | nil => exact .same rfl rfl
  | cons n l ih => exact (s.bootFail_moves _ _ _).trans (ih _)

theorem State.select_moves (e : BootEnv) (s : State) : s.Moves (s.select e) := by
  unfold State.select
  simp only
  split
  · exact s.dropMarks_moves.trans ((State.slotReasons_moves _ _).trans ((State.bootFail_moves _ _ _ _).trans (State.noImage_moves _)))
  · exact s.dropMarks_moves.trans (State.loads_moves _ _ _)

/-! ### The sequencer -/

theorem runStep_moves (k : Nat) (e : BootEnv) (s : State) : s.Moves (runStep k e s).state := by
  unfold runStep
  split
  · exact stepSupply_moves e s
  · exact stepClock_moves e s
  · exact stepFuse_moves e s
  · exact stepSaffron_moves e s
  · exact stepRegions_moves e s
  · exact .same rfl rfl
  · exact stepXspi_moves e s
  · exact stepJournal_moves s
  · exact stepRepair_moves e s
  · split <;> exact .same rfl rfl
  · exact s.select_moves e

theorem State.journalChoice_moves (s : State) : s.Moves s.journalChoice := .same rfl rfl

theorem State.journalGivenUp_moves (s : State) : s.Moves s.journalGivenUp := by
  unfold State.journalGivenUp
  split
  · exact .same rfl rfl
  · exact ((s.putChip_moves _).trans (State.logScan_moves _)).trans (State.journalChoice_moves _)

theorem giveUp_moves (k reason : Nat) (s : State) : s.Moves (giveUp k reason s).2 := by
  unfold giveUp
  split
  · exact s.standAside_moves _
  · exact s.standAside_moves _
  · exact s.standAside_moves _
  · exact s.putChip_moves _
  · exact s.journalGivenUp_moves
  · exact s.noImage_moves
  · exact .same rfl rfl

theorem bootRun_moves (e : BootEnv) (n k : Nat) (s : State) : s.Moves (bootRun e n k s) := by
  induction n generalizing k s with
  | zero => exact .same rfl rfl
  | succ n ih =>
    have fail : ∀ (t : State) (r : Nat), s.Moves t → s.Moves (let u := t.bootFail k r 0
        if u.inUse k < maxLevel k then bootRun e n k (u.levelUp k)
        else if k = 7 then bootRun e n 8 { u with chip := u.chip.portsSettle e 2 }
        else
          let (go, v) := giveUp k r u
          if go then bootRun e n (k + 1) v else v) := by
      intro t r ht
      have h1 := ht.trans (t.bootFail_moves k r 0)
      simp only
      split
      · exact (h1.trans (State.levelUp_moves _ _)).trans (ih _ _)
      · split
        · exact (h1.withChip _).trans (ih _ _)
        · have h2 := h1.trans (giveUp_moves k r _)
          split
          · exact h2.trans (ih _ _)
          · exact h2
    have after : ∀ t : State, s.Moves t → s.Moves (match runStep k e t with
        | .done s => bootRun e n (k + 1) s
        | .over s => s
        | .failed s reason =>
          let s := s.bootFail k reason 0
          if s.inUse k < maxLevel k then bootRun e n k (s.levelUp k)
          else if k = 7 then bootRun e n 8 { s with chip := s.chip.portsSettle e 2 }
          else
            let (go, s) := giveUp k reason s
            if go then bootRun e n (k + 1) s else s) := by
      intro t ht
      have h := ht.trans (runStep_moves k e t)
      split
      · next hd => rw [hd] at h; exact h.trans (ih _ _)
      · next hd => rw [hd] at h; exact h
      · next hd => rw [hd] at h; exact fail _ _ h
    have start : ∀ f : BootRec → BootRec, s.Moves (if k = 9 then (s.updBoot f).logPut 9 1 0 0 else s.updBoot f) := by
      intro f
      split
      · exact (s.updBoot_moves f).trans (State.logPut_moves _ _ _ _ _)
      · exact s.updBoot_moves f
    unfold bootRun
    simp only
    split
    · exact start _
    · exact after _ (start _)

theorem State.interrupted_moves (s : State) : s.Moves s.interrupted := by
  unfold State.interrupted
  simp only
  split
  · exact .same rfl rfl
  · split
    · exact s.cutLoad_moves
    · split
      · exact (s.bootFail_moves _ _ _).trans (State.levelUp_moves _ _)
      · exact s.bootFail_moves _ _ _

theorem State.attempt_moves (s : State) (cause : Nat) (e : BootEnv) : s.Moves (s.attempt cause e) := by
  have key : ∀ f g h : BootRec → BootRec, s.Moves (bootRun e 64 1 (((s.updBoot f).updBoot g).interrupted.updBoot h)) :=
    fun f g h => ((((s.updBoot_moves f).trans (State.updBoot_moves _ g)).trans (State.interrupted_moves _)).trans
      (State.updBoot_moves _ h)).trans (bootRun_moves _ _ _ _)
  exact key _ _ _

theorem State.restart_moves (s : State) (cause : Nat) (tb : Bool) (e : BootEnv) : s.Moves (s.restart cause tb e) := by
  have key : ∀ (t : State) (f g : BootRec → BootRec) (b : Bool), s.Moves t →
      s.Moves (if b then ((t.updBoot f).interrupted.updBoot g).standAside 0 else t.attempt cause e) := by
    intro t f g b ht
    split
    · exact (((ht.trans (t.updBoot_moves f)).trans (State.interrupted_moves _)).trans (State.updBoot_moves _ g)).trans
        (State.standAside_moves _ _)
    · exact ht.trans (t.attempt_moves cause e)
  have fault : ∀ (g : Chip → Chip), s.Moves (if cause = 4 then { s.resetNow tb with chip := g (s.resetNow tb).chip } else s.resetNow tb) := by
    intro g
    split
    · exact (s.resetNow_moves tb).withChip _
    · exact s.resetNow_moves tb
  unfold State.restart
  simp only
  exact key _ _ _ _ (fault fun c => c.setFld CHIP_FAULT_CODE s.chip.boot.chip)

/-! ### Commands of BOOT_CTL, loads at run time and supplies -/

theorem State.loadAtRun_moves (s : State) (slot : Nat) : s.Moves (s.loadAtRun slot) := (s.loadBegin_moves slot).withChip _

theorem State.bootCtl_moves (s : State) (v : Word) (e : BootEnv) : s.Moves (s.bootCtl v e).2 := by
  have clr : ∀ b : Bool, s.Moves (if b then s.clrHist else s) := by
    intro b; split
    · exact s.updBoot_moves _
    · exact .same rfl rfl
  unfold State.bootCtl
  split
  · exact s.putChip_moves _
  · split
    · exact s.restart_moves _ _ _
    · have rest : ∀ t : State, s.Moves t → s.Moves (if v.getLsbD 1 then (false, bootRun e 64 0x0B t)
          else if v.getLsbD 2 then
            (false, if t.chip.boot.step = 0x0A then t.loads e [fieldOf v 8 2] else t.loadAtRun (fieldOf v 8 2))
          else (false, t)).2 := by
        intro t ht
        split
        · exact ht.trans (bootRun_moves _ _ _ _)
        · split
          · simp only
            split
            · exact ht.trans (State.loads_moves _ _ _)
            · exact ht.trans (State.loadAtRun_moves _ _)
          · exact ht
      exact rest _ (clr _)

theorem State.hostBootCtl_moves (s : State) (v : Word) (e : BootEnv) : s.Moves (s.hostBootCtl v e) := by
  have h := s.bootCtl_moves v e
  unfold State.hostBootCtl
  simp only
  split
  · exact h.withChip _
  · exact h

theorem State.eraseContent_moves (s : State) : s.Moves s.eraseContent := .withMem _ (.single (.clear _ _))

theorem State.flashFree_moves (s : State) (slot : Nat) : s.Moves (s.flashFree slot) := by
  unfold State.flashFree
  extract_lets x
  split
  · exact s.xsDone_moves _ _
  · exact .same rfl rfl

theorem State.runtimeLoadEnd_moves (s : State) : s.Moves s.runtimeLoadEnd := by
  unfold State.runtimeLoadEnd
  split
  · split
    · exact ((((s.flashFree_moves _).trans (State.eraseContent_moves _)).trans (State.loadRun_moves _ _)).trans
        (State.stepTakes_moves _)).withChip _
    · exact .same rfl rfl
  · exact .same rfl rfl

theorem State.loadCut_moves (s : State) (e : BootEnv) : s.Moves (s.loadCut e) := by
  unfold State.loadCut
  split
  · split
    · exact ((s.eraseContent_moves.trans (State.loadFail_moves _ _ _ _)).trans (State.stepTakes_moves _)).withChip _
    · split
      · exact (s.loadFail_moves _ _ _).trans (State.loads_moves _ _ _)
      · exact .same rfl rfl
  · exact .same rfl rfl

theorem State.bootTimeout_moves (s : State) (e : BootEnv) : s.Moves (s.bootTimeout e) := by
  unfold State.bootTimeout
  split
  · exact .same rfl rfl
  · exact s.loadCut_moves e
  · next k _ _ =>
    have h := s.bootFail_moves k (timeoutReason k) 0
    simp only
    split
    · exact (h.trans (State.levelUp_moves _ _)).trans (bootRun_moves _ _ _ _)
    · split
      · exact h.trans (bootRun_moves _ _ _ _)
      · split
        · exact (h.withChip _).trans (bootRun_moves _ _ _ _)
        · have h2 := h.trans (giveUp_moves k (timeoutReason k) _)
          split
          · exact h2.trans (bootRun_moves _ _ _ _)
          · exact h2

theorem State.portBRevoke_moves (s : State) (r master : Nat) : s.Moves (s.portBRevoke r master) := by
  unfold State.portBRevoke
  simp only
  split
  · split
    · exact (s.putChip_moves _).trans (State.loadCut_moves _ _)
    · exact .same rfl rfl
  · exact s.putChip_moves _
  · split
    · exact s.putChip_moves _
    · exact .same rfl rfl
  · split
    · exact s.putChip_moves _
    · exact .same rfl rfl

theorem State.vinLoss_moves (s : State) : s.Moves s.vinLoss := (s.resetNow_moves false).trans (.withMem _ (.single (.clear _ _)))

theorem State.vinRising_moves (s : State) : s.Moves s.vinRising := by
  unfold State.vinRising; split <;> exact .same rfl rfl

theorem State.brownOut_moves (s : State) (e : BootEnv) : s.Moves (s.brownOut e) := by
  unfold State.brownOut
  split
  · exact .same rfl rfl
  · exact s.restart_moves _ _ _

theorem State.pinReset_moves (s : State) (e : BootEnv) : s.Moves (s.pinReset e) := by
  unfold State.pinReset
  split
  · exact .same rfl rfl
  · simp only
    split
    · exact (s.updBoot_moves _).trans (State.restart_moves _ _ _ _)
    · exact s.restart_moves _ _ _

theorem State.bkcReturn_moves (s : State) (e : BootEnv) : s.Moves (s.bkcReturn e) := by
  unfold State.bkcReturn
  split
  · exact (s.updBoot_moves _).trans (State.restart_moves _ _ _ _)
  · exact .same rfl rfl

theorem State.buckFault_moves (s : State) (k : Nat) : s.Moves (s.buckFault k) := by
  unfold State.buckFault
  split
  · exact (s.resetNow_moves false).withChip _
  · split
    · exact s.putChip_moves _
    · split
      · exact (s.regionOut_moves _).trans (State.updBoot_moves _ _)
      · exact .same rfl rfl

theorem State.faultReset_moves (s : State) (logic : Bool) (e : BootEnv) : s.Moves (s.faultReset logic e) := by
  unfold State.faultReset
  split
  · exact (s.putChip_moves _).trans (State.restart_moves _ _ _ _)
  · split
    · exact s.restart_moves _ _ _
    · exact .same rfl rfl

theorem State.tempMeasure_moves (s : State) (t : Int) : s.Moves (s.tempMeasure t) := by
  unfold State.tempMeasure
  simp only
  split
  · exact (s.putChip_moves _).trans (State.standAside_moves _ _)
  · exact s.putChip_moves _

/-! ### The store and debug -/

theorem State.safDone_moves (s : State) (ok : Bool) : s.Moves (s.safDone ok) := by
  have put : ∀ (t : State) (f : Saffron → Saffron) (op slot : Nat) (w : List Word),
      t.Moves { t.updSaf f with nv := (t.updSaf f).nv.safApply op slot w } :=
    fun t f op slot w => .withNv _ (.single (.saffron ..))
  have keys : ∀ b : Bool, s.Moves (if b then s.updBoot fun t => { t with keys := some s.store } else s) := by
    intro b
    cases b <;> exact .same rfl rfl
  unfold State.safDone
  split
  · exact .same rfl rfl
  · simp only
    split
    · exact (keys _).trans (put _ _ _ _ _)
    · exact ((keys _).trans (State.updSaf_moves _ _)).trans (State.tamperSet_moves _)

theorem State.safCmd_moves (s : State) (v : Word) : s.Moves (s.safCmd v).2 := by
  unfold State.safCmd
  simp only
  split
  · exact .same rfl rfl
  · split
    · exact ((s.safDone_moves true).trans (State.updSaf_moves _ _)).withChip _
    · exact (s.safDone_moves true).trans (State.updSaf_moves _ _)

theorem State.hostSafCmd_moves (s : State) (op slot : Nat) (key : BitVec 16) : s.Moves (s.hostSafCmd op slot key) := by
  have h := s.safCmd_moves (BitVec.ofNat 32 (at_ 16 key.toNat + at_ 4 slot + op))
  unfold State.hostSafCmd
  simp only
  split
  · exact h.withChip _
  · exact h

theorem State.dbgVerify_moves (s : State) : s.Moves s.dbgVerify := by
  unfold State.dbgVerify
  split
  · have put : ∀ (c : Chip) (f : Saffron → Saffron), s.Moves (State.updSaf { s with chip := c } f) := fun c f => .same rfl rfl
    simp only
    split
    · exact (put _ _).trans (State.tamperSet_moves _)
    · exact put _ _
  · exact (s.updSaf_moves _).withChip _

theorem foldl_moves {α : Type} (f : State → α → State) (hf : ∀ (s : State) (x : α), s.Moves (f s x)) (l : List α) (s : State) :
    s.Moves (l.foldl f s) := by
  induction l generalizing s with
  | nil => exact .same rfl rfl
  | cons x l ih => exact (hf s x).trans (ih _)

theorem State.wbufsLand_moves (s : State) : s.Moves s.wbufsLand := foldl_moves _ (fun s r => s.wbufDrain_moves r 32) _ s

/-- Everything cleared and the keys burnt. -/
theorem State.burnt_moves (s : State) (c : Chip) :
    s.Moves { s with chip := c, mem := {}, nv := s.nv.burnKeys s.chip.ctr } :=
  State.Moves.trans (t := { s with mem := {} }) (.withMem _ (.single (.clear _ _))) (.withNv _ (.single (.burn ..)))

theorem State.unlockDone_moves (s : State) : s.Moves s.unlockDone := by
  unfold State.unlockDone
  split
  · refine State.Moves.trans ?_ (State.stepTakes_moves _)
    exact s.wbufsLand_moves.trans (State.burnt_moves _ _)
  · exact .same rfl rfl

theorem State.dbgCtl_moves (s : State) (v : Word) : s.Moves (s.dbgCtl v) := by
  unfold State.dbgCtl
  simp only
  split
  · exact (s.putChip_moves _).trans (State.dbgVerify_moves _)
  · exact s.putChip_moves _

theorem State.secWrite_moves (s : State) (a : Nat) (v : Word) : s.Moves (s.secWrite a v).2 := by
  unfold State.secWrite
  split
  · exact s.safCmd_moves v
  · split
    · exact s.updSaf_moves _
    · split
      · exact s.dbgCtl_moves v
      · split
        · exact s.updSaf_moves _
        · split
          · exact s.putChip_moves _
          · exact s.putChip_moves _

end Sys2Proof.Machine
end

