-- ==== Sys2Proof/Laws/StoreStep.lean ====
section
/-! SUPPORT. The moves of banks, flash and store by what masters access (R641 to R643), by the host port's transactions, and so by
any command that a wrapper runs. -/

namespace Sys2Proof.Machine

/-! ### The bus -/

theorem State.fenceWord_moves (s : State) (r : Nat) : s.Moves (s.fenceWord r).2 := (s.wbufDrain_moves r _).withChip _

theorem State.bankWrite_moves (s : State) (a : Nat) (v : Word) : s.Moves (s.bankWrite a v) := by
  unfold State.bankWrite
  simp only
  split
  · exact (s.wbufDrain_moves _ _).withChip _
  · exact s.putChip_moves _

theorem State.portBRead_moves (s : State) (a : Nat) : s.Moves (s.portBRead a).2 := by
  unfold State.portBRead
  simp only
  split
  · exact s.putChip_moves _
  · split <;> exact s.putChip_moves _

theorem State.windowServe_moves (s : State) (x a : Nat) : s.Moves (s.windowServe x a).2 := by
  have h : s.Moves (if s.chip.is (XS_STAT_FBUSY x) then s.xsDone x (Config.freeBool s.chip.ctr 802001) else s) := by
    split
    · exact s.xsDone_moves x _
    · exact .same rfl rfl
  unfold State.windowServe
  generalize (if s.chip.is (XS_STAT_FBUSY x) then s.xsDone x (Config.freeBool s.chip.ctr 802001) else s) = u at h ⊢
  simp only
  split
  · exact h
  · exact h.withChip _

theorem State.busRead_moves (s : State) (m : Master) (a : Nat) : s.Moves (s.busRead m a).2.2 := by
  unfold State.busRead
  split
  · split
    · exact .same rfl rfl
    · exact s.putChip_moves _
  · exact .same rfl rfl
  · split
    · exact s.fenceWord_moves _
    · exact s.putChip_moves _
  · exact .same rfl rfl
  · split
    · exact s.putChip_moves _
    · split
      · exact .same rfl rfl
      · exact s.portBRead_moves a
  · exact s.windowServe_moves _ _
  · exact .same rfl rfl

theorem State.busWrite_moves (s : State) (m : Master) (a : Nat) (v : Word) : s.Moves (s.busWrite m a v).2 := by
  unfold State.busWrite
  split
  · split
    · exact s.secWrite_moves a v
    · split
      · exact s.bootCtl_moves v _
      · exact s.putChip_moves _
  · exact .same rfl rfl
  · exact s.putChip_moves _
  · exact s.putChip_moves _
  · split
    · exact s.putChip_moves _
    · exact s.bankWrite_moves a v
  · exact s.putChip_moves _
  · exact .same rfl rfl

theorem State.tick_moves (s : State) : s.Moves s.tick := .same rfl rfl

theorem State.masterWrite_moves (s : State) (dma : Bool) (a : Nat) (v : Word) : s.Moves (s.masterWrite dma a v) := by
  have h := s.busWrite_moves (if dma then .dma else .host) a v
  unfold State.masterWrite
  split
  · split
    · exact .same rfl rfl
    · exact s.putChip_moves _
  · simp only
    generalize (if dma then Master.dma else Master.host) = m at h ⊢
    split
    · exact h
    · split
      · exact h.withChip _
      · split
        · exact h.withChip _
        · exact h

theorem State.dmaReads_moves (s : State) (l : List (Nat × Nat)) : s.Moves (s.dmaReads l).2.2 := by
  induction l generalizing s with
  | nil => exact .same rfl rfl
  | cons p r ih => exact ((s.busRead_moves .dma p.1).trans (State.tick_moves _)).trans (ih _)

theorem State.dmaWrites_moves (s : State) (n : Nat) (up bad : Bool) (same : Word) (l : List (Nat × Word)) :
    s.Moves (s.dmaWrites n up bad same l) := by
  induction l generalizing s bad with
  | nil =>
    unfold State.dmaWrites
    split
    · exact s.putChip_moves _
    · exact .same rfl rfl
  | cons p r ih =>
    have h := s.busWrite_moves .dma p.1 (keepSame p.1 p.2 same)
    unfold State.dmaWrites
    simp only
    split
    · exact h
    · exact ((h.withChip _).trans (State.tick_moves _)).trans (ih _ _)

theorem State.dmaServe_moves (s : State) (same : Word) : s.Moves (s.dmaServe same) := by
  unfold State.dmaServe
  split
  · exact ((s.putChip_moves _).trans (State.dmaReads_moves _ _)).trans (State.dmaWrites_moves _ _ _ _ _ _)
  · exact .same rfl rfl

/-! ### The host port -/

theorem State.txnStart_moves (s : State) : s.Moves s.txnStart := .same rfl rfl

theorem State.txnBegin_moves (s : State) : s.Moves s.txnBegin := .same rfl rfl

theorem State.txnErr_moves (s : State) (txn why : Nat) (counted : Bool) : s.Moves (s.txnErr txn why counted) := by
  unfold State.txnErr; split <;> exact .same rfl rfl

theorem State.nowErr_moves (s : State) (why : Nat) (counted : Bool) : s.Moves (s.nowErr why counted) := s.txnErr_moves _ _ _

theorem State.landPosted_moves (s : State) (same : Word) : s.Moves (s.landPosted same) := by
  unfold State.landPosted
  split
  · exact .same rfl rfl
  · next p rest _ =>
    split
    · exact .same rfl rfl
    · have h : ∀ t : State, s.Moves t → s.Moves (let (bad, u) := t.busWrite .host p.addr.toNat (keepSame p.addr.toNat p.value same)
          if bad then u.txnErr p.txn 4 p.counted else u) := by
        intro t ht
        have h2 := ht.trans (t.busWrite_moves .host p.addr.toNat (keepSame p.addr.toNat p.value same))
        simp only
        split
        · exact h2.trans (State.txnErr_moves _ _ _ _)
        · exact h2
      exact h _ (s.updHost_moves _)

theorem State.postRoom_moves (s : State) : s.Moves s.postRoom := by
  unfold State.postRoom
  split
  · split
    · exact (s.landPosted_moves 0).trans (State.tick_moves _)
    · exact .same rfl rfl
  · exact .same rfl rfl

theorem State.post_moves (s : State) (a step : Nat) (l : List Word) : s.Moves (s.post a step l).2 := by
  induction l generalizing s a with
  | nil => exact .same rfl rfl
  | cons v r ih =>
    unfold State.post
    simp only
    split
    · exact s.postRoom_moves
    · split
      · exact s.postRoom_moves
      · exact (s.postRoom_moves.trans (State.updHost_moves _ _)).trans (ih _ _)

theorem State.drainPosted_moves (s : State) (n : Nat) : s.Moves (s.drainPosted n) := by
  induction n generalizing s with
  | zero => exact .same rfl rfl
  | succ n ih =>
    have rest : ∀ t : State, s.Moves t → s.Moves ((t.landPosted 0).tick.drainPosted n) :=
      fun t ht => ((ht.trans (t.landPosted_moves 0)).trans (State.tick_moves _)).trans (ih _)
    unfold State.drainPosted
    split
    · exact .same rfl rfl
    · simp only
      split
      · exact rest _ (s.wbufDrain_moves _ _)
      · exact rest _ (.same rfl rfl)

theorem State.heldWrites_moves (s : State) (a step : Nat) (counted : Bool) (l : List Word) :
    s.Moves (s.heldWrites a step counted l) := by
  induction l generalizing s a counted with
  | nil => exact .same rfl rfl
  | cons v r ih =>
    unfold State.heldWrites
    simp only
    split
    · exact (s.nowErr_moves _ _).trans (ih _ _ _)
    · exact (s.putChip_moves _).trans (ih _ _ _)

theorem State.hostWrite_moves (s : State) (a step : Nat) (l : List Word) (cut : Bool) : s.Moves (s.hostWrite a step l cut) := by
  have err : ∀ (t : State) (b : Bool) (x : State → Bool), s.Moves t → s.Moves (if b then t.nowErr 3 (x t) else t) := by
    intro t b x ht
    split
    · exact ht.trans (t.nowErr_moves _ _)
    · exact ht
  unfold State.hostWrite
  simp only
  split
  · exact err _ _ (fun _ => true) (s.txnStart_moves.trans (State.nowErr_moves _ _ _))
  · split
    · exact err _ _ (fun t => t.chip.host.err) (s.txnStart_moves.trans (State.heldWrites_moves _ _ _ _ _))
    · have h := s.txnStart_moves.trans (State.post_moves s.txnStart a step l)
      refine err _ _ (fun _ => !(State.post s.txnStart a step l).1) ?_
      split
      · exact h
      · exact h.trans (State.nowErr_moves _ _ _)

theorem State.hostReadWord_moves (s : State) (a : Nat) : s.Moves (s.hostReadWord a).2.2 := by
  unfold State.hostReadWord
  split
  · exact .same rfl rfl
  · exact s.busRead_moves .host a

theorem State.hostReads_moves (s : State) (a step n : Nat) : s.Moves (s.hostReads a step n).2.2 := by
  induction n generalizing s a with
  | zero => exact .same rfl rfl
  | succ n ih => exact ((s.hostReadWord_moves a).trans (State.tick_moves _)).trans (ih _ _)

theorem State.hostRead_moves (s : State) (a step count : Nat) (cut : Bool) : s.Moves (s.hostRead a step count cut) := by
  unfold State.hostRead
  simp only
  split
  · exact (s.txnStart_moves.trans (State.nowErr_moves _ _ _)).trans (State.updHost_moves _ _)
  · have start : s.Moves (if s.txnStart.chip.hostHeld then s.txnStart else s.txnStart.drainPosted s.txnStart.chip.host.queue.length) := by
      split
      · exact s.txnStart_moves
      · exact s.txnStart_moves.trans (State.drainPosted_moves _ _)
    have reads := fun n => start.trans (State.hostReads_moves _ a step n)
    have err : ∀ (t : State) (b c : Bool) (d : Prop) [Decidable d], s.Moves t →
        s.Moves (if d then (if b then t.nowErr 4 false else t).nowErr 5 c else if b then t.nowErr 4 false else t) := by
      intro t b c d _ ht
      have h : s.Moves (if b then t.nowErr 4 false else t) := by
        split
        · exact ht.trans (t.nowErr_moves _ _)
        · exact ht
      split
      · exact h.trans (State.nowErr_moves _ _ _)
      · exact h
    exact (err _ _ _ _ (reads _)).trans (State.updHost_moves _ _)

theorem State.hostFrames_same (s : State) (lane : Nat) (ump cut later : Bool) (n : Nat) (l : List Word) :
    (s.hostFrames lane ump cut later n l).mem = s.mem ∧ (s.hostFrames lane ump cut later n l).nv = s.nv := by
  have e : ∀ (t : State) (w : Nat) (b : Bool), (t.nowErr w b).mem = t.mem ∧ (t.nowErr w b).nv = t.nv := by
    intro t w b; unfold State.nowErr State.txnErr; split <;> exact ⟨rfl, rfl⟩
  induction n generalizing s later l with
  | zero => exact ⟨rfl, rfl⟩
  | succ n ih =>
    unfold State.hostFrames
    simp only
    split
    · split
      · exact e _ _ _
      · exact ⟨rfl, rfl⟩
    · generalize (if ump then umpLen (l.getD 0 0) else frameLen lane l) = len
      split
      · exact e _ _ _
      · exact ih _ _ _

/-- An event transaction leaves the memories alone (R515). -/
theorem State.hostEvents_same (s : State) (lane : Nat) (sel : Word) (words : List Word) (cut : Bool) :
    (s.hostEvents lane sel words cut).mem = s.mem ∧ (s.hostEvents lane sel words cut).nv = s.nv := by
  have e : ∀ (t : State) (w : Nat) (b : Bool), (t.nowErr w b).mem = t.mem ∧ (t.nowErr w b).nv = t.nv := by
    intro t w b; unfold State.nowErr State.txnErr; split <;> exact ⟨rfl, rfl⟩
  unfold State.hostEvents
  simp only
  split
  · exact e _ _ _
  · split
    · exact State.hostFrames_same _ _ _ _ _ _ _
    · split
      · exact State.hostFrames_same _ _ _ _ _ _ _
      · exact e _ _ _

theorem State.hostNop_same (s : State) (cut : Bool) : (s.hostNop cut).mem = s.mem ∧ (s.hostNop cut).nv = s.nv := by
  have b : ∀ t : State, t.mem = s.mem → t.nv = s.nv →
      (if t.chip.hostHeld then t.nowErr 4 false else t).mem = s.mem ∧ (if t.chip.hostHeld then t.nowErr 4 false else t).nv = s.nv := by
    intro t hm hn
    split
    · exact ⟨hm, hn⟩
    · exact ⟨hm, hn⟩
  unfold State.hostNop
  cases cut
  · exact b s.txnStart rfl rfl
  · exact b s.txnBegin rfl rfl

theorem State.widthReset_same (s : State) : s.widthReset.mem = s.mem ∧ s.widthReset.nv = s.nv := by
  unfold State.widthReset State.nowErr State.txnErr; simp only; split <;> exact ⟨rfl, rfl⟩

theorem State.unknownCommand_same (s : State) (cmd : Nat) :
    (s.unknownCommand cmd).mem = s.mem ∧ (s.unknownCommand cmd).nv = s.nv := by
  have e : ∀ (t : State) (w : Nat) (b : Bool), (t.nowErr w b).mem = t.mem ∧ (t.nowErr w b).nv = t.nv := by
    intro t w b; unfold State.nowErr State.txnErr; split <;> exact ⟨rfl, rfl⟩
  unfold State.unknownCommand
  split
  · exact ⟨rfl, rfl⟩
  · simp only
    refine ⟨(e _ _ _).1.trans ?_, (e _ _ _).2.trans ?_⟩ <;> split <;> rfl

theorem State.dbgAccess_moves (s : State) (shift : BitVec 66) (same : Word) : s.Moves (s.dbgAccess shift same) := by
  unfold State.dbgAccess
  simp only
  split
  · exact s.putChip_moves _
  · split
    · exact s.putChip_moves _
    · split
      · exact (s.busWrite_moves _ _ _).withChip _
      · exact (s.busRead_moves _ _).withChip _

/-! ### Meanings -/

theorem actIf_moves {ok : Chip → Bool} {f : Chip → Chip} {s t : State} (h : actIf ok f s = .next t) : s.Moves t := by
  obtain ⟨hm, hn, _⟩ := actIf_store h
  exact .same hm hn

theorem act_moves {f : Chip → Chip} {s t : State} (h : act f s = .next t) : s.Moves t := actIf_moves h

theorem actTap_moves {f : Tap → Tap} {s t : State} (h : actTap f s = .next t) : s.Moves t := actIf_moves h

theorem actFree_moves {f : Chip → Chip} {s t : State} (h : actFree f s = .next t) : s.Moves t := by
  obtain ⟨hm, hn, _⟩ := actFree_store h
  exact .same hm hn

theorem actAll_moves {g : State → State} {s t : State} (hg : s.Moves (g s)) (h : actAll g s = .next t) : s.Moves t := by
  unfold actAll at h
  split at h <;> cases h
  · exact hg
  · exact .same rfl rfl

theorem actReset_moves {ok : Chip → Bool} {g : State → State} {s t : State} (hg : s.Moves (g s))
    (h : actReset ok g s = .next t) : s.Moves t := by
  unfold actReset at h
  split at h <;> cases h
  · exact hg
  · exact .same rfl rfl

end Sys2Proof.Machine
end

