-- ==== Sys2Proof/WellFormed.lean ====
section
/-! DEFINITION. Which commands stand for the row of the table they name: operands that the row's own rule ties to it. The
meanings take every command; one that is not well formed acts as its meaning says. -/

namespace Sys2Proof

/-- A field of a word. -/
def wordField (w : Word) (lo n : Nat) : Nat := w.toNat / 2 ^ lo % 2 ^ n

/-- A frame of an operation (R262): W0 carries its OP. -/
def opIs (w0 : Word) (op : Nat) : Bool := decide (wordField w0 28 4 = op)

/-- The words of a UMP packet by its message type (R516). -/
def umpWords (w0 : Word) : Nat :=
  match wordField w0 28 4 with
  | 0x3 | 0x4 | 0x8 | 0x9 | 0xA => 2
  | 0xB | 0xC => 3
  | 0x5 | 0xD | 0xE | 0xF => 4
  | _ => 1

/-- The codes of the TAP that R581 lists beside BYPASS. -/
def tapCodes : List (BitVec 5) := [0x00, 0x01, 0x02, 0x04, 0x05, 0x10]

/-- The command bytes that R507 lists. -/
def portCommands : List Byte := [0x00, 0x02, 0x12, 0x0B, 0x1B, 0x20, 0x21, 0x22, 0xFF]

/-- Is a command well formed? -/
def Instr.wf (i : Instr) : Bool :=
  match i with
  | .frameNop w0 _ _ => opIs w0 0
  | .noteOn w0 _ _ => opIs w0 2
  | .noteOff w0 _ _ => opIs w0 1
  | .noteCtl w0 _ _ => opIs w0 3
  | .partWord w0 _ _ => opIs w0 4
  | .voiceWord w0 _ _ => opIs w0 5
  | .bulk w0 _ w2 data => opIs w0 6 && decide (data.length = wordField w2 24 8 + 1)
  | .cancel w0 _ _ => opIs w0 7
  | .allOff w0 _ _ => opIs w0 8
  | .allSoundOff w0 _ _ => opIs w0 9
  | .sustain w0 _ _ => opIs w0 10
  | .umpPacket _ ws => decide (ws.length = umpWords (ws.getD 0 0))
  | .hostFrameAccept _ _ _ ws => decide (ws ≠ [])
  | .emodeWrite m => decide (m ≠ 3)
  | .blkLoadRequest _ _ v => v.getLsbD 4
  | .saFrame _ ws _ => decide (ws.length ≤ 16)
  | .softwareReset v _ => v.getLsbD 0
  | .bootCont v _ => v.getLsbD 1
  | .bootLoad v _ => v.getLsbD 2
  | .clrhist v => v.getLsbD 4
  | .bypass code => decide (code ∉ tapCodes)
  | .unknownCommand cmd => decide (cmd ∉ portCommands)
  | _ => true

end Sys2Proof
end

