-- ==== Sys2Proof/Tests/Slice0.lean ====
section
/-! SUPPORT. Tests: ill-formed commands that the check refuses, words that decode as the spec lays them out, and for each statement
concrete states and operands that meet its premises. -/

namespace Sys2Proof.Tests

set_option Elab.async false

open Sys2Proof Sys2Proof.Machine

/-! ### Well-formedness: one ill-formed command for each check -/

/-- A frame whose first word carries another operation than its row (R262, R263). -/
theorem test_wf_frames :
    (Instr.frameNop 0x10000000 0 0).wf = false ∧ (Instr.noteOn 0x10000000 0 0).wf = false ∧
    (Instr.noteOff 0x20000000 0 0).wf = false ∧ (Instr.noteCtl 0x40000000 0 0).wf = false ∧
    (Instr.partWord 0x50000000 0 0).wf = false ∧ (Instr.voiceWord 0x40000000 0 0).wf = false ∧
    (Instr.cancel 0x80000000 0 0).wf = false ∧ (Instr.allOff 0x90000000 0 0).wf = false ∧
    (Instr.allSoundOff 0x80000000 0 0).wf = false ∧ (Instr.sustain 0xB0000000 0 0).wf = false := by decide

/-- A BULK with another operation, and one with fewer words than it names (R265). -/
theorem test_wf_bulk :
    (Instr.bulk 0x70000000 0 0 [1]).wf = false ∧ (Instr.bulk 0x60000000 0 0x02000000 [1, 2]).wf = false ∧
    (Instr.bulk 0x60000000 0 0x02000000 [1, 2, 3]).wf = true := by decide

/-- A UMP packet of message type 4 has two words (R516); an empty frame is none. -/
theorem test_wf_packets :
    (Instr.umpPacket 0 [0x40903C00]).wf = false ∧ (Instr.umpPacket 0 [0x40903C00, 0xFFFF0000]).wf = true ∧
    (Instr.hostFrameAccept 0 false false []).wf = false := by decide

/-- A write of another value than the row's (R28, R110, R545), a frame of more than 16 slots (R416), a code of another TAP
instruction (R581) and a listed command byte (R507). -/
theorem test_wf_others :
    (Instr.emodeWrite 3).wf = false ∧ (Instr.blkLoadRequest 0 0 0x0F).wf = false ∧
    (Instr.saFrame 0 (List.replicate 17 0) default).wf = false ∧ (Instr.softwareReset 0xB0070000 default).wf = false ∧
    (Instr.bootCont 0xB0070001 default).wf = false ∧ (Instr.bootLoad 0xB0070002 default).wf = false ∧
    (Instr.clrhist 0xB0070000).wf = false ∧ (Instr.bypass 0x10).wf = false ∧ (Instr.unknownCommand 0x1B).wf = false := by decide

/-- A well-formed command of each of these rows. -/
theorem test_wf_accepts :
    (Instr.noteOn 0x20000000 0 0).wf = true ∧ (Instr.emodeWrite 2).wf = true ∧ (Instr.blkLoadRequest 0 0 0x10).wf = true ∧
    (Instr.softwareReset 0xB0070001 default).wf = true ∧ (Instr.bypass 0x1F).wf = true ∧
    (Instr.unknownCommand 0x99).wf = true := by decide

/-! ### Decoding -/

/-- The table gives its rows no bits, so no word spells a command. -/
theorem test_table_words : decodeTableWord 32 0x01000000 = none ∧ decodeTableWord 0 0 = none := by decide

/-- MAC words by format, written out from R203 to R228. -/
theorem test_mac_control_words :
    decodeMac 0x00000000 = .nop ∧ decodeMac 0x01000000 = .endPass ∧ decodeMac 0x02000005 = .bra 5 ∧
    decodeMac 0x03100005 = .bcc 1 5 ∧ decodeMac 0x04000609 = .doLoop 3 9 ∧ decodeMac 0x05000004 = .rep 4 := by decide

/-- LDI, MOVE and the arithmetic formats. -/
theorem test_mac_data_words :
    decodeMac 0x22123456 = .ldi 1 0x123456 ∧ decodeMac 0x61080000 = .move 2 4 ∧
    decodeMac 0x84000000 = .arith .mpy 0 0 0 ∧ decodeMac 0xD2011000 = .arith .tap 1 0 0x011000 ∧
    decodeMac 0xD8000000 = .illegal 0xD8000000 := by decide

/-! ### States to test on -/

/-- The state after reset with its device changed. -/
def dev (f : Chip → Chip) : State := { State.reset with chip := f State.reset.chip }

/-- The engine runs, at sample 100. -/
def runs (c : Chip) : Chip :=
  { (c.clr CLK_STAT_STOPPED).clr CLK_CFG_ESTOP with clk := { c.clk with started := true, smp := 100, tb := 100 } }

/-- Several registers' fields set. -/
def flds (l : List (Field × Nat)) (c : Chip) : Chip := l.foldl (fun c p => c.setFld p.1 p.2) c

/-- A block. -/
def blkIs (k : Nat) (b : Block) (c : Chip) : Chip := c.updBlk k fun _ => b

/-- The standing of the device in Hold (2), on its way to it (1) or out of it (3). -/
def power (n : Nat) (c : Chip) : Chip := c.setFld PWR_STAT_STATE n

/-- A template of one member. -/
def tmpl1 : Template :=
  { id := 0, link := 1, stream := false, tables := [], phase := [0, 255, 255, 255], mac0 := 0, mac1 := 255, contour := 0
    routes := 0, wire := 0, page := [] }

/-- A content with a phase set of one sine operator, one contour generator, one route and a MAC program. -/
def content1 : Content :=
  { tmpl := tmpl1, mac0 := some { closed := false, length := 4, xdata := [], ydata := [] }, mac1 := none
    phase := [[0, 0, 0, 0, 0, 0, 0, 0], [], [], []], contour := [0], routes := [0x20600000], wires := [], pinned := [] }

/-- A running block 0 of region 0 with that content and the program END. -/
def block1 : Block := { st := .running, content := some content1, pm0 := [(0, 0x01000000)] }

/-- A voice of part 1 on key 60, gated. -/
def voice1 : Voice := { part := 1, key := 60, st := .gated, link := 1 }

/-- Slot 0 holds that voice. -/
def slot1 : SlotSt := { role := .member 0 0, voice := some voice1, gate := true, mates := [0], first := 90, part := 1 }

/-- The engine runs with a voice in slot 0 of block 0. -/
def sounding (c : Chip) : Chip := (blkIs 0 block1 (runs c)).setSlot 0 slot1

/-! ### The block as a whole -/

/-- A command waits in front of another; no command waits after reset; VIN may be absent. -/
theorem test_queue_premises :
    State.reset.pending = [] ∧ (dev fun c => { c with pwr := { c.pwr with vin := false } }).chip.pwr.vin = false := by decide

/-- A step on a queue runs its front and leaves its rest. -/
theorem test_step_queue :
    step { State.reset with pending := [.vnegOkRise, .tbload] } = exec .vnegOkRise { State.reset with pending := [.tbload] } := rfl

/-- The memories after reset are in canonical form, and stay so over a step. -/
theorem test_mem_wf_step : State.reset.memWf = true ∧ step State.reset = .next State.reset := ⟨by decide, rfl⟩

/-- A command that leaves the memories alone, and one that may not. -/
theorem test_touches_store : touchesStore .tbload = false ∧ touchesStore (.writeBufferLand 0) = true := by decide

/-! ### Clocks -/

/-- Reset is clocked and stopped; the engine runs; Hold is alive but not clocked. -/
theorem test_clock_premises :
    State.reset.chip.clocked = true ∧ State.reset.chip.stopped = true ∧ (dev runs).chip.clocked = true ∧
    (dev runs).chip.stopped = false ∧ (dev runs).chip.clk.stopAt = none ∧ (dev (power 2)).chip.clocked = false ∧
    (dev (power 2)).chip.alive = true ∧ (dev (power 1)).chip.clocked = true := by decide

/-- A load of TB waits. -/
theorem test_tb_load_premises :
    let s := dev fun c => { c with clk := { c.clk with loadPend := true } }
    s.chip.clocked = true ∧ s.chip.clk.loadPend = true := by decide

/-- A stop's fade of 64 samples at its last sample and past it (R29). -/
theorem test_stop_premises :
    let s := dev fun c => { runs c with clk := { (runs c).clk with stopAt := some 36 } }
    let s' := dev fun c => { runs c with clk := { (runs c).clk with stopAt := some 37 } }
    s.chip.clocked = true ∧ s.chip.clk.stopAt = some 36 ∧ 36 + 64 ≤ s.chip.clk.smp ∧
    s'.chip.clk.stopAt = some 37 ∧ s'.chip.clk.smp < 37 + 64 := by decide

/-- A stop with a block that holds a template, one with a fade under way and one without (R29, R350). -/
theorem test_stop_fades_premises :
    let s := dev fun c => { blkIs 1 block1 (sounding c) with
      cnv := { c.cnv with fades := [(1, some { heldKind := false, start := 90 })] } }
    s.chip.clocked = true ∧ s.chip.stopped = false ∧ s.chip.clk.stopAt = none ∧ (s.chip.blk 0).content.isSome = true ∧
    tabGet s.chip.cnv.fades none 0 = none ∧ tabGet s.chip.cnv.fades none 1 ≠ none ∧ (s.chip.blk 2).content = none := by decide

/-- The engine is stopped after reset, so an EMODE write takes; with the engine running none does (R28). -/
theorem test_emode_premises :
    State.reset.chip.stopped = true ∧ (1 : BitVec 2) ≠ 3 ∧ (dev runs).chip.stopped = false ∧ (dev runs).chip.clocked = true := by
  decide

/-- A frame sync in lock, at its seventh good edge (R36, R37). -/
theorem test_fsync_premises :
    let s := dev fun c => { flds [(CLK_FSYNC_EN, 1), (CLK_STAT_FSLOCK, 1)] c with clk := { c.clk with good := 7 } }
    s.chip.clocked = true ∧ s.chip.is CLK_FSYNC_EN = true ∧ s.chip.is CLK_STAT_FSLOCK = true ∧ 7 ≤ s.chip.clk.good ∧
    ((64 : Word).setWidth 16).toInt.natAbs ≤ 64 ∧ 64 < ((65 : Word).setWidth 16).toInt.natAbs ∧
    256 < ((257 : Word).setWidth 16).toInt.natAbs := by decide

/-- A loss of the EPLL lock records chip fault 0x40 while the engine runs (R26). -/
theorem test_epll_loss :
    (match exec (.pllLockLoss 0) (dev runs) with
     | .next t => t.chip.fld CHIP_FAULT_CODE == 0x40 && t.chip.isPending 4
     | _ => false) = true := by decide

/-! ### Passes -/

/-- The voice's contour and matrix passes run (R85, R90). -/
theorem test_pass_premises :
    (dev sounding).chip.clocked = true ∧ content1.contour ≠ [] ∧ content1.routes ≠ [] ∧
    PassRuns (dev sounding).chip 0 0 0 0 content1 0 100 ∧ PassRuns (dev sounding).chip 0 0 0 1 content1 0 100 := by
  refine ⟨by decide, by decide, by decide, ?_, ?_⟩ <;>
    exact ⟨by decide, by decide, by decide, by decide, by decide, by decide, fun f h => absurd h (by
      have : ((dev sounding).chip.slot 0).ramp = none := by decide
      rw [this]; exact nofun)⟩

/-- So does its phase pass on cell 0, whose set is not empty (R129). -/
theorem test_phase_premises :
    content1.phase.getD 0 [] ≠ [] ∧ PassRuns (dev sounding).chip 0 0 0 2 content1 0 100 :=
  ⟨by decide, by decide, by decide, by decide, by decide, by decide, by decide, fun f h => absurd h (by
    have : ((dev sounding).chip.slot 0).ramp = none := by decide
    rw [this]; exact nofun)⟩

/-- A glaze context in slot 16 of block 0. -/
def glazing (c : Chip) : Chip :=
  (sounding c).setSlot 16 { role := .glaze 0 false, glaze := some { start := 95, n := 100 }, mates := [16] }

/-- Its passes run, on cells 0, 6, 7 and, by the standby cell, 4 (R103). -/
theorem test_glaze_premises :
    (dev glazing).chip.clocked = true ∧ GlazeRuns (dev glazing).chip 0 0 0 content1 0 false ∧ content1.phase.getD 0 [] ≠ [] ∧
    content1.contour ≠ [] ∧ content1.routes ≠ [] ∧ content1.prog 0 = some { closed := false, length := 4, xdata := [], ydata := [] } ∧
    ((dev glazing).chip.macCell ⟨0, 0, 2⟩).running = false ∧ ¬(false = true ∧ 0 ≠ 0) :=
  ⟨by decide, ⟨by decide, by decide, ⟨{ start := 95, n := 100 }, by decide, by decide⟩, by decide⟩, by decide, by decide, by decide,
    by decide, by decide, by decide⟩

/-- MC0's pass of the voice starts: its cell is idle and serves kind 0, and the slot is member 0 (R188). -/
theorem test_mac_pass_premises :
    let s := dev sounding
    content1.prog 0 = some { closed := false, length := 4, xdata := [], ydata := [] } ∧ (s.chip.macCell ⟨0, 0, 0⟩).running = false ∧
    (s.chip.macCell ⟨0, 0, 0⟩).halted = false ∧ (s.chip.macCell ⟨0, 0, 0⟩).fenced = false ∧
    (s.chip.blk (blkKey 0 0)).slotKind 0 = some 0 ∧ PassRuns s.chip 0 0 0 3 content1 0 100 ∧ (s.chip.slot 0).memberNo = 0 :=
  ⟨by decide, by decide, by decide, by decide, by decide, ⟨by decide, by decide, by decide, by decide, by decide, by decide,
    fun f h => absurd h (by
      have : ((dev sounding).chip.slot 0).ramp = none := by decide
      rw [this]; exact nofun)⟩, by decide⟩

/-! ### MAC cells -/

/-- The cell MC0 of block 0 of region 0. -/
def mc0 : MacUnit := ⟨0, 0, 0⟩

/-- MC0 of block 0 as given, with a word at program address 0. -/
def macDev (w : Word) (m : MacCell) : State :=
  dev fun c => blkIs 0 { block1 with pm0 := [(0, w)], cells := [(0, m)] } (sounding c)

/-- A cell whose pass has just begun. -/
def cell0 : MacCell := { running := true, smp := 100, keys := [0] }

/-- A cell ready to issue an instruction whose word stands at address 0. -/
theorem ready (ins : MacIns) (m : MacCell) (hi : macCanIssue m = true) (hp : m.pc = 0) (hb : m.badI = []) (hk : m.kind = 0)
    (h : decodeMac (encodeMac ins) = ins) : MacReady (macDev (encodeMac ins) m).chip mc0 content1 ins := by
  have hb0 : (macDev (encodeMac ins) m).chip.blk (blkKey mc0.r mc0.b) =
      { block1 with pm0 := [(0, encodeMac ins)], cells := [(0, m)] } := rfl
  have hc : (macDev (encodeMac ins) m).chip.macCell mc0 = m := rfl
  refine ⟨by rw [hb0]; rfl, by rw [hc]; exact hi, ?_, by rw [hc, hb]; exact List.not_mem_nil⟩
  rw [hb0, hc]
  unfold Block.fetch
  rw [hk, hp]
  exact h

/-- Every arithmetic operation of R208 is ready to issue, with nothing in flight. -/
theorem test_mac_arith_premises (op : MacOp) :
    (macDev (encodeMac (.arith op 0 0 0)) cell0).chip.clocked = true ∧
    MacReady (macDev (encodeMac (.arith op 0 0 0)) cell0).chip mc0 content1 (.arith op 0 0 0) ∧
    ((macDev (encodeMac (.arith op 0 0 0)) cell0).chip.macCell mc0).idlePipe := by
  have h : decodeMac (encodeMac (.arith op 0 0 0)) = .arith op 0 0 0 := by cases op <;> decide
  have hc : (macDev (encodeMac (.arith op 0 0 0)) cell0).chip.clocked = (dev sounding).chip.clocked := rfl
  exact ⟨hc.trans (by decide), ready _ _ (by decide) rfl rfl rfl h, ⟨rfl, rfl, rfl⟩⟩

/-- So are LDI to every destination and MOVE between registers. -/
theorem test_mac_move_premises (d : Fin 12) :
    let ins : MacIns := .ldi (BitVec.ofNat 4 d) 0x000038
    MacReady (macDev (encodeMac ins) cell0).chip mc0 content1 ins ∧ ((macDev (encodeMac ins) cell0).chip.macCell mc0).idlePipe ∧
    MacReady (macDev (encodeMac (.move 2 4)) cell0).chip mc0 content1 (.move 2 4) ∧
    MacReady (macDev (encodeMac (.move 6 0)) cell0).chip mc0 content1 (.move 6 0) ∧
    MacReady (macDev (encodeMac (.move 5 39)) cell0).chip mc0 content1 (.move 5 39) := by
  have h : decodeMac (encodeMac (.ldi (BitVec.ofNat 4 d) 0x000038)) = .ldi (BitVec.ofNat 4 d) 0x000038 := by
    revert d; decide
  exact ⟨ready _ _ (by decide) rfl rfl rfl h, ⟨rfl, rfl, rfl⟩,
    ready _ _ (by decide) rfl rfl rfl (by decide), ready _ _ (by decide) rfl rfl rfl (by decide),
    ready _ _ (by decide) rfl rfl rfl (by decide)⟩

/-- An MVX of a parameter, an input and an X word into three registers, one of a Y word, and one without a memory load. -/
theorem test_mac_mvx_premises :
    let f : BitVec 29 := 0x1405C385
    let g : BitVec 29 := 0x000000C5
    let z : BitVec 29 := 0x10000000
    MacReady (macDev (encodeMac (.mvx f)) cell0).chip mc0 content1 (.mvx f) ∧ macDoubleLoad (.mvx f) = false ∧
    f.getLsbD 28 = true ∧ f.getLsbD 15 = true ∧ f.getLsbD 7 = true ∧ f.getLsbD 6 = false ∧ macDoubleLoad (.mvx g) = false ∧
    MacReady (macDev (encodeMac (.mvx g)) cell0).chip mc0 content1 (.mvx g) ∧ g.getLsbD 7 = true ∧ g.getLsbD 6 = true ∧
    MacReady (macDev (encodeMac (.mvx z)) cell0).chip mc0 content1 (.mvx z) ∧ macDoubleLoad (.mvx z) = false ∧
    z.getLsbD 28 = true ∧ z.getLsbD 7 = false :=
  ⟨ready _ _ (by decide) rfl rfl rfl (by decide), by decide, by decide, by decide, by decide, by decide, by decide,
    ready _ _ (by decide) rfl rfl rfl (by decide), by decide, by decide,
    ready _ _ (by decide) rfl rfl rfl (by decide), by decide, by decide, by decide⟩

/-- NOP in a repeat, at its last repeat, in the last delay slot of a taken branch, with a branch in the slot of another, and at the
end of a DO body (R187 to R189). -/
theorem test_mac_nop_premises :
    let w := encodeMac .nop
    MacReady (macDev w { cell0 with rep := 2 }).chip mc0 content1 .nop ∧
    MacReady (macDev w { cell0 with rep := 1, brSlots := 1, brTaken := true, brTarget := 5 }).chip mc0 content1 .nop ∧
    MacReady (macDev w { cell0 with stack := [⟨3, 0, 2⟩] }).chip mc0 content1 .nop ∧
    MacReady (macDev w { cell0 with stack := [⟨3, 0, 1⟩], brSlots := 2 }).chip mc0 content1 .nop ∧
    MacReady (macDev w { cell0 with brSlots := 1, brTaken := true, brTarget := 5, brMore := [(2, true, 9)] }).chip mc0 content1 .nop :=
  ⟨ready .nop _ (by decide) rfl rfl rfl (by decide), ready .nop _ (by decide) rfl rfl rfl (by decide),
    ready .nop _ (by decide) rfl rfl rfl (by decide), ready .nop _ (by decide) rfl rfl rfl (by decide),
    ready .nop _ (by decide) rfl rfl rfl (by decide)⟩

/-- A taken branch due and one that is not; branches in each other's delay slots (R187, R221). -/
theorem test_mac_branches :
    let m : MacCell := { cell0 with brSlots := 1, brTaken := true, brTarget := 5, brMore := [(2, true, 9)] }
    m.branches = [(1, true, 5), (2, true, 9)] ∧ (∀ b ∈ m.branches, 1 ≤ b.1) ∧
    (m.branches.find? fun b => decide (b.1 = 1) && b.2.1) = some (1, true, 5) ∧ ¬m.noJump ∧ cell0.noJump ∧
    (match exec (.bra mc0 9) (macDev (encodeMac (.bra 9)) { cell0 with brSlots := 1, brTaken := true, brTarget := 5 }) with
     | .next t => (t.chip.macCell mc0).pc == 5 && (t.chip.macCell mc0).branches == [(2, true, 9)]
     | _ => false) = true := by unfold MacCell.noJump; decide

/-- Branches, DO with two and with three entries on its stack, REP, and REP of a register above 1,024 and of 0 (R221 to R223). -/
theorem test_mac_sequence_premises :
    let e : DoEntry := ⟨3, 9, 2⟩
    let big : MacCell := { cell0 with ctx := { v0 := 1025 } }
    MacReady (macDev (encodeMac (.bra 5)) cell0).chip mc0 content1 (.bra 5) ∧
    MacReady (macDev (encodeMac (.bra 5)) { cell0 with rep := 2 }).chip mc0 content1 (.bra 5) ∧
    MacReady (macDev (encodeMac (.bcc 7 511)) cell0).chip mc0 content1 (.bcc 7 511) ∧
    MacReady (macDev (encodeMac (.doLoop 0 9)) { cell0 with stack := [e, e] }).chip mc0 content1 (.doLoop 0 9) ∧
    MacReady (macDev (encodeMac (.doLoop 3 9)) { cell0 with stack := [e, e, e], cyc := 127 }).chip mc0 content1 (.doLoop 3 9) ∧
    MacReady (macDev (encodeMac (.rep 0)) cell0).chip mc0 content1 (.rep 0) ∧
    MacReady (macDev (encodeMac (.repReg 0)) big).chip mc0 content1 (.repReg 0) ∧
    1024 < (moveSource big.ctx 0 0).1.toNat ∧ (moveSource cell0.ctx 0 0).1.toNat = 0 :=
  ⟨ready _ _ (by decide) rfl rfl rfl (by decide), ready _ _ (by decide) rfl rfl rfl (by decide), ready _ _ (by decide) rfl rfl rfl (by decide),
    ready _ _ (by decide) rfl rfl rfl (by decide), ready _ _ (by decide) rfl rfl rfl (by decide),
    ready _ _ (by decide) rfl rfl rfl (by decide), ready _ _ (by decide) rfl rfl rfl (by decide),
    by decide, by decide⟩

/-- INJ to the voice's page with room, to a page it has not, and with four entries waiting; a reserved word (R224, R228). -/
theorem test_mac_inject_premises :
    let q : Inject := ⟨0, false, 5, 2, 0, some 7⟩
    let four : MacCell := { cell0 with injq := [q, q, q, q] }
    MacReady (macDev (encodeMac (.inj 0 0 1 63)) { cell0 with injq := [q, q, q] }).chip mc0 content1 (.inj 0 0 1 63) ∧
    MacReady (macDev (encodeMac (.inj 0 1 0 0)) cell0).chip mc0 content1 (.inj 0 1 0 0) ∧
    MacReady (macDev (encodeMac (.inj 0 0 0 0)) four).chip mc0 content1 (.inj 0 0 0 0) ∧ 4 ≤ four.injq.length ∧
    MacReady (macDev (encodeMac (.illegal 0xD8000000)) cell0).chip mc0 content1 (.illegal 0xD8000000) :=
  ⟨ready _ _ (by decide) rfl rfl rfl (by decide), ready _ _ (by decide) rfl rfl rfl (by decide),
    ready _ _ (by decide) rfl rfl rfl (by decide), by decide,
    ready _ _ (by decide) rfl rfl rfl (by decide)⟩

/-- An injection past its E stage at an interruptible point, in the pass of a voice and in one whose voice has ended and stands
aside; a point that has delivered (R193). -/
theorem test_mac_delivery_premises :
    let m : MacCell := { cell0 with injq := [⟨0, true, 5, 2, 0, some 7⟩] }
    let a : MacCell := { m with keys := [18] }
    let s := macDev 0 m
    s.chip.clocked = true ∧ (s.chip.macCell mc0).injq = [⟨0, true, 5, 2, 0, some 7⟩] ∧ (s.chip.macCell mc0).running = true ∧
    s.chip.macAtPoint mc0 ∧ m.delivered = false ∧ m.keys[0]? = some 0 ∧ a.keys[0]? = some 18 ∧ 18 ≤ 18 % 40 ∧
    (State.reset.chip.slot (18 - 18)).role = .free ∧ ({ m with delivered := true } : MacCell).delivered = true := by
  refine ⟨by decide, by decide, by decide, ?_, by decide, by decide, by decide, by decide, by decide, by decide⟩
  unfold Chip.macAtPoint; decide

/-- END, with the voice's one slot named once and with a fence that waits (R195, R220), and a word that fails its parity check
(R558). -/
theorem test_mac_end_premises :
    let s := macDev 0x01000000 { cell0 with badI := [0] }
    MacReady (macDev (encodeMac .endPass) cell0).chip mc0 content1 .endPass ∧ cell0.keys = [0] ∧
    MacReady (macDev (encodeMac .endPass) { cell0 with fenceReq := true }).chip mc0 content1 .endPass ∧
    (s.chip.blk (blkKey 0 0)).content = some content1 ∧ macCanIssue (s.chip.macCell mc0) = true ∧
    decodeMac ((s.chip.blk (blkKey 0 0)).fetch (s.chip.macCell mc0)) = .endPass ∧ (s.chip.macCell mc0).pc ∈ (s.chip.macCell mc0).badI :=
  ⟨ready .endPass _ (by decide) rfl rfl rfl (by decide), by decide, ready .endPass _ (by decide) rfl rfl rfl (by decide), by decide,
    by decide, by decide, by decide⟩

/-- A pass at the end of its budget, of a voice cut in the three samples before (R90, R91). -/
theorem test_mac_cut_premises :
    let s := dev fun c => (blkIs 0 { block1 with cells := [(0, { cell0 with cyc := 128 })] } (sounding c)).setSlot 0
      { slot1 with cuts0 := 3, cuts1 := 99 }
    let m := s.chip.macCell mc0
    s.chip.clocked = true ∧ m.running = true ∧ m.halted = false ∧ m.budget ≤ m.cyc ∧ m.glaze = false ∧
    (s.chip.slot m.slot).cuts0 = 3 ∧ (s.chip.slot m.slot).cuts1 + 1 = m.smp ∧ (s.chip.slot m.slot).role = .member 0 0 ∧
    (s.chip.slot m.slot).ramp = none ∧ m.slot % 40 < 16 ∧ m.fenceReq = false ∧ (s.chip.blk (blkKey 0 0)).content = some content1 ∧
    ({ m with fenceReq := true } : MacCell).fenceReq = true := by decide

/-- A pass one cycle before the end of its budget still issues. -/
theorem test_mac_budget_edge : macCanIssue { cell0 with cyc := 127 } = true ∧ macCanIssue { cell0 with cyc := 128 } = false := by
  decide

/-- A halt and a fence at an interruptible point, with the cell idle and running (R194, R195). -/
theorem test_mac_halt_fence_premises :
    let h := dev fun c => blkIs 0 { block1 with halted := true, cells := [(0, cell0)] } (sounding c)
    let f := macDev 0 { cell0 with fenceReq := true }
    let i := macDev 0 { fenceReq := true }
    h.chip.macAtPoint mc0 ∧ f.chip.macAtPoint mc0 ∧ i.chip.macAtPoint mc0 ∧ (h.chip.blk (blkKey 0 0)).halted = true ∧
    (h.chip.macCell mc0).fenceReq = false ∧ (f.chip.macCell mc0).fenceReq = true ∧ (f.chip.macCell mc0).running = true ∧
    (i.chip.macCell mc0).running = false ∧ (i.chip.blk (blkKey 0 0)).content = some content1 := by
  unfold Chip.macAtPoint; decide

/-- A reserved encoding is none that an encoding decodes to; END is (R228). -/
theorem test_mac_reserved : macReserved .endPass = false ∧ macReserved (.illegal 0) = true := by decide

/-- A repeat whose NOP or DO falls in the last delay slot of a taken branch, and one that goes on (R187, R223). -/
theorem test_mac_repeat_premises :
    let e : DoEntry := ⟨3, 9, 2⟩
    let j : MacCell := { cell0 with rep := 2, brSlots := 1, brTaken := true, brTarget := 5 }
    MacReady (macDev (encodeMac .nop) j).chip mc0 content1 .nop ∧
    MacReady (macDev (encodeMac (.bra 9)) j).chip mc0 content1 (.bra 9) ∧
    MacReady (macDev (encodeMac (.rep 3)) { cell0 with rep := 2 }).chip mc0 content1 (.rep 3) ∧
    MacReady (macDev (encodeMac (.doLoop 3 9)) { j with stack := [e, e, e] }).chip mc0 content1 (.doLoop 3 9) ∧ ¬j.noJump ∧
    ({ cell0 with rep := 2 } : MacCell).noJump :=
  ⟨ready .nop _ (by decide) rfl rfl rfl (by decide), ready _ _ (by decide) rfl rfl rfl (by decide),
    ready _ _ (by decide) rfl rfl rfl (by decide), ready _ _ (by decide) rfl rfl rfl (by decide),
    by unfold MacCell.noJump; decide, by unfold MacCell.noJump; decide⟩

/-- A halt still to take effect, with another cell running, with the last cell's pass at END, and with every cell standing (R194,
R589). -/
theorem test_halt_effect_premises :
    let h (l : Tab MacCell) := (dev fun c => blkIs 0 { block1 with halted := true, haltDue := true, cells := l } (sounding c)).chip
    (h []).haltWaits 0 ∧ (h [(0, cell0)]).cellsStand 0 (some 0) ∧ ¬(h [(0, cell0)]).cellsStand 0 none ∧
    (h [(0, { cell0 with halted := true })]).cellsStand 0 none ∧
    MacReady (dev fun c => blkIs 0 { block1 with halted := true, haltDue := true, cells := [(0, cell0)] } (sounding c)).chip mc0 content1
      .endPass := by
  refine ⟨?_, ?_, ?_, ?_, ?_⟩ <;> (first | unfold Chip.haltWaits | unfold Chip.cellsStand | skip) <;>
    first | decide | exact ⟨by decide, by decide, by decide, by decide⟩

/-! ### Fades and gains -/

/-- Glazes of a glaze context and of a slot, and a ramp of R91 alone and over a glaze, at their last sample and past it. -/
theorem test_fade_premises :
    let f : Fade := { start := 36, n := 64 }
    let g : Fade := { start := 37, n := 64 }
    let s := dev fun c => ((sounding c).setSlot 0 { slot1 with glaze := some f, ramp := some f }).setSlot 16
      { role := .glaze 0 false, glaze := some f, mates := [16] }
    let s' := dev fun c => (sounding c).setSlot 0 { slot1 with glaze := some g, ramp := some g }
    let z := dev fun c => (sounding c).setSlot 0 { slot1 with glaze := some f }
    s.chip.clocked = true ∧ (s.chip.slot 0).glaze = some f ∧ (s.chip.slot 0).ramp = some f ∧ (s.chip.slot 16).glaze = some f ∧
    f.start + f.n ≤ s.chip.clk.smp ∧ (s.chip.slot 0).mates ≠ [] ∧ (s'.chip.slot 0).glaze = some g ∧
    (s'.chip.slot 0).ramp = some g ∧ s'.chip.clk.smp < g.start + g.n ∧ (z.chip.slot 0).glaze = some f ∧ (z.chip.slot 0).ramp = none ∧
    (z.chip.slot 0).mates ≠ [] ∧ (State.reset.chip.slot 0).mates = [] ∧ (State.reset.chip.slot 0).glaze = none := by decide

/-- Held tails of one slot, one that has run and one that has a sample left; the block was running. -/
theorem test_tail_premises :
    let s := dev fun c => { sounding c with tails := [(0, [{ start := 36, ng := 64 }, { start := 37, ng := 64 }])] }
    s.chip.clocked = true ∧ (s.chip.blk 0).st = .running ∧ (tabGet s.chip.tails [] 0).length = 2 ∧
    36 + 64 ≤ s.chip.clk.smp ∧ s.chip.clk.smp < 37 + 64 := by decide

/-- A gain ramp one close before its end and at the one before that (R343). -/
theorem test_gain_ramp : (let g : GainRamp := { g0 := 0, gt := 100, r := 4, j := 3 }; g.j < g.r ∧ g.j + 1 = g.r ∧ g.close.1 = 100) ∧
    (let g : GainRamp := { g0 := 0, gt := 100, r := 4, j := 2 }; g.j + 1 < g.r ∧ g.close.1 = 75) := by decide

/-- A gain register with no write pending among those with one (R343). -/
theorem test_gain_pend : (2 : Nat) ∉ (dev fun c => { c with cnv := { c.cnv with gainPend := [0, 1] } }).chip.cnv.gainPend := by decide

/-- The live fade of a disabled bus block at its last sample and past it (R350). -/
theorem test_block_fade_premises :
    let f : BlockFade := { heldKind := false, start := 36, disable := true }
    let g : BlockFade := { f with start := 37 }
    let s := dev fun c => { blkIs 0 { block1 with bus := true, draining := true } (runs c) with
      cnv := { c.cnv with fades := [(0, some f), (1, some g)] } }
    s.chip.clocked = true ∧ tabGet s.chip.cnv.fades none 0 = some f ∧ f.heldKind = false ∧ f.disable = true ∧
    (s.chip.blk 0).draining = true ∧ f.start + 64 ≤ s.chip.clk.smp ∧ tabGet s.chip.cnv.fades none 1 = some g ∧
    s.chip.clk.smp < g.start + 64 := by decide

/-! ### Blocks -/

/-- A template of nothing but its member count, and a palette that holds it and a bus template. -/
def tmpl0 : Template :=
  { id := 0, link := 1, stream := false, tables := [], phase := [255, 255, 255, 255], mac0 := 255, mac1 := 255, contour := 255
    routes := 255, wire := 255, page := [] }

/-- A loaded palette. -/
def palette0 : Palette := { loaded := true, templates := [tmpl0, { tmpl0 with id := 3, contour := 0 }], contourSets := [(0, [5])] }

/-- The device with that palette. -/
def loaded (c : Chip) : Chip := { c with pal := palette0 }

/-- A load request on a region's path. -/
def req0 : LoadReq := { block := 0, wake := false, load := true, tmpl := 0, bus := false }

/-- The load path of region 0. -/
def paths (l : List LoadReq) (c : Chip) : Chip := c.updRgn 0 fun x => { x with loads := l }

/-- The memory side of region 0 as given. -/
def rmIs (x : RegionMem) (c : Chip) : Chip := c.updRm 0 fun _ => x

/-- The boot record as given. -/
def bootIs (b : BootRec) (c : Chip) : Chip := { c with boot := b }

/-- Load requests: accepted for an empty block and a gated one, resident already, and turned away (R110). -/
theorem test_load_request_premises :
    let s := dev loaded
    let k := blkKey 0 0
    (0x11#32).getLsbD 0 = s.chip.is (BLK_CTL_EN 0 0) ∧ (s.chip.blk k).st = .empty ∧ (s.chip.blk k).draining = false ∧
    s.chip.blkEmpty k = true ∧ (s.chip.rgn 0).loads = [] ∧ s.chip.pal.loaded = true ∧ (s.chip.pal.tmpl 0).isSome = true ∧
    (s.chip.blk k).tmplCode ≠ 0 ∧
    ((dev fun c => blkIs 0 { st := .gated, content := some { content1 with tmpl := tmpl0 } } (loaded c)).chip.blk k).tmplCode = 0 ∧
    State.reset.chip.pal.loaded = false := by decide

/-- A load that starts, one whose block is not empty, and none (R111). -/
theorem test_template_load_premises :
    let s := dev fun c => paths [req0] (loaded c)
    let s' := dev fun c => paths [req0] (blkIs 0 block1 (loaded c))
    s.chip.clocked = true ∧ (s.chip.rgn 0).loads = [req0] ∧ req0.wake = false ∧ req0.running = false ∧ req0.load = true ∧
    (s.chip.blk 0).st = .empty ∧ (s'.chip.blk 0).st ≠ .empty := by decide

/-- A load that the host asked for on a block with a note-on placed in it, on a draining block, and on an evicted one (R110
to R112). -/
theorem test_load_waits_premises :
    let v : Voice := { voice1 with st := .pending }
    let h := dev fun c => (paths [{ req0 with host := true }] (loaded c)).setSlot 3 { pend := some v }
    let d := dev fun c => paths [req0] (blkIs 0 { st := .empty, draining := true } (loaded c))
    ({ req0 with host := true } : LoadReq).host = true ∧ (h.chip.slot 3).pend ≠ none ∧ (h.chip.blk 0).st = .empty ∧
    (d.chip.blk 0).draining = true ∧ ((h.chip.rgn 0).loads.map fun q => q.block) = [0] ∧
    ((dev fun c => blkIs 0 { st := .empty, evicting := true } c).chip.blk 0).evicting = true := by decide

/-- A load that ends: the content of template 0 passes its check in zeroed banks, and that of template 3 fails (R111, R654). -/
theorem test_template_done_premises :
    let s := dev fun c => paths [{ req0 with running := true }] (loaded c)
    let tm : Template := { tmpl0 with id := 3, contour := 0 }
    let image (tm : Template) : List Word := (List.range (s.chip.pal.imageSize tm 0)).map fun i =>
      s.mem.rd (contentAddr 0 (s.chip.pal.imageBase tm.id 0 + i))
    s.chip.pal.tmpl 0 = some tmpl0 ∧ crcWords (image tmpl0).dropLast = (image tmpl0).getLast?.getD 0 ∧
    s.chip.pal.tmpl 3 = some tm ∧ (image tm).length = 2 ∧ crcWords (image tm).dropLast ≠ (image tm).getLast?.getD 0 := by decide +kernel

/-- An enable of a disabled block, of one that drains and of a bus block that a load left idle while it drained; a disable of
a running voice block with its one voice, of a bus block and of one already disabled; a load and a wait of the block's, and
those of another (R110, R120, R316). -/
theorem test_block_enable_premises :
    let s := dev sounding
    let b := dev fun c => blkIs 0 { block1 with bus := true } (runs c)
    let d := dev fun c => blkIs 0 { st := .disabled } c
    s.chip.clocked = true ∧ (s.chip.blk 0).st ≠ .disabled ∧ (s.chip.blk 0).draining = false ∧ (s.chip.blk 0).bus = false ∧
    (0, voice1) ∈ s.chip.voicesIn ∧ 0 ∈ (s.chip.slot 0).mates ∧ (∀ p ∈ s.chip.voicesIn, 0 ∈ (s.chip.slot p.1).mates → p = (0, voice1)) ∧
    (b.chip.blk 0).bus = true ∧ tabGet b.chip.cnv.fades none 0 = none ∧ (d.chip.blk 0).st = .disabled ∧
    (let x := (dev fun c => blkIs 0 { block1 with st := .empty, bus := true, draining := true } c).chip.blk 0
     x.st = .empty ∧ x.bus = true ∧ x.draining = true ∧ x.content = some content1) ∧
    ((dev (paths [{ block := 0, wake := false, load := true, tmpl := 0, bus := false, running := true }
      , { block := 0, wake := false, load := true, tmpl := 0, bus := false }])).chip.rgn 0).loads.map (fun q => q.running) = [true, false] := by
  decide

/-- A drained block that has become empty, a bus block among them, and one that has not. -/
theorem test_drain_end_premises :
    let s := dev fun c => blkIs 0 { block1 with st := .empty, draining := true } c
    let s' := dev fun c => blkIs 0 { block1 with draining := true } (sounding c)
    let b := dev fun c => blkIs 0 { block1 with st := .empty, draining := true, bus := true } c
    s.chip.clocked = true ∧ (s.chip.blk 0).draining = true ∧ (s.chip.blk 0).bus = false ∧ (s.chip.blk 0).st = .empty ∧
    (b.chip.blk 0).bus = true ∧ b.chip.blkEmpty 0 = true ∧ s.chip.blkEmpty 0 = true ∧ s'.chip.blkEmpty 0 = false := by decide

/-- A wake that starts and one that ends, with a load after it and without (R119). -/
theorem test_wake_premises :
    let w : LoadReq := { req0 with wake := true, load := false }
    let s := dev fun c => paths [w] (blkIs 0 { st := .gated } c)
    let s' := dev fun c => paths [{ w with running := true }] (blkIs 0 { block1 with st := .waking } c)
    s.chip.clocked = true ∧ (s.chip.rgn 0).loads = [w] ∧ w.wake = true ∧ w.running = false ∧ (s'.chip.rgn 0).loads = [{ w with running := true }] ∧
    (s'.chip.rgn 0).loads ≠ [{ w with running := true, load := true }] := by decide

/-- A block due for its power gate at the very boundary, and one boundary before (R118). -/
theorem test_gate_premises :
    let c0 := fun c => flds [(RGNn_PGDLY_MS 0, 1), (BLK_CTL_KEEP 0 0, 0)] c
    let s := dev fun c => blkIs 0 { st := .empty, gateCnt := 48 } (c0 c)
    let s' := dev fun c => blkIs 0 { st := .empty, gateCnt := 47 } (c0 c)
    s.chip.clocked = true ∧ (s.chip.blk 0).bus = false ∧ s.chip.is (BLK_CTL_KEEP 0 0) = false ∧ s.chip.fld (RGNn_PGDLY_MS 0) = 1 ∧
    (1 * s.chip.fs + 999) / 1000 ≤ (s.chip.blk 0).gateCnt ∧ ¬((1 * s'.chip.fs + 999) / 1000 ≤ (s'.chip.blk 0).gateCnt) := by decide

/-- A block due for its power gate for which a load waits, and one with a note-on placed in it; a wake of a region that dozes, and one
of a block that drains (R111, R118, R119). -/
theorem test_gate_waits_premises :
    let g := dev fun c => flds [(RGNn_PGDLY_MS 0, 1), (BLK_CTL_KEEP 0 0, 0)] (blkIs 0 { st := .empty, gateCnt := 48 } c)
    let l := { g with chip := paths [req0] g.chip }
    let p := { g with chip := g.chip.setSlot 2 { pend := some { voice1 with st := .pending } } }
    let z := dev fun c => { rmIs { retained := true } c with pwr := { c.pwr with dozing := [0] } }
    (∃ q ∈ (l.chip.rgn 0).loads, q.block = 0) ∧ (p.chip.rgn 0).loads = [] ∧ (∃ i, i < 16 ∧ (p.chip.slot i).pend ≠ none) ∧
    (z.chip.rm 0).retained = true ∧ (0 : Nat) ∈ z.chip.pwr.dozing ∧
    ((dev fun c => paths [{ req0 with wake := true, running := true }] (blkIs 0 { st := .waking, draining := true } c)).chip.blk 0).draining = true ∧
    (1 * g.chip.fs + 999) / 1000 ≤ (g.chip.blk 0).gateCnt :=
  ⟨⟨req0, by decide, rfl⟩, by decide, ⟨2, by decide, by decide⟩, by decide, by decide, by decide, by decide⟩

/-- A line of the table cache. -/
def line0 (n used : Nat) (pinned : Bool) : CacheLine := { line := n, words := [], used := used, pinned := pinned }

/-- A requested line with room in its set, with a full set that has a line to give up, and one already there (R114, R116). -/
theorem test_cache_premises :
    let full := [line0 128 4 false, line0 256 2 false, line0 384 1 true, line0 512 3 false]
    let s := dev fun c => blkIs 0 { refills := [0], cache := full.take 3 } c
    let s' := dev fun c => blkIs 0 { refills := [0, 128], cache := full } c
    let set (s : State) := (s.chip.blk 0).cache.filter fun l => decide (l.line % 128 = 0 % 128)
    s.chip.clocked = true ∧ 0 ∈ (s.chip.blk 0).refills ∧ (∀ l ∈ (s.chip.blk 0).cache, l.line ≠ 0) ∧ (set s).length < 4 ∧
    (∀ l ∈ (s'.chip.blk 0).cache, l.line ≠ 0) ∧ 4 ≤ (set s').length ∧ (∃ l ∈ set s', l.pinned = false) ∧
    (∃ l ∈ (s'.chip.blk 0).cache, l.line = 128) ∧ 5 ∉ (s.chip.blk 0).refills := by decide

/-- Access to cell memories: the last X word, the last program word, one beyond it, MEM = 3, and PROT (R198, R199). -/
theorem test_macc_premises :
    let at_ (m a : Nat) := dev fun c => flds [(BLK_MACC_MEM 0 0, m), (BLK_MACC_ADDR 0 0, a), (BLK_MACC_INC 0 0, 1)] c
    (at_ 0 1023).chip.fld (BLK_MACC_MEM 0 0) = 0 ∧ (at_ 2 511).chip.fld (BLK_MACC_ADDR 0 0) = 511 ∧ ((at_ 2 511).chip.blk 0).st = .empty ∧
    511 < (at_ 2 512).chip.fld (BLK_MACC_ADDR 0 0) ∧ (at_ 3 0).chip.fld (BLK_MACC_MEM 0 0) = 3 ∧
    (dev fun c => { c with saf := { c.saf with prot := true } }).chip.saf.prot = true ∧ (at_ 2 511).chip.saf.prot = false ∧
    (at_ 2 511).chip.is (BLK_MACC_INC 0 0) = true ∧ (at_ 0 1023).chip.clocked = true := by decide

/-! ### The easel -/

/-- The engine runs with a loaded palette, template 0 resident in block 0 and part 1 in being. -/
def playing (c : Chip) : Chip :=
  (flds [(PAL_POL_RMASK 1, 15)] (loaded (blkIs 0 { st := .empty, content := some { content1 with tmpl := tmpl0 } } (runs c)))).updPart 1
    fun x => { x with exists_ := true }

/-- The first word of a frame for part 1, key 60 and tag 5. -/
def word1 : Word := 0x0008_0005 + 60 * 4096

/-- The same without a key. -/
def word1n : Word := 0x0008_0005

/-- A lane entry. -/
def entry0 (n : Nat) : LaneEntry := { words := List.replicate n 0, ump := false, stamp := 0, tb := 0 }

/-- A frame finds the last place of each lane, or none; a UMP packet of channel voice has two words (R266, R267). -/
theorem test_lane_premises :
    let a (n : Nat) := dev fun c => { c with ez := { c.ez with laneA := List.replicate n (entry0 3) } }
    let b (n : Nat) := dev fun c => { c with ez := { c.ez with laneB := List.replicate n (entry0 3) } }
    let l (n : Nat) := dev fun c => { c with ez := { c.ez with laneC := [entry0 n] } }
    (a 127).chip.clocked = true ∧ (a 127).chip.ez.laneA.length < 128 ∧ ¬((a 128).chip.ez.laneA.length < 128) ∧
    (b 255).chip.ez.laneB.length < 256 ∧ ¬((b 256).chip.ez.laneB.length < 256) ∧
    3 + ((l 1021).chip.ez.laneC.map fun e => e.words.length).sum ≤ 1024 ∧
    ¬(3 + ((l 1022).chip.ez.laneC.map fun e => e.words.length).sum ≤ 1024) ∧
    ([0, 0, 0] : List Word).length = frameLen 0 [0, 0, 0] ∧ umpLen 0x40903C00 = 2 ∧ umpVoice 0x40903C00 = true := by decide +kernel

/-- A later frame of a write that has had one rejected (R266). -/
theorem test_rejecting_premises :
    (dev fun c => { c with host := { c.host with rejecting := true } }).chip.host.rejecting = true := by decide

/-- The easel serves: an event waits, an entry has come back, nothing waits; and it is held (R261, R655). -/
theorem test_service_premises :
    let s := dev fun c => { playing c with ez := { c.ez with laneA := [entry0 3] } }
    let e : Entry := { kind := 3, block := 0, slot := 0, gen := 1, part := 1, timed := false, ts := 0, tag := 0, seq := 0, region := 0 }
    let r := dev fun c => { playing c with returned := [e] }
    s.chip.clocked = true ∧ s.chip.easelHeld = false ∧ s.chip.returned = [] ∧ s.chip.splitAll.waiting ≠ [] ∧
    (∀ v ∈ s.chip.splitAll.waiting, v.stamp < 2 ^ 64) ∧ (dev playing).chip.splitAll.waiting = [] ∧ r.chip.easelHeld = false ∧ r.chip.returned ≠ [] ∧
    State.reset.chip.easelHeld = true := by decide +kernel

/-- A ready-list entry of region 0. -/
def rentry (kind : Nat) : Entry :=
  { kind := kind, block := 0, slot := 0, gen := 1, part := 1, timed := false, ts := 0, tag := 5, seq := 7, region := 0, key := 60 }

/-- A held entry whose region's list has its last place free, or none (R284). -/
theorem test_ready_list_premises :
    let at_ (n : Nat) := dev fun c => c.updRgn 0 fun x => { x with held := [rentry 0], ready := List.replicate n (rentry 1) }
    (at_ 63).chip.clocked = true ∧ ((at_ 63).chip.rgn 0).held = [rentry 0] ∧ (rentry 0).region = 0 ∧
    ((at_ 63).chip.rgn 0).ready.length < 64 ∧ 64 ≤ ((at_ 64).chip.rgn 0).ready.length := by decide +kernel

/-- Entries that came back: for a pending voice and for none, for a part that has gone, and for a slot of affinity (R655). -/
theorem test_entry_return_premises :
    let s := dev fun c => ({ playing c with returned := [rentry 3] } : Chip).setSlot 0 { pend := some { voice1 with st := .pending } }
    let s' := dev fun c => { playing c with returned := [rentry 3] }
    let g := dev fun c => { runs c with returned := [rentry 2] }
    let a := dev fun c => flds [(PAL_POL_AFF 1, 2)] (({ playing c with returned := [rentry 0] } : Chip).updPart 1
      fun x => { x with aff := [(60, 1)] })
    s.chip.clocked = true ∧ s.chip.easelHeld = false ∧ s.chip.returned = [rentry 3] ∧
    (s.chip.slot 0).pend = some { voice1 with st := .pending } ∧ voice1.gen = (rentry 3).gen ∧ (s'.chip.slot 0).pend = none ∧
    g.chip.partExists 1 = false ∧ a.chip.partExists 1 = true ∧
    (let c : Chip := { a.chip with returned := [] }
     c.pal.tmpl (c.fld (PAL_PCFG_TEMPLATE 1)) = some tmpl0 ∧ c.maskOf 1 ≠ 0 ∧ c.fld (PAL_PCFG_VLIMIT 1) = 0 ∧
     c.affinitySlot 1 60 tmpl0 = some 0) := by decide +kernel

/-- A note-on that waits for an evicted block, emptied and not, and one behind a pending voice (R316). -/
theorem test_evict_premises :
    let w : EvictWait := { entry := rentry 0, voice := { voice1 with st := .pending } }
    let s := dev fun c => { playing c with ez := { c.ez with evicts := [w] } }.updBlk 0 fun b => { b with evicting := true }
    let s' := dev fun c => { sounding c with ez := { c.ez with evicts := [w] } }
    let p := dev fun c => (playing c).setSlot 3 { pend := some { voice1 with st := .pending } }
    s.chip.clocked = true ∧
    (s.chip.ez.evicts.find? fun w => decide (w.entry.region = 0) && decide (w.entry.block = 0)) = some w ∧
    s.chip.blkEmpty 0 = true ∧ (s.chip.blk 0).evicting = true ∧ (∀ i, i < 16 → (s.chip.slot i).pend = none) ∧
    s'.chip.blkEmpty 0 = false ∧ (p.chip.slot 3).pend ≠ none ∧ (∀ q ∈ (s.chip.rgn 0).loads, q.block ≠ 0) ∧
    ∃ q ∈ ((dev (paths [req0])).chip.rgn 0).loads, q.block = 0 := by decide +kernel

/-- Which commands are events. -/
theorem test_is_event : isEvent .easelService = true ∧ isEvent (.noteOn 0 0 0) = true ∧ isEvent .tbload = false := by decide

/-- A note-on of a part with a template and a region is taken; a place of affinity or a free group is there; a part without a
template is there too (R262, R264, R310, R311). -/
theorem test_note_on_premises :
    let c := (dev playing).chip
    FrameTaken c 2 word1 [0, 0xC0000040] ∧ framePart word1 = 1 ∧ frameKey word1 = 60 ∧ frameTag word1 = 5 ∧
    c.pal.tmpl (c.fld (PAL_PCFG_TEMPLATE 1)) = some tmpl0 ∧ c.maskOf 1 ≠ 0 ∧ c.fld (PAL_PCFG_VLIMIT 1) = 0 ∧
    c.affinitySlot 1 60 tmpl0 = none ∧
    c.best 1 ((List.range 96).filter fun k => c.usable 1 tmpl0 k && !(c.freeGroups k tmpl0.link).isEmpty) = some 0 ∧
    (c.freeGroups 0 tmpl0.link).headD 0 = 0 :=
  ⟨⟨by decide, by decide, by decide, by decide, by decide⟩, by decide, by decide, by decide, by decide +kernel, by decide +kernel, by decide +kernel,
    by decide +kernel, by decide +kernel, by decide +kernel⟩

/-- A limit of voices not reached, and a part of another template than the palette has. -/
theorem test_note_on_limits :
    let c := (dev fun c => flds [(PAL_PCFG_VLIMIT 1, 1)] (playing c)).chip
    let d := (dev fun c => flds [(PAL_PCFG_TEMPLATE 1, 9)] (playing c)).chip
    c.fld (PAL_PCFG_VLIMIT 1) = 1 ∧ c.voiceCount 1 < 1 ∧ d.pal.tmpl (d.fld (PAL_PCFG_TEMPLATE 1)) = none ∧
    d.frameReject 0 [frameWord 2 word1, 0, 0] = none := by decide +kernel

/-- The engine runs with the palette, and a voice of part 1 on key 60 sounds in slot 0. -/
def singing (c : Chip) : Chip := (playing c).setSlot 0 slot1

/-- A note-off that finds its voice, finds none, and comes while the pedal is down (R276, R319). -/
theorem test_note_off_premises :
    let c := (dev singing).chip
    let test : Voice → Bool := fun v => decide (v.key = 60) && decide (v.st = .pending ∨ v.st = .gated)
    FrameTaken c 1 word1 [0, 0x40000000] ∧ (c.part 1).pedal = false ∧ c.targets 1 test = [(0, voice1)] ∧
    (dev playing).chip.targets 1 test = [] ∧ ((dev fun c => (playing c).updPart 1 fun x => { x with pedal := true }).chip.part 1).pedal = true :=
  ⟨⟨by decide, by decide, by decide, by decide, by decide⟩, by decide, by decide, by decide, by decide⟩

/-- NOTE_CTL, ALL_OFF, ALL_SOUND_OFF and a VOICE_WORD with a current and a stale handle, and with the first BLOCK that no block has
(R7, R265, R304, R319). -/
theorem test_voice_event_premises :
    let c := (dev singing).chip
    FrameTaken c 3 word1 [0, 0x03000010] ∧ FrameTaken c 8 word1n [0, 0] ∧ FrameTaken c 9 word1n [0, 0] ∧
    FrameTaken c 5 word1n [0x1234, 0x08000400] ∧ handleKey (0x0800#16).toNat = 0 ∧ (c.slot 0).voice = some voice1 ∧
    (c.slot 0).gen = voice1.gen ∧ voice1.gen.toNat = (0x0800#16).toNat / 2048 ∧ ¬(voice1.gen.toNat = (0x1000#16).toNat / 2048) ∧
    c.targets 1 (fun v => decide (v.key = 60) && !v.detached && decide (v.st ≠ .glazing)) = [(0, voice1)] ∧
    c.targets 1 (fun v => decide (v.st ≠ .glazing)) = [(0, voice1)] ∧ voice1.st ≠ .pending ∧ (0x0970#16).toNat / 16 % 32 < 24 ∧
    24 ≤ (0x0980#16).toNat / 16 % 32 :=
  ⟨⟨by decide, by decide, by decide, by decide, by decide⟩, ⟨by decide, by decide, by decide, by decide, by decide⟩,
    ⟨by decide, by decide, by decide, by decide, by decide⟩, ⟨by decide, by decide, by decide, by decide, by decide⟩, by decide, by decide, by decide, by decide,
    by decide, by decide, by decide, by decide, by decide, by decide⟩

/-- A frame taken behind an entry that came back, and a VOICE_WORD for a note-on that is still placed (R319, R551). -/
theorem test_voice_word_pending :
    let c := (dev fun c => (({ playing c with returned := [rentry 3] } : Chip).setSlot 0 { pend := some { voice1 with st := .pending } })).chip
    FrameTaken c 5 word1n [0x1234, 0x08000400] ∧ c.returned ≠ [] ∧ c.serveReturned.returned = [] ∧
    (c.serveReturned.slot (handleKey (0x0800#16).toNat)).pend = some { voice1 with st := .pending } ∧
    ({ voice1 with st := .pending } : Voice).gen.toNat = (0x0800#16).toNat / 2048 :=
  ⟨⟨by decide, by decide, by decide, by decide +kernel, by decide +kernel⟩, by decide, by decide +kernel, by decide +kernel, by decide⟩

/-- NOP, PART_WORD, BULK of the last words of parameter memory, SUSTAIN, and CANCEL with a tag and without (R265, R276, R324). -/
theorem test_parameter_event_premises :
    let c := (dev playing).chip
    let w2 : Word := 0x01018FFE
    FrameTaken c 0 0 [0, 0] ∧ FrameTaken c 4 (word1n + 63 * 4096) [0, 7] ∧ FrameTaken c 6 0 [0, w2, 1, 2] ∧
    ([1, 2] : List Word).length = fieldOf w2 24 8 + 1 ∧ fieldOf w2 0 24 + 2 = 102400 ∧ FrameTaken c 10 word1n [0, 1] ∧
    (1#32).getLsbD 0 = true ∧ FrameTaken c 7 word1n [0, 0] ∧ frameTag word1n ≠ 0 ∧ FrameTaken c 7 0x00080000 [0, 0] ∧
    frameTag 0x00080000 = 0 ∧
    (1, (5 : BitVec 12)) ∈ (dev fun c => { playing c with ez := { c.ez with chosen := [(1, 5)] } }).chip.ez.chosen ∧
    (rentry 0).part = 1 ∧ (rentry 0).tag = frameTag word1n :=
  ⟨⟨by decide, by decide, by decide, by decide, by decide⟩, ⟨by decide, by decide, by decide, by decide, by decide⟩,
    ⟨by decide, by decide, by decide, by decide, by decide⟩, by decide, by decide, ⟨by decide, by decide, by decide, by decide, by decide⟩, by decide,
    ⟨by decide, by decide, by decide, by decide, by decide⟩, by decide, ⟨by decide, by decide, by decide, by decide, by decide⟩, by decide, by decide, by decide, by decide⟩

/-- Frames turned away for reasons 1, 3 and 7 of R264. -/
theorem test_bad_frame_premises :
    let c := (dev playing).chip
    c.clocked = true ∧ c.easelHeld = false ∧ c.frameReject 0 [frameWord 8 word1, 0, 0] = some 1 ∧
    c.frameReject 0 [frameWord 2 0x00100000, 0, 0] = some 3 ∧ c.frameReject 0 [frameWord 7 0x02080000, 0, 0] = some 7 := by decide

/-- Timed frames three and five samples ahead, with the store's last place free (R280 to R282). -/
theorem test_timed_premises :
    let s := dev fun c => { playing c with ez := { c.ez with store := List.replicate 1023 { op := 1, part := 1, ts := 200 } } }
    let w : Word := word1 ||| 0x02000000
    s.chip.clocked = true ∧ s.chip.easelHeld = false ∧ w.getLsbD 25 = true ∧ s.chip.frameReject 0 [frameWord 2 w, 103, 0] = none ∧
    s.chip.ez.store.length < 1024 ∧ 2 < timeDiff 103 s.chip.tbLow ∧ timeDiff 104 s.chip.tbLow ≤ 4 ∧ ¬(timeDiff 105 s.chip.tbLow ≤ 4) := by
  decide +kernel

/-- An untimed note-off behind a stored event of its part that is due in two samples and whose release has not run (R281). -/
theorem test_stored_before_premises :
    let e : Ev := { op := 1, part := 1, ts := 102, tb := 90, stamp := 0 }
    let s := dev fun c => { playing c with ez := { c.ez with store := [e, { e with ts := 103 }], stamp := 1 } }
    s.chip.clocked = true ∧ s.chip.easelHeld = false ∧ word1.getLsbD 25 = false ∧ s.chip.frameReject 0 [frameWord 1 word1, 0, 0] = none ∧
    (s.chip.ez.store.filter fun f => decide (f.part = framePart word1) && decide (timeDiff f.ts s.chip.tbLow ≤ 2)) = [e] ∧
    timeDiff e.ts s.chip.tbLow = 2 ∧ 4 < timeDiff e.ts e.tb ∧ e.stamp < s.chip.ez.stamp := by decide +kernel

/-- The timed store with an event due in two samples beside a later one, and with none due (R283). -/
theorem test_store_release_premises :
    let e : Ev := { op := 1, part := 1, ts := 102, tb := 90, stamp := 4 }
    let f : Ev := { op := 1, part := 1, ts := 102, tb := 90, stamp := 5 }
    let g : Ev := { op := 1, part := 1, ts := 103, tb := 90 }
    let s := dev fun c => { playing c with ez := { c.ez with store := [e, f, g] } }
    let s' := dev fun c => { playing c with ez := { c.ez with store := [g] } }
    s.chip.clocked = true ∧ s.chip.easelHeld = false ∧ e ∈ s.chip.ez.store ∧ timeDiff e.ts s.chip.tbLow = 2 ∧ 4 < timeDiff e.ts e.tb ∧
    s.chip.partExists e.part = true ∧ (∀ x ∈ s.chip.ez.store, x ≠ e → timeDiff x.ts s.chip.tbLow < 2 → False) ∧
    (∀ x ∈ s.chip.ez.store, x ≠ e → x.ts = e.ts → e.stamp < x.stamp) ∧
    ∀ x ∈ s'.chip.ez.store, 2 < timeDiff x.ts s'.chip.tbLow := by decide +kernel

/-! ### UMP, MIDI and detectors -/

/-- A group with an anchor while JR is enabled, a Program Change that reaches part 1 and one that reaches none, and a packet of
a type the easel does not take (R268, R270, R274). -/
theorem test_ump_premises :
    let s := dev fun c => flds [(EZ_CFG_JR_EN, 1)] { playing c with
      pal := { palette0 with chanMap := [{ source := 0x10, channel := 2, part := 1, keyLo := 0, keyHi := 127 }] }
      ez := { c.ez with anchors := [(0, some (7, 90))] } }
    let w : Word := 0x40C20001
    let reach (ch : Nat) := s.chip.reach 0x10 ch none
    s.chip.clocked = true ∧ s.chip.is EZ_CFG_JR_EN = true ∧ tabGet s.chip.ez.anchors none 0 = some (7, 90) ∧ s.chip.easelHeld = false ∧
    fieldOf w 28 4 = 4 ∧ fieldOf w 20 4 = 0xC ∧ fieldOf w 16 4 = 2 ∧ s.chip.zoneMaster (mpeIdx 0x10) 2 = none ∧
    tabGet s.chip.ez.jr none 0 = none ∧ reach 2 ≠ [] ∧ (∀ p ∈ reach 2, s.chip.partExists p = true) ∧ reach 3 = [] ∧
    fieldOf 0xF0000000 28 4 ≠ 0 ∧ fieldOf 0xF0000000 28 4 ≠ 2 ∧ fieldOf 0xF0000000 28 4 ≠ 4 := by decide +kernel

/-- A MIDI input with its parser in the states of the statement, and its queue of the halted easel at 255 and 256 (R272, R285). -/
theorem test_midi_premises :
    let c0 := fun c => flds [(EZ_MIDICFG_EN 0, 1)] { playing c with
      pal := { palette0 with chanMap := [{ source := 0, channel := 2, part := 1, keyLo := 0, keyHi := 127 }] } }
    let m (x : MidiIn) := dev fun c => { c0 c with ez := { c.ez with midi := [(0, x)] } }
    let q (n : Nat) := dev fun c => { c0 c with ez := { c.ez with halted := true, midi := [(0, { rx := List.replicate n (some ⟨0, false, 0, 0⟩) })] } }
    let on : MidiIn := { status := 0x92, running := 0x92, data := [60] }
    (m on).chip.clocked = true ∧ (m on).chip.is (EZ_MIDICFG_EN 0) = true ∧ (m on).chip.ez.halted = false ∧ (m on).chip.midiOf 0 = on ∧
    on.rx = [] ∧ on.dropped = false ∧ on.sysex = false ∧ on.status = 0x90 + 2 ∧ (m on).chip.zoneMaster 0 2 = none ∧
    (m on).chip.reach 0 2 (some 60) ≠ [] ∧ ([] : List Nat).length + 1 < midiNeed 0x92 ∧
    ((m {}).chip.midiOf 0).status = 0 ∧ ((m { status := 0x92, sysex := true }).chip.midiOf 0).sysex = true ∧
    (dev (flds [(EZ_MIDICFG_EN 0, 0)])).chip.is (EZ_MIDICFG_EN 0) = false ∧ (q 255).chip.ez.halted = true ∧
    (((q 255).chip.midiOf 0).rx.filter fun e => e.isSome).length < 256 ∧
    256 ≤ (((q 256).chip.midiOf 0).rx.filter fun e => e.isSome).length := by decide +kernel

/-- Active sensing armed; a detector's queue at 31 and at 32, enabled and not, with OFF 0, 1 and 3 (R273, R286). -/
theorem test_detector_premises :
    let d : DetEv := { chan := 7, cls := 0, evs := [], stamp := 0 }
    let s (n off : Nat) := dev fun c => flds [(EZ_DET_EN 0, 1), (AI_DETCFG_TSC 0, 1), (EZ_DET_OFF 0, off)] { c with
      ez := { c.ez with dets := List.replicate n d } }
    ((dev fun c => { c with ez := { c.ez with midi := [(1, { sense := true })] } }).chip.midiOf 1).sense = true ∧
    (State.reset.chip.midiOf 1).sense = false ∧ (s 31 0).chip.clocked = true ∧ (s 31 0).chip.is (EZ_DET_EN 0) = true ∧
    ¬(32 ≤ (s 31 0).chip.ez.dets.length) ∧ 32 ≤ (s 32 0).chip.ez.dets.length ∧ (s 32 0).chip.is (AI_DETCFG_TSC 0) = true ∧
    State.reset.chip.is (EZ_DET_EN 0) = false ∧ State.reset.chip.is (AI_DETCFG_TSC 0) = false ∧ (s 0 1).chip.fld (EZ_DET_OFF 0) = 1 ∧
    (s 0 3).chip.fld (EZ_DET_OFF 0) = 3 ∧ (s 0 0).chip.fld (EZ_DET_OFF 0) = 0 ∧
    (s 32 0).chip.ez.dets = d :: List.replicate 31 d ∧ State.reset.chip.fld EZ_CNT2_DISC ≠ 65535 := by decide +kernel

/-- A MIDI output with 63 and 64 bytes queued, a clock byte waiting, a whole host message, and a realtime byte of the host's behind a
thru message under way (R287, R288). -/
theorem test_midi_out_premises :
    let s (x : MidiOut) := dev fun c => flds [(EZ_MO_EN 0, 1), (EZ_MO_GEN 0, 1)] { c with ez := { c.ez with outs := [(0, x)] } }
    let h : MidiOut := { host := [0x90, 60, 64] }
    ((s { host := List.replicate 63 0 }).chip.moOf 0).host.length < 64 ∧ 64 ≤ ((s { host := List.replicate 64 0 }).chip.moOf 0).host.length ∧
    (s h).chip.clocked = true ∧ (s h).chip.is (EZ_MO_EN 0) = true ∧ (s h).chip.is (EZ_MO_GEN 0) = true ∧
    ((s { clock := [0xF8] }).chip.moOf 0).clock = [0xF8] ∧ ((s h).chip.moOf 0).clock = [] ∧ ((s h).chip.moOf 0).thru = [] ∧
    ((s h).chip.moOf 0).cur = 0 ∧ hostMsg h.running h.host = some 3 ∧ isRealtime 0x90 = false ∧
    (let r : MidiOut := { host := [0xF8], thru := [60], cur := 1, left := 1 }
     r.clock = [] ∧ r.thru.find? isRealtime = none ∧ r.cur ≠ 2 ∧ isRealtime 0xF8 = true) ∧ State.reset.chip.is (EZ_MO_EN 0) = false := by decide +kernel

/-! ### Inputs and serial ports -/

/-- Input channel k as given. -/
def aiIs (k : Nat) (x : AiChan) (c : Chip) : Chip := { c with ai := tabSet c.ai {} k x }

/-- AI_SYNC of a running channel and one that does not run, of two channels at one DEC; an enable from EN = 0, with EN = 1,
and in Hold's entry (R389, R393). -/
theorem test_ai_reset_premises :
    let s := dev (aiIs 0 { running := true })
    s.chip.clocked = true ∧ (1#16).getLsbD 0 = true ∧ (s.chip.aiOf 0).running = true ∧ (s.chip.aiOf 1).running = false ∧
    (3#16).getLsbD 1 = true ∧ (3#16).getLsbD 0 = true ∧ s.chip.fld (AI_CFG_DEC 1) = s.chip.fld (AI_CFG_DEC 0) ∧
    (2#16).getLsbD 0 = false ∧ s.chip.is (AI_CFG_EN 0) = false ∧ s.chip.pwr.convOff = false ∧ s.chip.pwrState = 0 ∧
    (dev (flds [(AI_CFG_EN 0, 1)])).chip.is (AI_CFG_EN 0) = true ∧ (dev (power 1)).chip.clocked = true ∧
    (dev (power 1)).chip.pwrState ≠ 0 := by decide

/-- A write of RESP to a running channel: with a fade under way, with none to the response in force and to another (R396). -/
theorem test_ai_resp_premises :
    let s := dev (aiIs 0 { running := true, active := 2 })
    let f := dev (aiIs 0 { running := true, fading := true, fadeJ := 1 })
    s.chip.clocked = true ∧ (s.chip.aiOf 0).running = true ∧ (s.chip.aiOf 0).fadeJ = 0 ∧ (2#3).toNat = (s.chip.aiOf 0).active ∧
    (3#3).toNat ≠ (s.chip.aiOf 0).active ∧ 0 < (f.chip.aiOf 0).fadeJ ∧ (State.reset.chip.aiOf 0).running = false := by decide

/-- A cross-fade at its last output and past it, with a request latched that differs, that equals and none (R396). -/
theorem test_ai_fade_premises :
    let f (j : Nat) (l : Option Nat) : AiChan := { running := true, fading := true, fadeJ := j, standby := 3, latched := l }
    let s (j : Nat) (l : Option Nat) := dev (aiIs 0 (f j l))
    (s 63 none).chip.clocked = true ∧ ((s 63 none).chip.aiOf 0).fadeJ < 64 ∧ ((s 64 none).chip.aiOf 0).fading = true ∧
    64 ≤ ((s 64 none).chip.aiOf 0).fadeJ ∧ ((s 64 (some 4)).chip.aiOf 0).latched = some 4 ∧ 4 ≠ ((s 64 (some 4)).chip.aiOf 0).standby ∧
    ((s 64 (some 3)).chip.aiOf 0).latched = some ((s 64 (some 3)).chip.aiOf 0).standby ∧
    (State.reset.chip.aiOf 0).fading = false := by decide

/-- A delivery to the engine and at ORATE = 1 with a full crossing queue; one to a queue of 63 and of 64 words; a read of an
empty queue and of one with a word that a disable left (R407, R408). -/
theorem test_ai_queue_premises :
    let s (n : Nat) := dev (aiIs 0 { running := true, queue := List.replicate n 1, drain := 1, crossing := [1, 2] })
    ((s 63).chip.aiOf 0).crossing = [1, 2] ∧ (s 63).chip.is (AI_CFG_ORATE 0) = false ∧
    (dev (flds [(AI_CFG_ORATE 0, 1)])).chip.is (AI_CFG_ORATE 0) = true ∧ (s 63).chip.clocked = true ∧ ((s 63).chip.aiOf 0).running = true ∧ ((s 63).chip.aiOf 0).queue.length < 64 ∧
    (s 63).chip.pwr.convOff = false ∧ 64 ≤ ((s 64).chip.aiOf 0).queue.length ∧ ((s 1).chip.aiOf 0).queue = [1] ∧
    0 < ((s 1).chip.aiOf 0).drain ∧ (State.reset.chip.aiOf 0).queue = [] := by decide

/-- An output of a running channel: with a stop pending, while the sketch serves, in recovery, in a fade, in audio mode and in
another, with a response below and beyond full scale (R387, R388, R390, R391, R396). -/
theorem test_decim_premises :
    let s (x : AiChan) := dev (fun c => flds [(AI_CFG_SKETCH 0, 1), (AI_CFG_IE_CLIP 0, 1)] (aiIs 0 x c))
    (s { running := true, stopPend := true }).chip.clocked = true ∧ ((s { running := true, stopPend := true }).chip.aiOf 0).stopPend = true ∧
    ((s { running := true, settle := 1 }).chip.aiOf 0).stopPend = false ∧ 0 < ((s { running := true, settle := 1 }).chip.aiOf 0).settle ∧
    (s { running := true }).chip.is (AI_CFG_SKETCH 0) = true ∧ 0 < ((s { running := true, recover := 1 }).chip.aiOf 0).recover ∧
    ((s { running := true, fading := true, fadeJ := 63 }).chip.aiOf 0).fading = true ∧
    (s { running := true }).chip.is (AI_CFG_IE_CLIP 0) = true ∧ ((s { mode := 0 }).chip.aiOf 0).mode = 0 ∧
    ((s { mode := 1 }).chip.aiOf 0).mode ≠ 0 ∧ (satQ (0x7FFFFF#32).toInt).toInt = (0x7FFFFF#32).toInt ∧
    (satQ (0x800000#32).toInt).toInt ≠ (0x800000#32).toInt := by decide

/-- Serial port p as given. -/
def saIs (p : Nat) (x : SaPort) (c : Chip) : Chip := { c with sa := tabSet c.sa {} p x }

/-- A port with a configuration that R420 takes, one that it refuses, one enabled, one that runs and one whose fade runs. -/
theorem test_sa_enable_premises :
    State.reset.chip.is (SA_CFG_EN 0) = false ∧ State.reset.chip.saConfigOk 0 = true ∧ (dev (flds [(SA_CFG_WL 0, 3)])).chip.saConfigOk 0 = false ∧
    (dev (flds [(SA_CFG_EN 0, 1)])).chip.is (SA_CFG_EN 0) = true ∧ ((dev (saIs 0 { running := true })).chip.saOf 0).running = true ∧
    ((dev (saIs 0 { running := true })).chip.saOf 0).fade = none ∧
    ((dev (saIs 0 { running := true, fade := some 64 })).chip.saOf 0).fade = some 64 ∧
    ((dev (saIs 0 { running := true, fade := some 64 })).chip.saOf 0).zeros = 0 ∧
    0 < ((dev (saIs 0 { running := true, fade := some 64, zeros := 1 })).chip.saOf 0).zeros := by decide

/-- A frame at a master output, at one whose fade is over, at a resampled slave output, at a slave input with a full queue, at a
master input, and at an input that shares a port that does not run (R20, R421, R426, R427). -/
theorem test_sa_frame_premises :
    let s := dev (saIs 0 { running := true })
    let z := dev (saIs 1 { running := true, fade := some 65, zeros := 2 })
    let o := dev (fun c => flds [(SA_CFG_ROLE 0, 1)] (saIs 0 { running := true, queue := [[1, 2], [3, 4]] } c))
    let v := dev (fun c => flds [(SA_CFG_ROLE 2, 1)] (saIs 2 { running := true, queue := List.replicate 32 [1, 2], host := [7] } c))
    let m := dev (saIs 3 { running := true })
    let h := dev (fun c => flds [(SA_CFG_SHARE 2, 1)] (saIs 2 { running := true } c))
    (s.chip.saOf 0).running = true ∧ (s.chip.saOf 0).lost = false ∧ s.chip.saResamples 0 = false ∧ (s.chip.saOf 0).fade ≠ some 65 ∧
    (z.chip.saOf 1).fade = some 65 ∧ o.chip.saResamples 0 = true ∧ (o.chip.saOf 0).queue = [1, 2] :: [[3, 4]] ∧
    (v.chip.saOf 2).running = true ∧ v.chip.saSlave 2 = true ∧
    (v.chip.saOf 2).queue.length = 32 ∧ (m.chip.saOf 3).running = true ∧ m.chip.saSlave 3 = false ∧ (v.chip.saOf 2).host = [7] ∧
    (m.chip.saOf 3).host = [] ∧ (dev (flds [(SA_STAT_LOCK 2, 1)])).chip.is (SA_STAT_LOCK 2) = true ∧
    (h.chip.is (SA_CFG_SHARE 2) = true ∧ (h.chip.saOf 0).running = false) ∧ v.chip.saActsSlave 2 = true ∧
    m.chip.saActsSlave 3 = false := by decide

/-- An output whose running input shares its clocks and loop, and that input; an output and an input whose loop was lost, and a loop
that has not locked again (R421, R427, R429). -/
theorem test_sa_share_premises :
    let s := dev (fun c => flds [(SA_CFG_ROLE 0, 1), (SA_CFG_SHARE 2, 1), (SA_STAT_LOCK 2, 1)] (saIs 2 { running := true }
      (saIs 0 { running := true, lost := true, hold := true, queue := List.replicate 9 [1, 2] } c)))
    let i := dev (fun c => flds [(SA_CFG_ROLE 3, 1)] (saIs 3 { running := true, lost := true } c))
    s.chip.saSharer 0 = true ∧ s.chip.saShared 2 = true ∧ s.chip.saActsSlave 0 = true ∧ s.chip.saActsSlave 2 = true ∧
    (s.chip.saOf 0).lost = true ∧ s.chip.saResamples 0 = true ∧ (s.chip.saOf 0).hold = true ∧ (s.chip.saOf 0).good < 15 ∧
    (s.chip.saOf 2).running = true ∧ s.chip.is (SA_STAT_LOCK 2) = true ∧ s.chip.saSlave 0 = true ∧ (i.chip.saOf 3).lost = true ∧
    i.chip.saSlave 3 = true ∧ State.reset.chip.saSharer 0 = false ∧ State.reset.chip.saSlave 0 = false ∧
    (dev (fun c => flds [(SA_CFG_SHARE 2, 1)] (saIs 2 { running := true } c))).chip.saSharer 0 = true := by decide

/-- A channel whose outputs are resampled and one whose are not (R398). -/
theorem test_ai_resamples :
    State.reset.chip.aiResamples 0 1 = decide (aiFdCycles 1 ≠ State.reset.chip.smpCycles) ∧
    (∃ d, d < 4 ∧ State.reset.chip.aiResamples 0 d = true) ∧ (dev (flds [(AI_CFG_ORATE 0, 1)])).chip.aiResamples 0 0 = false := by decide

/-- The loop of a slave: at the edges of its locks, settled on a master at nominal, not yet settled, and with a master 2,000 ppm and
more away (R402, R403). -/
theorem test_sa_loop_premises :
    let s (x : SaPort) := (dev (fun c => flds [(SA_CFG_ROLE 2, 1), (SA_STAT_LOCK 2, 1)] (saIs 2 x c))).chip
    let c := s { running := true, good := 15, steady := 100000000 }
    let nom := c.saNominal 2
    c.saSlave 2 = true ∧ c.saShared 2 = false ∧ (8#16).toInt.natAbs ≤ 8 ∧ 15 ≤ (c.saOf 2).good ∧ 256 < (257#16).toInt.natAbs ∧
    (256#16).toInt.natAbs ≤ 256 ∧ c.is (SA_STAT_LOCK 2) = true ∧ c.saSettle 2 ≤ (c.saOf 2).steady ∧
    ¬((s { running := true }).saSettle 2 ≤ ((s { running := true }).saOf 2).steady) ∧ 0 < nom ∧ nom < 2 ^ 32 ∧
    ¬(nom + 2 * (nom * 2000 / 1000000) ≤ nom + nom * 2000 / 1000000) ∧ (dev id).chip.is (SA_STAT_LOCK 2) = false := by decide +kernel

/-! ### Parts -/

/-- Parts to create and destroy: no primer, part 0, one in being, one whose template the palette lacks (R301, R328). -/
theorem test_part_premises :
    let c := (dev playing).chip
    c.clocked = true ∧ State.reset.chip.pal.loaded = false ∧ c.pal.loaded = true ∧ (1 : BitVec 6) ≠ 0 ∧ (c.part 1).exists_ = true ∧
    (c.part 2).exists_ = false ∧ c.pal.tmpl (c.fld (PAL_PCFG_TEMPLATE 2)) ≠ none ∧
    (dev fun c => flds [(PAL_PCFG_TEMPLATE 63, 9)] (playing c)).chip.pal.tmpl 9 = none := by decide

/-- A destroyed part whose voices glaze at the boundary after, and at the destroy's own sample; an event of its in the store. -/
theorem test_part_glaze_premises :
    let at_ (n : Nat) := dev fun c => ((playing c).updPart 1 fun x => { x with exists_ := false, destroyAt := some n }).setSlot 0
      { slot1 with voice := some { voice1 with part := 0 } }
    let e : Ev := { op := 1, part := 1, ts := 200 }
    ((at_ 99).chip.part 1).destroyAt = some 99 ∧ 99 < (at_ 99).chip.clk.smp ∧ (at_ 100).chip.clk.smp ≤ 100 ∧
    (0, { voice1 with part := 0 }) ∈ (at_ 99).chip.voicesIn ∧ ((at_ 99).chip.slot 0).pend = none ∧ ((at_ 99).chip.slot 0).part = 1 ∧
    0 ∈ ((at_ 99).chip.slot 0).mates ∧
    (∀ q ∈ (at_ 99).chip.voicesIn, 0 ∈ ((at_ 99).chip.slot q.1).mates → q = (0, { voice1 with part := 0 })) ∧
    e ∈ (dev fun c => { playing c with ez := { c.ez with store := [e] } }).chip.ez.store := by decide

/-! ### Outputs -/

/-- Audio channel k as given. -/
def aoIs (k : Nat) (x : AoChan) (c : Chip) : Chip := { c with ao := tabSet c.ao {} k x }

/-- The engine has started, so outputs may rise: every state of R361, the ramps at their ends and one step before. -/
theorem test_ao_premises :
    let s (x : AoChan) := dev fun c => aoIs 0 x (runs c)
    let c := (s {}).chip
    (c.clk.started = true ∧ c.pwr.convOff = false ∧ c.pwr.waitStart = false ∧ c.pwrState = 0) ∧ (c.aoOf 0).st = .clamped ∧
    State.reset.chip.clk.started = false ∧ c.clocked = true ∧ c.is (AO_CTL_EN 0) = true ∧ c.aoFull = 3840 ∧
    ((s { st := .rising, legs := 3840 }).chip.aoOf 0).legs = 3840 ∧ ((s { st := .fadeIn, j := 64 }).chip.aoOf 0).j = 64 ∧
    ((s { st := .fadeOut, j := 63 }).chip.aoOf 0).st = .fadeOut ∧ ((s { st := .falling }).chip.aoOf 0).legs = 0 ∧
    ((s { st := .muted }).chip.aoOf 0).st = .muted ∧ ((s { st := .live, att := 3 }).chip.aoOf 0).st = .live := by decide +kernel

/-- CV channel k as given. -/
def cvIs (k : Nat) (x : CvChan) (c : Chip) : Chip := { c with cv := tabSet c.cv {} k x }

/-- An update of a clamped channel with a code written, of a driving one whose host write is due, one whose span needs a higher
band, one with a clamp requested, one that lost its band for a while, one in its disable ramp at its last step (R367 to R377). -/
theorem test_cv_update_premises :
    let c0 := fun c => flds [(CV_CFG_EN 0, 1)] (runs c)
    let s (x : CvChan) := dev fun c => cvIs 0 x (c0 c)
    let c := (s { written := true, hostPend := some 99 }).chip
    let v := (dev fun c => flds [(CV_CFG_SPAN 0, 1)] (cvIs 0 { st := .driving } (c0 c))).chip
    (∃ n, (c.cvOf 0).hostPend = some n ∧ n < c.clk.smp) ∧ (c.cvOf 0).written = true ∧ c.fld (CV_CFG_SRC 0) = 0 ∧
    (spanBand (c.fld (CV_CFG_SPAN 0)) ≤ c.fld CV_STAT_VINBAND ∧ (spanBipolar (c.fld (CV_CFG_SPAN 0)) = true → c.is CV_STAT_VNEG_OK = true) ∧
      c.pwr.convOff = false ∧ (c.cvOf 0).lost = false) ∧
    (c.is (CV_CFG_EN 0) = true ∧ c.pwr.waitStart = false ∧ c.pwrState = 0) ∧ (c.cvOf 0).st = .clamped ∧ (c.cvOf 0).timed = false ∧
    ¬(spanBand (v.fld (CV_CFG_SPAN 0)) ≤ v.fld CV_STAT_VINBAND) ∧ (v.cvOf 0).st = .driving ∧
    ((s { st := .driving, clampReq := true }).chip.cvOf 0).clampReq = true ∧
    ((s { st := .driving, bandReq := true }).chip.cvOf 0).bandReq = true ∧ (v.cvOf 0).bandReq = false ∧ ((s { st := .ramp, rampJ := 63 }).chip.cvOf 0).st = .ramp ∧
    ((s { hostPend := some 100 }).chip.cvOf 0).hostPend ≠ none :=
  ⟨⟨99, by decide, by decide⟩, by decide, by decide, by decide, by decide, by decide, by decide, by decide, by decide, by decide, by decide,
    by decide, by decide, by decide⟩

/-- The other sources: a sink, exports with the channel enabled and not, a generator (R368, R369, R380). -/
theorem test_cv_sources :
    let s (n : Nat) (l : List CvExport) := (dev fun c => { flds [(CV_CFG_EN 0, 1), (CV_CFG_SRC 0, n), (CV_CFG_GSEL 0, 2)] (runs c) with cvNow := l }).chip
    let e : CvExport := { chan := 0, low := 3, port := 0, value := 1 }
    let exports (c : Chip) := c.cvNow.filter fun e => decide (e.chan = 0) && c.is (CV_CFG_EN 0)
    (s 1 []).fld (CV_CFG_SRC 0) = 1 ∧ exports (s 2 []) = [] ∧ exports ((s 2 [e]).clr (CV_CFG_EN 0)) = [] ∧
    2 ≤ (exports (s 2 [e, { e with low := 4 }])).length ∧ (s 3 []).fld (CV_CFG_SRC 0) = 3 ∧
    (s 3 []).fld (CV_CFG_GSEL 0) = 2 := by decide

/-- Spans refused at 6 and for the band, and accepted; the ends of a timed clamp, a ramp and a hold; a mask (R365, R371 to R379). -/
theorem test_cv_command_premises :
    let s (x : CvChan) := dev (cvIs 0 x)
    State.reset.chip.clocked = true ∧ 6 ≤ (6#3).toNat ∧ State.reset.chip.fld CV_STAT_VINBAND < (5#3).toNat % 3 ∧ (3#3).toNat < 6 ∧
    (3#3).toNat % 3 ≤ State.reset.chip.fld CV_STAT_VINBAND ∧ ((s { st := .driving }).chip.cvOf 0).st = .driving ∧
    ((s { timed := true }).chip.cvOf 0).timed = true ∧ ((s { st := .ramp, rampJ := 64 }).chip.cvOf 0).rampJ = 64 ∧
    ((s { st := .ramp, rampJ := 63 }).chip.cvOf 0).rampJ < 64 ∧ ((s { hold := true }).chip.cvOf 0).hold = true ∧
    (1#32).getLsbD 0 = true ∧ (dev (flds [(CV_STAT_PUMPFORCE, 1)])).chip.pumpNeed = true ∧ State.reset.chip.pumpNeed = false := by decide

/-- The rail and the pump: VNEG_OK set with a driving channel of a bipolar span, a stop of the pump due and not (R378). -/
theorem test_cv_rail_premises :
    (dev (flds [(CV_STAT_VNEG_OK, 1)])).chip.is CV_STAT_VNEG_OK = true ∧
    ((dev (cvIs 1 { st := .driving })).chip.cvOf 1).st = .driving ∧
    spanBipolar ((dev (flds [(CV_CFG_SPAN 1, 3)])).chip.fld (CV_CFG_SPAN 1)) = true ∧ (dev fun c => { c with pumpStop := true }).chip.pumpStop = true ∧
    State.reset.chip.pumpStop = false ∧ (dev (flds [(CV_STAT_PUMP, 1)])).chip.is CV_STAT_PUMP = true := by decide

/-- A group with two driving channels: a second and a third difference of channel 2 (R564); and a spare in use. -/
theorem test_cv_check_premises :
    let s (n : Nat) := dev fun c => { cvIs 2 { st := .driving } (cvIs 5 { st := .driving } c) with
      cvg := [(0, { next := 1, fails := [(2, n)] })] }
    let g := (s 2).chip.cvGrp 0
    (s 2).chip.clocked = true ∧ (s 2).chip.is RST_CCFG_CVEN = true ∧ (s 2).chip.is (CV_GCTL_SPUSE 0) = false ∧ g.spareBad = false ∧
    (s 2).chip.cvNextDriving 0 g.next = some 2 ∧ 3 ≤ tabGet g.fails 0 2 + 1 ∧ tabGet ((s 1).chip.cvGrp 0).fails 0 2 + 1 < 3 ∧
    (s 2).chip.cvNextDriving 0 ((2 + 1) % 8) = some 5 ∧ (5 : Nat) ≠ 2 ∧ State.reset.chip.cvNextDriving 0 0 = none ∧
    (dev (flds [(CV_GCTL_SPUSE 0, 1)])).chip.is (CV_GCTL_SPUSE 0) = true ∧
    (let u := { s 2 with chip := (s 2).chip.set1 (CV_GCTL_SPUSE 0) }
     u.chip.is (CV_GCTL_SPUSE 0) = true ∧ u.chip.cvNextDriving 0 (u.chip.cvGrp 0).next = some 2 ∧
     u.chip.cvNextDriving 0 3 = some 5 ∧ 3 ≤ tabGet (u.chip.cvGrp 0).fails 0 2 + 1) := by decide

/-! ### Banks, flash and streams -/

/-- A buffered write to land, with banks awake and in retention, and one of the row group that a step holds (R443, R445, R450). -/
theorem test_buffer_premises :
    let a : Nat := 0x1000004
    let s := dev fun c => { rmIs { wbuf := [(a, 7)] } c with rep := { c.rep with step := { on := true, bank := 0, group := 0 } } }
    let s' := dev (rmIs { wbuf := [(a, 7)], retained := true })
    s.chip.clocked = true ∧ (s.chip.rm 0).wbuf = [(a, 7)] ∧ (s.chip.rm 0).retained = false ∧ (s'.chip.rm 0).retained = true ∧
    0x1000000 ≤ a ∧ a % 4 = 0 ∧ s.chip.rep.step.on = true ∧ bankOf a = s.chip.rep.step.bank ∧
    bankWord a / 256 = s.chip.rep.step.group ∧ (State.reset.chip.rm 0).wbuf = [] := by decide

/-- Fences with nothing before them, with a write before them, and none; banks on their way awake (R444, R445). -/
theorem test_fence_premises :
    let f : FenceWait := { dma := false, left := 0, count := 3 }
    let s (f : FenceWait) := dev (rmIs { fences := [f] })
    ((s f).chip.rm 0).fences = [f] ∧ f.left = 0 ∧ ((s { f with left := 1 }).chip.rm 0).fences ≠ [f] ∧
    (State.reset.chip.rm 0).fences = [] ∧ ((dev (rmIs { waking := true, retained := true })).chip.rm 0).waking = true ∧
    (State.reset.chip.rm 0).waking = false ∧ (State.reset.chip.rm 0).retained = false := by decide

/-- The Restorer may step, and waits with EN = 0, in a step, with banks in retention and in Hold's entry (R448, R450). -/
theorem test_restorer_premises :
    let c := State.reset.chip
    c.is RST_CFG_EN = true ∧ c.rep.step.on = false ∧ (c.rm (c.fld RST_POS_BANK / 2)).retained = false ∧
    c.boot.loading.isSome = false ∧ c.pwrState = 0 ∧ (dev (flds [(RST_CFG_EN, 0)])).chip.is RST_CFG_EN = false ∧
    ((dev (rmIs { retained := true })).chip.rm 0).retained = true ∧ (dev (power 1)).chip.pwrState ≠ 0 := by decide

/-- A step that waits for a load; a word with each error mark, read by port B with no write waiting for it; row groups that are not
the last and that are (R446, R447, R449). -/
theorem test_ecc_premises :
    let a := bankAddr 3 7
    let m (k : Nat) : State := { State.reset with mem := { State.reset.mem with ecc := [(3 * 2 ^ 19 + 7, k)] } }
    (m 1).mem.ErrAt a 1 ∧ (m 2).mem.ErrAt a 2 ∧ State.reset.mem.ErrAt a 0 ∧ ¬State.reset.mem.ErrAt a 2 ∧
    ((m 1).chip.rm (bankRegion a)).wbuf = [] ∧ ((m 1).chip.rm (bankRegion a)).retained = false ∧
    (m 1).chip.ringFills (bankRegion a) (contentWord a) = false ∧ (dev (bootIs { loading := some (0, 0) })).chip.boot.loading.isSome = true ∧
    State.reset.chip.fld RST_POS_GROUP < 2047 ∧ (dev (flds [(RST_POS_GROUP, 2047)])).chip.fld RST_POS_GROUP = 2047 := by
  unfold MemState.ErrAt; decide +kernel

/-- Reads of a step's March test: of run 0, element 1 of words 0 and 255 as written, and one with bit 38 flipped; of run 1 (R451). -/
theorem test_march :
    failedRows [⟨false, 0, 0, 0⟩, ⟨false, 1, 255, BitVec.allOnes 39⟩] = [] ∧ failedRows [⟨false, 0, 255, 0x4000000000⟩] = [3] ∧
    failedRows [⟨true, 0, 0, 0x2AAAAAAAAA⟩] = [] ∧ failedRows [⟨true, 0, 64, 0x2AAAAAAAAA⟩] = [1] := by decide

/-- A step that ends at the last group but one, at the last, and at the last of the last bank, with one failed row (R450, R451). -/
theorem test_restorer_done_premises :
    let p (b g : Nat) := (dev fun c => { c with
      rep := { c.rep with step := { on := true, bank := b, group := g, save := List.replicate 256 0 } } }).chip
    (p 0 2046).rep.step.on = true ∧ (p 0 2046).rep.step.bank < 8 ∧ (p 0 2046).rep.step.group < 2047 ∧
    (p 0 2047).rep.step.group = 2047 ∧ (p 0 2047).rep.step.group < 2048 ∧ (p 7 2047).rep.step.bank = 7 ∧
    (p 0 0).rep.step.save.length = 256 ∧ failedRows [⟨false, 0, 255, 0x4000000000⟩] = [3] := by decide +kernel

/-- A bank with no spare row named, one with its lowest named, and one with all 32 (R452). -/
theorem test_spare_row_premises :
    let q (i : Nat) : Repair := ⟨1, 7, i, i, 0, 1⟩
    sparesOf [] 0 = [] ∧ 0 ∈ sparesOf [q 0] 7 ∧ 1 ∉ sparesOf [q 0] 7 ∧ (∀ i, i < 32 → i ∈ sparesOf ((List.range 32).map q) 7) := by decide +kernel

/-- A program whose bytes run past the end of its page, erases, and a command that ends; one that runs (R457, R458). -/
theorem test_flash_premises :
    let o : XsOp := { op := 1, addr := 0x1FE, data := [1, 2, 3] }
    let s (o : XsOp) := dev fun c => { flds [(XS_STAT_CBUSY 0, 1)] c with rep := { c.rep with xs0 := { op := some o } } }
    (s o).chip.clocked = true ∧ ((s o).chip.xs 0).op = some o ∧ o.op = 1 ∧ o.data.length ≤ 256 ∧ ((s { o with op := 2 }).chip.xs 0).op ≠ none ∧
    (s o).chip.is (XS_STAT_CBUSY 0) = true ∧ State.reset.chip.is (XS_STAT_CBUSY 0) = false ∧ (State.reset.chip.xs 0).op = none ∧
    ((dev fun c => { c with rep := { c.rep with xs0 := { buf := [9] } } }).chip.xs 0).buf.length = 1 := by decide

/-- The fourth failed read in a row of a port that may fall back, and the third (R455). -/
theorem test_fallback_premises :
    let s (n : Nat) := dev fun c => { flds [(XS_CFG_AUTOFB 0, 1), (XS_CFG_PROTO 0, 1)] c with rep := { c.rep with xs0 := { fails := n } } }
    (s 3).chip.clocked = true ∧ 3 ≤ ((s 3).chip.xs 0).fails ∧ (s 3).chip.is (XS_CFG_AUTOFB 0) = true ∧
    ¬(3 ≤ ((s 2).chip.xs 0).fails) := by decide

/-- A stream of port XA and a ring that plays it. -/
def stream0 : StreamRec :=
  { id := 5, port := 0, format := 0, channels := 1, offset := 0x1000, frames := 5000, loopStart := 0, loopEnd := 4999, rate := 48000 }

/-- A ring that waits for its second chunk. -/
def ring0 : Ring := { block := 0, slot := 0, op := 0, stream := 5, start := 0, want := [1] }

/-- A head fetch, a refill and nothing to serve; a port whose flash is busy (R460, R461). -/
theorem test_stream_premises :
    let s (l : List (Nat × Nat)) := dev fun c => { rmIs { rings := [(0, some ring0)], heads := l } c with
      pal := { palette0 with streams := [stream0] } }
    (s []).chip.clocked = true ∧ (s [(0, 0)]).chip.nextHead 0 = some (0, 0, 0) ∧ (s []).chip.nextHead 0 = none ∧
    (s []).chip.nextRefill 0 = some (0, 0, 1) ∧ tabGet ((s []).chip.rm 0).rings none 0 = some ring0 ∧
    ((s []).chip.pal.streams.find? fun z => decide (z.id = ring0.stream)) = some stream0 ∧
    State.reset.chip.is (XS_STAT_FBUSY 0) = false ∧ State.reset.chip.is (XS_STAT_NODEV 0) = false ∧ State.reset.chip.nextRefill 0 = none ∧
    (dev (flds [(XS_STAT_FBUSY 0, 1)])).chip.is (XS_STAT_FBUSY 0) = true := by decide +kernel

/-- A buffered write and reads that meet no word of a ring being written, and one that may: its ring waits for the chunk (R440 to
R442). -/
theorem test_ports_meet_premises :
    let a := contentAddr 0 (0xC0000 + 256)
    let s (l : List (Nat × Word)) := dev (rmIs { rings := [(0, some ring0)], wbuf := l })
    let h := dev fun c => { rmIs { rings := [(0, some { ring0 with late := [(a, 9)] })] } c with
      rep := { c.rep with step := { on := true, bank := bankOf a, group := bankWord a / 256 } } }
    bankRegion a = 0 ∧ (s []).chip.ringFills 0 (contentWord a) = true ∧ (s []).chip.ringFills 0 (contentWord 0x1000000) = false ∧
    (s []).chip.portAReads 0 (contentWord 0x1000000) = false ∧ (∃ p ∈ ((s [(a, 1)]).chip.rm 0).wbuf, p.1 = a) ∧
    (s []).chip.ringAt 0 (contentWord a) = some ring0 ∧ (s []).chip.ringAt 0 (contentWord 0x1000000) = none ∧
    tabGet (h.chip.rm 0).rings none 0 = some { ring0 with late := [(a, 9)] } ∧ h.chip.rep.step.bank = bankOf a := by decide +kernel

/-! ### The DMA engine -/

/-- Channel 3 with its registers and a state. -/
def dmaDev (src dst cnt st : Nat) (l : List (Field × Nat)) : State :=
  dev fun c => { flds ([(regField (DMAn_SRC 3), src), (regField (DMAn_DST 3), dst), (DMAn_CNT_CNT 3, cnt), (DMAn_STAT_STATE 3, st)
    , (DMAn_CFG_SINC 3, 1), (DMAn_CFG_DINC 3, 1)] ++ l) c with dma := [(3, { full := cnt })] }

/-- Starts that take: from below an overlap's edge, and one that R472 refuses for each reason. -/
theorem test_dma_start_premises :
    let fl (s : State) (f : Field) := s.chip.fld f
    let ok := dmaDev 0x1000000 0x1000020 8 0 []
    let w1 := dmaDev 0x1000000 0x100001C 8 0 [(DMAn_CFG_ILV 3, 1), (DMAn_CFG_WAYS 3, 1)]
    let w2 := dmaDev 0x1000002 0x1000020 8 0 []
    let w3 := dmaDev 0x1000000 0x0BFFFFFC 8 0 []
    let w4 := dmaDev 0x1000000 0x1000020 0 0 []
    let w6 := dmaDev 0x1000000 0x100001C 8 0 [(DMAn_CFG_DINC 3, 0)]
    ok.chip.clocked = true ∧ ok.chip.dmaActive 3 = false ∧ ¬(0x1000000 < 0x1000020 + 4 * 8 ∧ 0x1000020 < 0x1000000 + 4 * fl ok (DMAn_CNT_CNT 3)) ∧
    fl w1 (DMAn_CFG_ILV 3) = 1 ∧ (0x100001C < 0x1000000 + 4 * fl w1 (DMAn_CNT_CNT 3)) ∧ (w2.chip.reg (DMAn_SRC 3)).toNat % 4 ≠ 0 ∧
    (w3.chip.reg (DMAn_DST 3)).toNat ≤ 0x0BFFFFFF ∧ 0x04000000 ≤ (w3.chip.reg (DMAn_DST 3)).toNat ∧ fl w4 (DMAn_CNT_CNT 3) = 0 ∧
    w6.chip.is (DMAn_CFG_SINC 3) ≠ w6.chip.is (DMAn_CFG_DINC 3) ∧ fl w6 (DMAn_CFG_ILV 3) = 0 ∧
    (dmaDev 0 0 1 1 []).chip.dmaActive 3 = true := by decide

/-- A burst of a channel that needs no request, with its sources and destinations in the banks, and one whose source lies outside
the map (R467, R475, R481). -/
theorem test_dma_burst_premises :
    let s := dmaDev 0x1000000 0x1400000 2 1 [(DMAn_CFG_BURST 3, 1)]
    let o := dmaDev 0x10000000 0x1400000 2 1 [(DMAn_CFG_BURST 3, 1)]
    s.chip.dmaNext = some 3 ∧ (s.chip.dmaOf 3).full ≠ 0 ∧ (∀ i, i < 2 → s.chip.bankOpen (s.chip.dmaAddrs 3 i).2) ∧
    (∀ i, i < 2 → s.chip.bankOpen (s.chip.dmaAddrs 3 i).1) ∧ min (2 ^ s.chip.fld (DMAn_CFG_BURST 3)) (s.chip.fld (DMAn_CNT_CNT 3)) = 2 ∧
    o.chip.dmaNext = some 3 ∧ placeOf (o.chip.dmaAddrs 3 0).1 = .outside ∧ State.reset.chip.dmaNext = none := by
  refine ⟨by decide +kernel, by decide, ?_, ?_, by decide, by decide +kernel, by decide, by decide +kernel⟩ <;>
    (intro i hi; have : i = 0 ∨ i = 1 := by omega
     rcases this with rfl | rfl <;> exact ⟨by decide, by decide, by decide, by decide, by decide⟩)

/-- Buffered writes of region 0 to its own banks. -/
theorem test_buffers_sound : (dev (rmIs { wbuf := [(0x13FFFFC, 1)] })).chip.buffersSound := by
  intro r hr p hp
  have h : r = 0 ∨ r = 1 ∨ r = 2 ∨ r = 3 := by omega
  rcases h with rfl | rfl | rfl | rfl <;> revert p <;> decide

/-! ### Timers, triggers and the tempo clock -/

/-- A timer at its maximum with the next chained to it, one that holds, and a repeating one (R486 to R491). -/
theorem test_timer_premises :
    let s := dev (flds [(TMRn_CFG_CLK 3, 1), (TMRn_CTL_RUN 3, 1), (regField (TMRn_CNT 3), 0xFFFFFFFF), (TMRn_CFG_CLK 4, 5)
      , (TMRn_CTL_RUN 4, 1), (TMRn_CFG_PEREN 3, 1), (TMRn_CTL_IE 3, 0x3F)])
    let c := s.chip
    c.clocked = true ∧ c.fld (TMRn_CFG_CLK 3) = 1 ∧ c.is (TMRn_CTL_RUN 3) = true ∧ c.reg (TMRn_CNT 3) = 0xFFFFFFFF ∧
    c.fld (TMRn_CFG_CLK (3 + 1)) = 5 ∧ State.reset.chip.is (TMRn_CTL_RUN 0) = false ∧ c.is (TMRn_CFG_PEREN 3) = true ∧
    c.is (TMRn_CFG_PEREN 2) = false ∧ (c.fld (TMRn_CTL_IE 3)).testBit 5 = true ∧ (1 : Word) ≠ c.reg (TMRn_CNT 3) := by decide

/-- A repeating compare one tick ahead of the counter, and at it (R491); a capture not yet read (R493). -/
theorem test_timer_compare_premises :
    let c := (dev (flds [(regField (TMRn_CNT 0), 9), (TMRn_CFG_PEREN 0, 1), (TMRn_STAT_CAP_NEW 0, 1)])).chip
    0 < timeDiff (0 + 10) (c.reg (TMRn_CNT 0)) ∧ timeDiff (0 + 9) (c.reg (TMRn_CNT 0)) ≤ 0 ∧ (9 : Word) ≠ 0 ∧
    c.is (TMRn_STAT_CAP_NEW 0) = true ∧ c.is (TMRn_STAT_CAP_NEW 1) = false ∧ c.is (TMRn_CFG_PEREN 0) = true := by decide

/-- A pulse on line 31 that a DMA channel waits for with one pending, that starts timer 2 and that timer 1 captures (R485, R487). -/
theorem test_trigger_premises :
    let c := (dev fun c => { flds [(DMAn_CFG_REQ 3, 63), (DMAn_STAT_STATE 3, 1), (TMRn_CFG_STRG 2, 31), (TMRn_CFG_SMODE 2, 3)
      , (TMRn_IO_CAPSRC 1, 1), (TMRn_IO_CAPTRG 1, 31)] c with dma := [(3, { pulse := true, full := 1 })] }).chip
    c.clocked = true ∧ c.fld (DMAn_CFG_REQ 3) = 32 + 31 ∧ c.fld (DMAn_STAT_STATE 3) = 1 ∧ (c.dmaOf 3).pulse = true ∧
    c.fld (TMRn_CFG_STRG 2) = 31 ∧ c.fld (TMRn_CFG_SMODE 2) = 3 ∧ c.fld (TMRn_IO_CAPSRC 1) = 1 ∧ c.fld (TMRn_IO_CAPTRG 1) = 31 ∧
    (c.fld (TMRn_CFG_CLK 1) ≠ 3 ∧ c.fld (TMRn_CFG_CLK 1) ≠ 5) := by decide

/-- A first pulse of a cycle with another line raised, and a later pulse of the same cycle (R485); a timer that counts
samples (R486). -/
theorem test_cycle_premises :
    let c := (dev fun c => { flds [(TMRn_CFG_CLK 3, 2), (TMRn_CTL_RUN 3, 1)] c with trg := [3, 5] }).chip
    let d := (dev fun c => { c with trg := [5], trgNow := [7] }).chip
    c.trgNow = [] ∧ c.trg = [3, 5] ∧ d.trgNow ≠ [] ∧ d.trg = [5] ∧ c.fld (TMRn_CFG_CLK 3) = 2 ∧ c.is (TMRn_CTL_RUN 3) = true ∧
    (c.fld (TMRn_CFG_CLK 2) ≠ 2 ∧ c.fld (TMRn_CFG_CLK 2) ≠ 5) := by decide

/-- A rising edge on pin 7 that ticks timer 1 and timer 2 captures; a level that does not change (R34, R486, R493). -/
theorem test_edge_premises :
    let c := (dev (flds [(TMRn_IO_IPIN 1, 7), (TMRn_CFG_CLK 1, 4), (TMRn_CTL_RUN 1, 1), (TMRn_IO_IPIN 2, 7), (TMRn_IO_CAPSRC 2, 2)])).chip
    c.gpIn.getLsbD 7 ≠ true ∧ c.gpIn.getLsbD 7 = false ∧ (c.fld (TMRn_IO_IPIN 1) = 7 ∧ c.is (TMRn_IO_IEDGE 1) = !true) ∧
    c.fld (TMRn_CFG_CLK 1) = 4 ∧ c.is (TMRn_CTL_RUN 1) = true ∧ c.fld (TMRn_IO_IPIN 2) = 7 ∧ c.fld (TMRn_IO_CAPSRC 2) = 2 := by decide

/-- The internal tempo clock on a beat that is due and one sample before it, and an external source (R496 to R498). -/
theorem test_tempo_premises :
    let s (n : Nat) := (dev fun c => { flds [(TMR_TBEAT_RUN, 1), (TMR_TCFG_KEN, 1), (TMR_TCFG_BEN, 1), (regField TMR_TPOS, 24)] (runs c) with
      tempo := { c.tempo with beatAt := n } }).chip
    let x := (dev fun c => { flds [(TMR_TCFG_SRC, 1), (TMR_TBEAT_RUN, 1)] (runs c) with tempo := { c.tempo with lastBeat := some 90 } }).chip
    (s 100).clocked = true ∧ (s 100).fld TMR_TCFG_SRC = 0 ∧ (s 100).is TMR_TBEAT_RUN = true ∧ ((s 100).reg TMR_TPOS).toNat % 24 = 0 ∧
    (s 100).tempo.beatAt + ((24 % 24 * 24000 / 24 : Nat) : Int) ≤ ((s 100).clk.smp : Int) ∧
    ¬((s 101).tempo.beatAt ≤ ((s 101).clk.smp : Int)) ∧ (s 100).is TMR_TCFG_KEN = true ∧ (s 100).is TMR_TCFG_BEN = true ∧
    ¬(x.fld TMR_TCFG_SRC = 0 ∨ 5 ≤ x.fld TMR_TCFG_SRC) ∧ x.tempo.lastBeat = some 90 ∧ State.reset.chip.is TMR_TBEAT_RUN = false := by decide

/-! ### The host port, register writes and the event controller -/

/-- Words posted to an empty queue and to one with two places left, a misaligned address, and Hold (R505, R512, R657). -/
theorem test_host_write_premises :
    let p : Posted := { txn := 1, addr := 0x1000000, value := 0, counted := false }
    let s (n : Nat) := dev fun c => { c with host := { c.host with queue := List.replicate n p } }
    (s 62).chip.portOpen = true ∧ (0x100 : Word).toNat % 4 = 0 ∧ (0x102 : Word).toNat % 4 ≠ 0 ∧ (s 62).chip.pwrState < 2 ∧
    (s 62).chip.host.queue.length ≤ 64 ∧ ([1, 2] : List Word).length ≤ 64 - (s 62).chip.host.queue.length ∧
    64 - (s 62).chip.host.queue.length < ([1, 2, 3] : List Word).length ∧ (dev (power 2)).chip.portOpen = true ∧
    2 ≤ (dev (power 2)).chip.pwrState ∧ (0x100 : Word).toNat ≠ PWR_CTL := by decide +kernel

/-- A posted word for a register, one for a bank whose region's buffer is full, and one outside the map, counted and not (R657). -/
theorem test_posted_premises :
    let s (a : Word) (n : Bool) := dev fun c => { rmIs { wbuf := List.replicate 32 (0x1000000, 1) } c with
      host := { c.host with queue := [{ txn := 1, addr := a, value := 5, counted := n }] } }
    let q (a : Word) := dev fun c => { c with host := { c.host with queue := [{ txn := 1, addr := a, value := 5, counted := false }] } }
    (s 0x1000004 false).chip.clocked = true ∧ (s 0x1000004 false).chip.host.queue = [{ txn := 1, addr := 0x1000004, value := 5, counted := false }] ∧
    (s 0x1000004 false).chip.bankRefused .host 0x1000004 = false ∧ 32 ≤ ((s 0x1000004 false).chip.rm (bankRegion 0x1000004)).wbuf.length ∧
    HST_CFG % 4 = 0 ∧
    ((let c := (q (BitVec.ofNat 32 HST_CFG)).chip
      { (q (BitVec.ofNat 32 HST_CFG)) with chip := { c with host := { c.host with queue := [], landed := 1 } } : State }).busWrite .host HST_CFG 5).1
      = false ∧ placeOf 0x0C000000 = .outside ∧
    ¬(0x1000000 ≤ HST_CFG) := by decide +kernel

/-- Addresses of each place at its edges (R8, R436, R641, R642). -/
theorem test_places :
    placeOf 0xBFFC = .register ∧ placeOf 0xC000 = .unassigned ∧ placeOf 0x10000 = .region ∧ placeOf 0x100000 = .param ∧
    placeOf 0x163FFC = .param ∧ placeOf 0x164000 = .outside ∧ placeOf 0x1000000 = .bank ∧ placeOf 0x1FFFFFC = .bank ∧
    placeOf 0x2000000 = .outside ∧ placeOf 0x4000000 = .window 0 ∧ placeOf 0xBFFFFFC = .window 1 ∧ placeOf 0xC000000 = .outside := by decide

/-- A plain register, a bank word refused in protected content, and a region's buffer with its last place free (R8, R443, R580). -/
theorem test_register_write_premises :
    let p := dev fun c => { c with saf := { c.saf with prot := true } }
    let b := dev (rmIs { wbuf := List.replicate 31 (0x1000000, 1) })
    HST_CFG ∈ plainRegs ∧ (findReg HST_CFG).isSome = true ∧ p.chip.bankRefused .host 0x1000000 = true ∧
    b.chip.bankRefused .host 0x13FFFFC = false ∧ (b.chip.rm (bankRegion 0x13FFFFC)).wbuf.length < 32 ∧ b.chip.clocked = true := by
  decide +kernel

/-- A W1C bit that a write clears, and one whose setting event falls in the write's cycle (R10). -/
theorem test_w1c :
    let s := dev (flds [(evBit 3, 1), (evBit 4, 1)])
    (match exec (.registerWrite false (BitVec.ofNat 32 (EVC_PEND 0)) ⟨0x18, 0x10⟩) s with
     | .next t => !t.chip.isPending 3 && t.chip.isPending 4
     | _ => false) = true := by decide +kernel

/-- Reads of the banks up to their last word, of a register, of an input's queue and of a flash window of 17 words (R437,
R457, R510). -/
theorem test_read_premises :
    let s := dev (aiIs 0 { running := true, queue := [1, 2] })
    s.chip.portOpen = true ∧ s.chip.bankOpen 0x1FFFFFC ∧ s.chip.host.queue = [] ∧ PWR_VIN ∈ plainReads ∧ 2 ≤ (s.chip.aiOf 0).queue.length ∧
    (s.chip.aiOf 0).drain = 0 ∧ s.chip.is (XS_STAT_NODEV 0) = false ∧ s.chip.is (XS_STAT_FBUSY 0) = false ∧ (s.chip.xs 0).fails = 0 ∧ placeOf 0x4000000 = .window 0 ∧ placeOf (0x4000000 + 4 * 15) = .window 0 ∧
    (∀ p ∈ s.chip.host.queue, s.chip.bankOpen p.addr.toNat) :=
  ⟨by decide, ⟨by decide, by decide, by decide, by decide, by decide⟩, by decide, by decide +kernel, by decide, by decide, by decide, by decide,
    by decide, by decide, by decide, fun p h => absurd h List.not_mem_nil⟩

/-- An RDF whose first clocks are a width reset, and one whose are not; a queue of 64 posted words whose oldest may leave
(R504, R657). -/
theorem test_host_port_premises :
    let p : Posted := { txn := 1, addr := 0x1000000, value := 0, counted := false }
    let s := dev fun c => { c with host := { c.host with queue := List.replicate 64 p } }
    (dev (flds [(HST_CFG_WIDTH, 1)])).chip.is HST_CFG_WIDTH = true ∧ (0x11111104 : Word) &&& 0x11111100 = 0x11111100 ∧
    (0x01111104 : Word) &&& 0x11111100 ≠ 0x11111100 ∧ s.chip.host.queue.length = 64 ∧ s.chip.bankOpen (p.addr.toNat) ∧
    (s.chip.rm (bankRegion p.addr.toNat)).wbuf.length < 32 ∧ s.chip.portOpen = true ∧ s.chip.pwrState < 2 ∧
    s.chip.host.queue = p :: List.replicate 63 p :=
  ⟨by decide, by decide, by decide, by decide +kernel, ⟨by decide, by decide, by decide, by decide, by decide⟩, by decide, by decide,
    by decide, by decide +kernel⟩

/-- A flash window whose port is busy with a program (R458). -/
theorem test_held_window_premises :
    let s := dev fun c => { flds [(XS_STAT_FBUSY 0, 1)] c with rep := { c.rep with xs0 := { op := some { op := 1, addr := 0, data := [1] } } } }
    s.chip.portOpen = true ∧ s.chip.host.queue = [] ∧ s.chip.is (XS_STAT_NODEV 0) = false ∧ s.chip.is (XS_STAT_FBUSY 0) = true ∧
    (s.chip.xs 0).op.isSome = true := by decide

/-- Reset's buffers hold nothing, so they are sound; a buffered word is read back by port B. -/
theorem test_port_word :
    (dev (rmIs { wbuf := [(0x1000000, 1), (0x1000000, 2)] })).portWord 0x1000000 = 2 ∧ State.reset.portWord 0x1000000 = 0 := by decide

/-- Event frames: a bad selector, a short one, and frames that fill the last places of lane A (R515, R516). -/
theorem test_event_port_premises :
    let s := dev fun c => { c with ez := { c.ez with laneA := List.replicate 126 (entry0 3) } }
    s.chip.portOpen = true ∧ s.chip.pwrState < 2 ∧ (1 : Word) ≠ 0 ∧ (1 : Word) ≠ 0x10000000 ∧
    ([1, 2] : List Word).length < frameLen 0 [1, 2] ∧ (s.chip.ez.lane 0).length + 2 ≤ 128 ∧ (List.replicate 6 (0 : Word)).length = 3 * 2 ∧
    (0x99 : Byte) ∉ [0x00, 0x02, 0x12, 0x0B, 0x1B, 0x20, 0x21, 0x22, 0xFF] ∧ State.reset.chip.fld HST_CFG_WIDTH = 0 ∧
    (dev (flds [(HST_CFG_WIDTH, 1)])).chip.fld HST_CFG_WIDTH = 1 := by decide +kernel

/-- Outside Hold the IRQ pins follow the sources: one pending and enabled, and none (R519 to R521). -/
theorem test_irq_premises :
    let c := (dev (flds [(evBit 127, 1), (⟨EVC_EN0 3, 31, 1⟩, 1)])).chip
    c.pwr.irqHold = none ∧ c.isPending 127 = true ∧ (c.reg (EVC_EN0 (127 / 32))).getLsbD (127 % 32) = true ∧ c.irq 0 = true ∧
    State.reset.chip.irq 0 = false := by decide +kernel

/-- Pins with VIN and VIO and without: a pin driven and one not, an IRQ pin before step 0x06 and from it, and HRDY before its port
opens (R616, R617). -/
theorem test_pin_premises :
    let c := State.reset.chip
    let o := (dev fun c => { c with boot := { c.boot with step := 0x0E } }).chip
    let r := (dev fun c => { saIs 1 { running := true } c with boot := { c.boot with step := 0x0E } }).chip
    let b := (dev fun c => { c with boot := { c.boot with step := 3 } }).chip
    c.pwr.vin = true ∧ (dev fun c => { c with pwr := { c.pwr with vin := false } }).chip.pwr.vin = false ∧
    r.drives (.saD 1) = true ∧ (o.saOf 1).running = false ∧ r.alive = true ∧ o.drives (.saD 1) = false ∧ o.portOpen = true ∧
    b.portOpen = false ∧ b.pull true (.irq 0) = some true ∧ o.pull true (.irq 0) = none ∧ b.drives .hrdy = false := by decide +kernel

/-! ### Resets and boot -/

/-- What the sequencer meets, stalled in a step. -/
def env0 (k : Nat) : BootEnv :=
  { straps := 0, bkc := true, bka := true, bk := 15, xti0 := 25000000, xti1 := 25000000, epll0 := true, epll1 := true, apll := true
    fuse0 := true, fuse1 := true, store := true, xa := ⟨true, true, true, 8⟩, xb := ⟨true, true, true, 8⟩, findings := [], us := 0
    stall := some k }

/-- Resets with VIN present and absent, after a held reset, with BKC out, with chip code 0x40, after the eighth attempt and after
standing aside (R526, R531, R536, R597). -/
theorem test_reset_premises :
    (env0 1).stall = some 1 ∧ State.reset.chip.pwr.vin = true ∧ State.reset.chip.boot.buckOff = false ∧ State.reset.chip.boot.attempts ≠ 8 ∧
    State.reset.chip.pwr.held = false ∧ (dev fun c => { c with pwr := { c.pwr with held := true } }).chip.pwr.held = true ∧
    fieldOf 0xB0070001 16 16 = 0xB007 ∧ (0xB0070001 : Word).getLsbD 0 = true ∧ (dev (bootIs { chip := 0x40 })).chip.boot.chip = 0x40 ∧
    (dev (bootIs { chip := 0x40 })).chip.clocked = true ∧ (dev (bootIs { buckOff := true })).chip.boot.buckOff = true ∧
    (dev (bootIs { attempts := 8 })).chip.clocked = true ∧ (dev (bootIs { attempts := 8, step := 15 })).chip.boot.step = 15 ∧
    State.reset.chip.boot.chip ≠ 0x40 := by decide

/-- BOOT_CTL: refused for its key, for CONT outside step 0x0A, for slot 3; CLRHIST, CONT and LOAD that are taken (R545). -/
theorem test_boot_ctl_premises :
    let at_ (k : Nat) := dev (bootIs { step := k })
    fieldOf 0xB0060010 16 16 ≠ 0xB007 ∧ (State.reset.chip.boot.step ≠ 0x0A ∧ (0xB0070002 : Word).getLsbD 1 = true) ∧ fieldOf 0xB0070304 8 2 = 3 ∧
    fieldOf 0xB0070010 8 2 ≠ 3 ∧ (0xB0070010 : Word).getLsbD 0 = false ∧ (0xB0070010 : Word).getLsbD 2 = false ∧
    (at_ 0x0A).chip.clocked = true ∧ (at_ 0x0A).chip.boot.step = 0x0A ∧ (0xB0070204 : Word).getLsbD 2 = true ∧
    (0xB0070204 : Word).getLsbD 1 = false ∧ fieldOf 0xB0070204 8 2 = 2 ∧ (at_ 0x0E).chip.boot.step = 0x0E ∧ (env0 0x0B).stall = some 0x0B ∧
    (env0 0x0C).stall = some 0x0C ∧ (dev fun c => bootIs { step := 14 } (runs c)).chip.stopped = false := by decide

/-- A step that takes too long with a level left, one of the first three with none, and no step under way (R529 to R531, R536). -/
theorem test_boot_timeout_premises :
    let at_ (k l : Nat) := dev (bootIs { step := k, levels := [(k, l)] })
    (at_ 7 1).chip.alive = true ∧ (at_ 7 1).chip.boot.loading = none ∧ (at_ 7 1).chip.boot.underWay = some 7 ∧ (env0 7).stall = some 7 ∧
    tabGet (at_ 7 1).chip.boot.levels 0 7 < maxLevel 7 ∧ (at_ 3 1).chip.boot.underWay = some 3 ∧
    maxLevel 3 ≤ tabGet (at_ 3 1).chip.boot.levels 0 3 ∧ State.reset.chip.boot.underWay = none := by decide

/-- Cells of consecutive bytes. -/
def cellsOf : Nat → List Byte → Tab Byte
  | _, [] => []
  | a, b :: r => (a, b) :: cellsOf (a + 1) r

/-- The header of a primer, laid out by R46. -/
def header0 : List Byte :=
  [0x47, 0x56, 0x50, 0x52, 1, 0, 64, 0, 0xC0, 1, 0, 0, 0, 0, 0, 0, 3, 0, 0, 0, 0x40, 0, 0, 0, 0x80, 1, 0, 0, 0, 0, 0, 0] ++
  [1, 0, 0, 0, 0, 0, 0, 0, 0x94, 0xD5, 0xB9, 0xD8, 0, 0, 0, 0, 0, 0, 0, 0, 0, 0, 0, 0, 0, 0, 0, 0, 0xF8, 0x28, 0xDB, 0xDA]

/-- Its section table of three sections (R49). -/
def table0 : List Byte :=
  [3, 0, 0, 0, 0x70, 0, 0, 0, 0x28, 0, 0, 0, 0x86, 0x52, 0x5E, 0xCA, 5, 0, 0, 0, 0x98, 0, 0, 0, 0x10, 0, 0, 0, 0xA5, 0xCD, 0x25, 0x3B] ++
  [6, 0, 0, 0, 0xA8, 0, 0, 0, 0x18, 1, 0, 0, 0xA9, 0x71, 0x1A, 0x9E]

/-- A contour set, a wiring of one wire to the voice output and a voice template (R57, R58, R60). -/
def sections0 : Tab Byte :=
  cellsOf 112 ([0x28, 0, 0, 0, 0, 0, 0, 0, 0, 2, 0, 0x40] ++ List.replicate 28 0 ++ [0x10, 0, 0, 0, 0, 0, 0, 0, 1, 0, 0, 0, 0, 0x90, 0, 0]) ++
  cellsOf 168 [0x18, 1, 0, 0, 0, 0, 0, 0, 1, 0, 0, 0] ++ cellsOf 186 [0] ++ cellsOf 188 (List.replicate 260 0)

/-- A device that loads slot 0, with that primer there or with erased flash. -/
def loadDev (image : Bool) : State :=
  { dev (fun c => bootIs { step := 0x0E, loading := some (0, 0) } c) with
    nv := if image then { xa := cellsOf 0 (header0 ++ table0) ++ sections0 } else {} }

/-- Its CRCs are those of R70. -/
theorem test_primer_header : (crc32 (header0.take 60)).toNat = 0xDADB28F8 ∧ (crc32 table0).toNat = 0xD8B9D594 := by decide +kernel

set_option maxRecDepth 20000 in
/-- A run-time load whose image passes every check of R79. -/
theorem test_load_ok :
    (match loadImage ((loadDev true).loadCtx 0) ((loadDev true).image 0) with
     | .ok x => x.regs == [] && decide (x.mode < 3)
     | .error _ => false) = true := by decide +kernel

/-- One that finds erased flash, and one that waits for the engine's stop. -/
theorem test_load_error :
    let s := loadDev false
    let w := { s with chip := { s.chip with clk := { s.chip.clk with stopAt := some 1 } } }
    s.chip.clocked = true ∧ s.chip.boot.step = 0x0E ∧ s.chip.clk.stopAt = none ∧ s.chip.pal.loaded = false ∧ s.chip.boot.loading = some (0, 0) ∧
    (match loadImage (s.loadCtx 0) (s.image 0) with
     | .error e => e == (0x01, 0x1FF)
     | .ok _ => false) = true ∧ w.chip.clk.stopAt ≠ none ∧ State.reset.chip.boot.loading = none := by decide +kernel

/-- VIO low as BKC returns and while held; a timeout of step 7 with GP1 = 1 (R531, R593, R597). -/
theorem test_vio_premises :
    (dev fun c => { c with pwr := { c.pwr with vioLow := true } }).chip.pwr.vioLow = true ∧ State.reset.chip.pwr.vioLow = false ∧
    (let b := (dev (bootIs { step := 7, straps := 2 })).chip.boot
     b.straps / 2 % 2 = 1 ∧ max 1 (tabGet b.levels 0 7) < maxLevel 7 ∧ b.underWay = some 7) ∧
    (let f := { loadDev false with chip := (loadDev false).chip.set1 (XS_STAT_FBUSY 0) }
     f.chip.is (XS_STAT_FBUSY 0) = true ∧ f.chip.boot.loading = some (0, 0)) := by decide

/-! ### Faults, spares and the cell walk -/

/-- An entry selected for a block that is able, for one halted, and none; a load that runs and one that does not (R548, R549). -/
theorem test_revoke_premises :
    let s (h : Bool) := dev fun c => (blkIs 0 { block1 with halted := h } (runs c)).updRgn 0 fun x => { x with sel := [rentry 0] }
    let l (n : Bool) := dev fun c => paths [{ req0 with running := n }] c
    (s false).chip.clocked = true ∧ (∃ e ∈ ((s false).chip.rgn 0).sel, e.block = 0) ∧ ((s false).chip.blk 0).halted = false ∧
    ((s false).chip.blk 0).fenced = false ∧ ((s false).chip.blk 0).st ≠ .failed ∧ (s false).chip.ez.evicts = [] ∧
    ((s true).chip.blk 0).halted = true ∧ (State.reset.chip.rgn 0).sel = [] ∧
    ((l true).chip.rgn 0).loads = [{ req0 with running := true }] ∧ ((l false).chip.rgn 0).loads = [req0] ∧ req0.block = 0 := by decide

/-- The held fade of a failing block at its start, and that of a failed one at its last sample and past it; a region with a spare,
with none, and out of service (R350, R549, R550, R559). -/
theorem test_spare_premises :
    let f (n : Nat) : BlockFade := { heldKind := true, start := n }
    let s (n : Nat) (l : List (Field × Nat)) := dev fun c => { flds l (blkIs 0 { st := .failed, fenced := true } (runs c)) with
      cnv := { c.cnv with fades := [(0, some (f n))] } }
    let b := dev fun c => { sounding c with cnv := { c.cnv with fades := [(0, some (f 101))] } }
    tabGet b.chip.cnv.fades none 0 = some (f 101) ∧ (f 101).start = b.chip.clk.smp + 1 ∧ (b.chip.blk 0).st ≠ .failed ∧
    (s 68 []).chip.clocked = true ∧ tabGet (s 68 []).chip.cnv.fades none 0 = some (f 68) ∧ (f 68).heldKind = true ∧
    (f 68).start + 32 ≤ (s 68 []).chip.clk.smp ∧ (s 69 []).chip.clk.smp < (f 69).start + 32 ∧ ((s 68 []).chip.blk 0).fenced = true ∧
    (s 68 []).chip.is (RGNn_FAULT_OOS 0) = false ∧ (s 68 []).chip.fld (RGNn_SPARE_FREE 0) ≠ 0 ∧
    (s 68 [(RGNn_SPARE_FREE 0, 0)]).chip.fld (RGNn_SPARE_FREE 0) = 0 ∧
    (s 68 [(RGNn_FAULT_OOS 0, 1)]).chip.is (RGNn_FAULT_OOS 0) = true ∧ (s 68 [(RGNn_SPARE_OUT 0, 23)]).chip.fld (RGNn_SPARE_OUT 0) = 23 := by
  decide +kernel

/-- Grants that port B takes back: of a load, of the DMA engine, of a step in phase 2 and in phase 3 (R438 to R442, R450). -/
theorem test_port_b_premises :
    let st (p : Nat) := dev fun c => { flds [(RST_STAT_PHASE, p)] c with rep := { c.rep with step := { on := true } } }
    let d := dev fun c => { flds [(DMAn_STAT_STATE 3, 1)] c with dmaLast := 3 }
    (loadDev false).chip.boot.loading = some (0, 0) ∧ State.reset.chip.boot.loading = none ∧ d.chip.dmaActive (d.chip.dmaLast % 16) = true ∧
    State.reset.chip.dmaActive (State.reset.chip.dmaLast % 16) = false ∧ (st 2).chip.rep.step.on = true ∧ (st 2).chip.fld RST_STAT_PHASE < 3 ∧
    (st 3).chip.fld RST_STAT_PHASE = 3 ∧ (st 3).chip.clocked = true := by decide

/-- A device whose cell walk stands as given over block 0 with its content. -/
def walkDev (w : CellWalk) (b : Block) : State := dev fun c => { blkIs 0 b (loaded (runs c)) with rep := { c.rep with walk := w } }

/-- A block of the walk's that is empty with template 0 resident. -/
def walkBlock : Block := { block1 with st := .empty, content := some { content1 with tmpl := tmpl0 } }

/-- A cell step in the walk's order, one of a cell ahead of it, and one that skips (R552, R554). -/
theorem test_cell_step_premises :
    let s := walkDev {} walkBlock
    let a := walkDev { ahead := [(0, 0, 6)] } walkBlock
    let k := walkDev { block := 23 } { walkBlock with fenced := true }
    s.chip.clocked = true ∧ s.chip.is RST_CCFG_EN = true ∧ s.chip.rep.walk.phase = .idle ∧ s.chip.pwrState = 0 ∧ s.chip.rep.walk.ahead = [] ∧
    (s.chip.blk 0).st = .empty ∧ (s.chip.blk 0).fenced = false ∧ (s.chip.blk 0).sc = .idle ∧ (s.chip.blk 0).scFailed = false ∧
    a.chip.rep.walk.ahead = [(0, 0, 6)] ∧ (k.chip.blk 0).fenced = true ∧ k.chip.rep.walk.block.val = 23 ∧
    (dev (flds [(RST_CCFG_EN, 0)])).chip.is RST_CCFG_EN = false := by decide

/-- A hold that a glaze keeps, and one with the glazes clear (R552). -/
theorem test_cell_hold_premises :
    let g := dev fun c => { (walkDev { phase := .hold } walkBlock).chip.setSlot 16 { role := .glaze 0 false } with ctr := c.ctr }
    let s := walkDev { phase := .hold } walkBlock
    g.chip.clocked = true ∧ g.chip.rep.walk.phase = .hold ∧ (g.chip.slot 16).occupied = true ∧ (s.chip.slot 16).occupied = false ∧
    (s.chip.slot 17).occupied = false ∧ (s.chip.blk 0).glzRes = 0 ∧
    ((walkDev { phase := .hold } { walkBlock with glzRes := 1 }).chip.blk 0).glzRes ≠ 0 := by decide

/-- A handover of a used cell with a good image (its CRC is that of no words) and with a bad one (R553, R557, R654). -/
theorem test_handover_premises :
    let s := walkDev { phase := .hold, cell := 6 } walkBlock
    let tp : Content := { content1 with tmpl := tmpl0 }
    let bad : Content := { content1 with tmpl := { tmpl0 with id := 3, contour := 0 } }
    let ws (tp : Content) := (List.range (s.chip.pal.imageSize tp.tmpl 0)).map fun i =>
      s.mem.rd (contentAddr 0 (s.chip.pal.imageBase tp.tmpl.id 0 + i))
    (s.chip.blk 0).content = some tp ∧ s.chip.rep.walk.cell < 8 ∧ tp.uses s.chip.rep.walk.cell = true ∧
    crcWords (ws tp).dropLast = (ws tp).getLast?.getD 0 ∧
    ((walkDev { phase := .hold, cell := 6 } { walkBlock with content := some bad }).chip.blk 0).content = some bad ∧ bad.uses 6 = true ∧
    crcWords (ws bad).dropLast ≠ (ws bad).getLast?.getD 0 ∧ ((walkDev { phase := .hold } { walkBlock with st := .gated }).chip.blk 0).st = .gated := by
  decide +kernel

/-- Tests and handbacks: of a cell and of the standby cell, in each follow-up, and a step of an unused cell (R553, R555, R557). -/
theorem test_cell_test_premises :
    let s (c f : Nat) (p : CellPhase) := walkDev { phase := p, cell := c, follow := f } { walkBlock with scCell := 4 }
    (s 8 1 .test).chip.rep.walk.phase = .test ∧ (s 8 1 .test).chip.rep.walk.follow = 1 ∧ ((s 8 1 .test).chip.blk 0).scCell < 8 ∧
    (s 8 4 .test).chip.rep.walk.follow = 4 ∧ (s 4 0 .test).chip.rep.walk.cell ≠ 8 ∧ (s 6 2 .shadowBack).chip.rep.walk.phase = .shadowBack ∧
    (s 6 3 .shadowBack).chip.rep.walk.follow = 3 ∧ ((s 4 0 .test).chip.blk 0).st = .empty ∧ ((s 4 0 .test).chip.blk 0).fenced = false ∧
    (s 5 2 .hold).chip.rep.walk.cell = 5 ∧ ({ content1 with tmpl := tmpl0 } : Content).uses 5 = false := by decide

/-- A handover of a block with no content, one of the standby cell, and one of a cell that the block does not use, with a good image
(R552 to R554). -/
theorem test_handover_unused :
    let s := walkDev { phase := .hold, cell := 5 } walkBlock
    let tp : Content := { content1 with tmpl := tmpl0 }
    let ws := (List.range (s.chip.pal.imageSize tp.tmpl 0)).map fun i => s.mem.rd (contentAddr 0 (s.chip.pal.imageBase tp.tmpl.id 0 + i))
    (s.chip.blk 0).content = some tp ∧ tp.uses s.chip.rep.walk.cell = false ∧ crcWords ws.dropLast = ws.getLast?.getD 0 ∧
    (walkDev { phase := .hold, cell := 8 } walkBlock).chip.rep.walk.cell = 8 ∧
    ((walkDev { phase := .hold, cell := 5 } { walkBlock with content := none }).chip.blk 0).content = none ∧
    (s.chip.blk 0).st = .empty ∧ (s.chip.blk 0).fenced = false ∧ (s.chip.blk 0).glzRes = 0 ∧ (s.chip.slot 16).occupied = false ∧
    (s.chip.slot 17).occupied = false := by decide +kernel

/-- A repair that joins 254 pending ones, and one that finds 255 (R566, R567). -/
theorem test_pending_premises :
    let r : Repair := ⟨1, 0, 5, 0, 0, 1⟩
    (List.replicate 254 r).length < 255 ∧ 255 ≤ (List.replicate 255 r).length := by decide +kernel

/-- Journal writes: with nothing pending, with one record pending, deferred by HOLD, with no device on XA; a map at the limit of
65,520 bytes; and one that ends (R568). -/
theorem test_journal_premises :
    let r : Repair := ⟨1, 0, 5, 0, 0, 1⟩
    let s (l : List (Field × Nat)) := dev fun c => { flds l c with rep := { c.rep with map := [r], pend := [r] } }
    (s []).chip.clocked = true ∧ (s []).chip.rep.pend ≠ [] ∧ (s []).chip.rep.jwrite = none ∧ (s []).chip.is RST_JCTL_HOLD = false ∧
    State.reset.chip.rep.pend = [] ∧ (s [(RST_JCTL_HOLD, 1)]).chip.is RST_JCTL_HOLD = true ∧ (s []).chip.is (XS_STAT_NODEV 0) = false ∧
    (s [(XS_STAT_NODEV 0, 1)]).chip.is (XS_STAT_NODEV 0) = true ∧ 8 * (mergeMap [r]).length ≤ 65520 ∧
    (dev fun c => { c with rep := { c.rep with jwrite := some ([r], 1) } }).chip.rep.jwrite = some ([r], 1) := by decide

/-! ### Power -/

/-- VIN at the edges of VINLOW and of its bands after 10 ms; a temperature at THWARN, below it and at 150 °C (R595, R607, R608). -/
theorem test_measure_premises :
    let s := dev fun c => { flds [(PWR_CFG_THWARN, 100)] c with pwr := { c.pwr with bandCnt1 := 100, bandCnt2 := 100 } }
    s.chip.clocked = true ∧ s.chip.pwr.lowArmed = true ∧ (4499#16).toNat < 4500 ∧ 4500 ≤ (4500#16).toNat ∧ (4599#16).toNat < 4600 ∧
    6500 ≤ (6500#16).toNat ∧ min (s.chip.pwr.bandCnt1 + 1) 101 = 101 ∧ (6199#16).toNat < 6200 ∧ 11500 ≤ (11500#16).toNat ∧
    (s.chip.fld PWR_CFG_THWARN : Int) ≤ (100#16).toInt ∧ (99#16).toInt < (s.chip.fld PWR_CFG_THWARN : Int) ∧ 150 ≤ (150#16).toInt ∧
    (dev fun c => { c with pwr := { c.pwr with lowArmed := false } }).chip.pwr.lowArmed = false := by decide +kernel

/-- A fall of VINBAND with a driving channel whose span needs the higher band, and with one whose span does not (R365, R376). -/
theorem test_band_fall :
    let s := dev (fun c => flds [(CV_STAT_VINBAND, 2), (CV_CFG_SPAN 0, 2), (CV_CFG_SPAN 1, 1)]
      (cvIs 0 { st := .driving } (cvIs 1 { st := .driving } c)))
    (match exec (.vinMeasure 11199) s with
     | .next t => (t.chip.cvOf 0).bandReq && !(t.chip.cvOf 1).bandReq
     | _ => false) = true := by decide +kernel

/-- Slack at OP1 and at OP2, in a region that dozes; a point above the one wanted; a region that may doze and one that may not
(R598 to R601). -/
theorem test_point_premises :
    let s (p : Nat) := dev fun c => { flds [(PWR_OPCFG_TH1, 24)] c with pwr := { c.pwr with point := [(0, p)] } }
    let d := dev fun c => c.forN 24 fun b c => blkIs b { st := .gated } c
    (s 1).chip.clocked = true ∧ (0 : Nat) ∉ (s 1).chip.pwr.dozing ∧ max 1 ((s 1).chip.wantPoint 0) < 2 ∧ 2 ≤ max 2 ((s 2).chip.wantPoint 0) ∧
    (s 2).chip.wantPoint 0 < tabGet (s 2).chip.pwr.point 0 0 ∧ d.chip.is (PWR_RGCFG_RDOZE 0) = true ∧ d.chip.is (RGNn_FAULT_OOS 0) = false ∧
    d.chip.pwr.standIn = none ∧ (0 : Nat) ∉ d.chip.pwr.dozing ∧ (∀ b, b < 24 → (d.chip.blk (blkKey 0 b)).st = .gated) ∧
    (d.chip.rm 0).rings = [] ∧ (d.chip.rm 0).wbuf = [] ∧ (d.chip.rm 0).fences = [] ∧ (State.reset.chip.blk 0).st = .empty ∧
    (0 : Nat) ∈ (dev fun c => { c with pwr := { c.pwr with dozing := [0] } }).chip.pwr.dozing := by decide +kernel

/-- Bucks: a region's that regulates and one that does not, a region out of service; BKA back at a try (R561, R597). -/
theorem test_buck_premises :
    let s := dev (flds [(⟨PWR_BUCK, 1, 1⟩, 1)])
    let a := dev fun c => { flds [(PWR_BUCK_BKA_OK, 0)] c with pwr := { c.pwr with convOff := true } }
    s.chip.alive = true ∧ (s.chip.reg PWR_BUCK).getLsbD (1 + 0) = true ∧ (s.chip.reg PWR_BUCK).getLsbD (1 + 1) = false ∧
    s.chip.is (RGNn_FAULT_OOS 0) = false ∧ (dev (flds [(RGNn_FAULT_OOS 0, 1)])).chip.is (RGNn_FAULT_OOS 0) = true ∧ (s.chip.blk 0).fenced = false ∧
    (s.chip.blk 0).st ≠ .failed ∧ a.chip.pwr.convOff = true ∧ a.chip.is PWR_BUCK_BKA_OK = false ∧ tabGet a.chip.boot.levels 0 1 = 0 ∧
    a.chip.pwrState = 0 ∧ a.chip.clocked = true ∧ (dev (flds [(AI_CFG_EN 0, 1)])).chip.is (AI_CFG_EN 0) = true := by decide

/-- Hold requests that meet each line of R603's table, and one that is accepted. -/
theorem test_hold_request_premises :
    let d := dev (flds [(DMAn_STAT_STATE 15, 1)])
    State.reset.chip.clocked = true ∧ State.reset.chip.pwrState = 0 ∧ (dev (power 1)).chip.pwrState ≠ 0 ∧ (dev runs).chip.stopped = false ∧
    State.reset.chip.stopped = true ∧ (∃ n, n < 16 ∧ d.chip.dmaActive n = true) ∧ (∀ n, n < 16 → State.reset.chip.dmaActive n = false) ∧
    (dev (flds [(XS_STAT_CBUSY 1, 1)])).chip.is (XS_STAT_CBUSY 1) = true ∧ State.reset.chip.is (XS_STAT_CBUSY 0) = false ∧
    State.reset.chip.is (XS_STAT_CBUSY 1) = false ∧ State.reset.chip.rep.jwrite = none ∧ (0x401C : BitVec 16) ≠ 0x401D ∧
    (loadDev false).chip.boot.loading.isSome = true ∧ State.reset.chip.boot.loading = none :=
  ⟨by decide, by decide, by decide, by decide, by decide, ⟨15, by decide, by decide⟩, by decide, by decide, by decide, by decide, by decide,
    by decide, by decide, by decide⟩

/-- A run-time load and a boot load under way; the Restorer in a bank step and in a cell step, and a region on BKC (R603, R604). -/
theorem test_hold_waits_premises :
    let l := (loadDev false).chip
    let b := (dev fun c => bootIs { step := 0x0C, loading := some (0, 0) } c).chip
    let r := (dev fun c => { power 1 c with rep := { c.rep with step := { on := true } } }).chip
    let w := (dev fun c => { power 1 c with rep := { c.rep with walk := { phase := .test } }, pwr := { c.pwr with standIn := some 1 } }).chip
    (l.boot.loading.isSome = true ∧ l.boot.step = 0x0E) ∧ (b.boot.loading.isSome = true ∧ b.boot.step ≠ 0x0E) ∧ r.rep.step.on = true ∧
    r.pwrState = 1 ∧ r.pwr.wakeHold = false ∧ w.rep.walk.phase ≠ .idle ∧ w.pwr.standIn = some 1 ∧
    State.reset.chip.rep.step.on = false ∧ State.reset.chip.rep.walk.phase = .idle ∧ (0x401C : BitVec 16) ≠ 0x401D := by decide

/-- Hold's entry with a wake and without; each state that ends Hold; the pins that PWR_CFG selects (R604 to R606). -/
theorem test_hold_premises :
    let w := dev fun c => { power 1 c with pwr := { c.pwr with wakeHold := true } }
    let p := dev (flds [(⟨PWR_CFG, 16, 1⟩, 1), (PWR_CFG_GPWAKE, 1), (PWR_CFG_WAKEPIN, 7), (PWR_CFG_WAKEEDGE, 0)])
    (dev (power 1)).chip.pwrState = 1 ∧ (dev (power 1)).chip.pwr.wakeHold = false ∧ (dev (power 1)).chip.clocked = true ∧
    w.chip.pwr.wakeHold = true ∧ w.chip.pwrState = 1 ∧ (dev (power 2)).chip.pwrState = 2 ∧ (dev (power 2)).chip.alive = true ∧
    (dev (power 3)).chip.pwrState = 3 ∧ (dev (power 3)).chip.alive = true ∧ (p.chip.reg PWR_CFG).getLsbD (16 + 0) = true ∧
    (p.chip.reg PWR_CFG).getLsbD (16 + 1) = false ∧ p.chip.is PWR_CFG_GPWAKE = true ∧ p.chip.fld PWR_CFG_WAKEPIN = 7 ∧
    p.chip.is PWR_CFG_WAKEEDGE = !true ∧ (dev (power 3)).chip.pwr.convOff = false ∧
    (dev fun c => { power 3 c with pwr := { c.pwr with convOff := true } }).chip.pwr.convOff = true := by decide

/-! ### Saffron, debug and the TAP -/

/-- Store commands refused for each reason and taken, and one under way (R576 to R578). -/
theorem test_saffron_premises :
    let s (n : NonVol) : State := { State.reset with nv := n }
    let k : Tab KeySlot := [(2, { st := 1 })]
    let u := dev fun c => { c with saf := { c.saf with cmd := some (1, 2, List.replicate 16 7) } }
    State.reset.chip.clocked = true ∧ State.reset.chip.saf.cmd = none ∧ (0x5AFF : BitVec 16) ≠ 0x5AFE ∧ State.reset.nv.tleft ≠ 0 ∧
    (dev fun c => { c with saf := { c.saf with tamper := true } }).chip.saf.tamper = true ∧ (s { tleft := 0 }).nv.tleft = 0 ∧
    (tabGet (s { slots := k }).nv.slots ({} : KeySlot) 2).st = 1 ∧ (tabGet State.reset.nv.slots ({} : KeySlot) 2).st = 0 ∧
    (s { erased := true }).nv.erased = true ∧ (s { signreq := true }).nv.signreq = true ∧ (s { dbgHash := some [] }).nv.dbgHash.isSome = true ∧
    (s { dbgdis := true }).nv.dbgdis = true ∧ u.chip.saf.cmd = some (1, 2, List.replicate 16 7) ∧ State.reset.nv.dbgHash = none := by decide

/-- VERIFY's checks in turn up to the signature's, and the fourth failure (R583). -/
theorem test_verify_premises :
    let s (ch : Bool) (n : Nat) : State := { dev (fun c => { c with saf := { c.saf with chalOk := ch, fails := n } }) with nv := { dbgHash := some [] } }
    (s true 3).chip.clocked = true ∧ (s true 3).nv.dbgHash ≠ none ∧ (s true 3).nv.dbgdis = false ∧ (s true 3).chip.boot.loading = none ∧
    (s true 3).chip.saf.chalOk = true ∧ (s false 2).chip.saf.chalOk = false ∧ (s true 3).chip.saf.fails = 3 ∧ (s false 2).chip.saf.fails ≠ 3 ∧
    State.reset.nv.dbgHash = none ∧ (loadDev false).chip.boot.loading.isSome = true ∧ State.reset.chip.saf.tamper = false := by decide

/-- An erasure that may end and one that waits for the engine; a halt while unlocked and while locked (R585 to R587). -/
theorem test_unlock_premises :
    let s := dev fun c => { c with saf := { c.saf with unlocking := true } }
    let w := dev fun c => { c with saf := { c.saf with unlocking := true }, clk := { c.clk with stopAt := some 1 } }
    let u := dev fun c => { c with saf := { c.saf with unlocked := true } }
    s.chip.clocked = true ∧ s.chip.saf.unlocking = true ∧ s.chip.clk.stopAt = none ∧ s.chip.pal.loaded = false ∧ w.chip.clk.stopAt ≠ none ∧
    u.chip.saf.unlocked = true ∧ State.reset.chip.saf.unlocked = false ∧ (0x8017 : Word).getLsbD 15 = true ∧ fieldOf 0x8017 0 5 < 24 ∧
    ¬(fieldOf 0x8018 0 5 < 24) ∧ (0x10000 : Word).getLsbD 16 = true := by decide

/-- An easel halted already and one not; receivers with nothing queued; the Restorer in a step at an erasure; a halted block
whose halt is still to take effect, with a cell that runs and with none (R585 to R589). -/
theorem test_halt_write_premises :
    let z := (dev fun c => { c with ez := { c.ez with halted := true } }).chip
    let p := (dev fun c => { c with rep := { c.rep with step := { on := true } } }).chip
    let h := (dev fun c => blkIs 0 { block1 with halted := true, haltDue := true, cells := [(0, cell0)] } c).chip
    z.ez.halted = true ∧ State.reset.chip.ez.halted = false ∧ (∀ i, i < 4 → (State.reset.chip.midiOf i).rx = []) ∧ p.rep.step.on = true ∧
    (h.blk 0).halted = true ∧ (h.blk 0).haltDue = true ∧ ((h.blk 0).cell 0).running = true ∧ ((h.blk 0).cell 0).halted = false ∧
    (∀ u, u < 3 → ((State.reset.chip.blk 0).cell u).running = false) ∧ (∀ r, r < 4 → (State.reset.chip.rm r).wbuf.length ≤ 32) := by decide

/-- DBGACC: misaligned, with the device in Hold, of the DBG registers' first and last, locked and unlocked (R582). -/
theorem test_dbgacc_premises :
    let acc (wr : Bool) (a : Word) : BitVec 66 := (0 : BitVec 33) ++ a ++ BitVec.ofBool wr
    let u := dev fun c => { c with saf := { c.saf with unlocked := true } }
    State.reset.chip.pwr.vin = true ∧ ((acc true 0xB102).extractLsb' 1 32).toNat % 4 ≠ 0 ∧ (dev (power 2)).chip.clocked = false ∧
    ((acc false (BitVec.ofNat 32 DBG_STAT)).extractLsb' 1 32).toNat = DBG_STAT ∧ (acc false 0xB100).getLsbD 0 = false ∧ (acc true 0xB1FC).getLsbD 0 = true ∧
    ((acc true 0xB1FC).extractLsb' 1 32).toNat = 0xB1FC ∧ ¬(0xB100 ≤ 0xB0FC ∧ 0xB0FC < 0xB200) ∧ u.chip.saf.unlocked = true ∧
    HST_CFG ∈ plainRegs ∧ (u.chip.rm (bankRegion 0x1FFFFFC)).wbuf.length < 32 ∧ (u.chip.rm (bankRegion 0x1FFFFFC)).retained = false ∧
    bankRegion 0x1FFFFFC ∉ u.chip.pwr.oos := by decide +kernel

/-- The identification code that IDCODE captures (R581). -/
theorem test_idcode :
    (match exec .idcode State.reset with
     | .next t => decide (t.chip.tap.capture = 0x01536E5B)
     | _ => false) = true := by decide

end Sys2Proof.Tests
end

section
/-! The mode of the engine (chapter "Clocks and timebase", R28): what a write of EMODE does when it is taken and when it is
rejected, and O9. -/

namespace Sys2Proof.Machine

/-! ### A step that stores one field -/

/-- Storing a named field changes no more than the named fields. -/
theorem OnlyFields.setFld (s : State) {l : List Field} {f : Field} (hf : f ∈ l) (hw : f.lo + f.width ≤ 32) (v : Nat) :
    OnlyFields s { s with chip := s.chip.setFld f v } l :=
  ⟨rfl, (Chip.BitsKept.refl s.chip l).setFld hf hw v⟩

/-- A write to another register leaves a flag alone. -/
theorem Chip.is_setFld_ne (c : Chip) {f g : Field} (v : Nat) (h : g.addr ≠ f.addr) : (c.setFld f v).is g = c.is g := by
  rw [Chip.is, c.fld_setFld_ne v h, Chip.is]

/-! ### EMODE (R28) -/

variable {c : Chip} {mode : Nat}

/-- A mode other than 0b11 is taken while STOPPED = 1. -/
theorem Chip.emodeWrite_taken (hs : c.stopped = true) (hm : mode < 3) : c.emodeWrite mode = c.setFld CLK_CFG_EMODE mode :=
  if_pos (by simp [hs, hm])

/-- Any other write sets MODE_REJ and does nothing else. -/
theorem Chip.emodeWrite_rejected (h : ¬(c.stopped = true ∧ mode < 3)) : c.emodeWrite mode = c.set1 CLK_STAT_MODE_REJ :=
  if_neg (by simpa using h)

/-- A two-bit mode is one of the three that R27 names exactly when it is not 0b11. -/
theorem mode_lt_three_iff (m : BitVec 2) : m.toNat < 3 ↔ m ≠ 3 := by bv_omega

/-- EMODE_WRITE on a clocked device writes EMODE and touches nothing beside the device. -/
theorem exec_emodeWrite {s : State} (m : BitVec 2) (h : s.chip.clocked = true) :
    exec (.emodeWrite m) s = .next { s with chip := s.chip.emodeWrite m.toNat } :=
  act_clocked (f := fun c => c.emodeWrite m.toNat) h

/-- Settles O9: a taken write stores EMODE, whose register holds no MODE_REJ; a rejected one sets MODE_REJ, whose register holds
no EMODE. -/
theorem modeChangesOnlyWhenStopped : Obligations.ModeChangesOnlyWhenStopped := by
  intro s mode hclk
  refine ⟨_, exec_emodeWrite mode hclk, ?_⟩
  by_cases htake : s.chip.stopped = true ∧ mode ≠ 3
  case pos =>
    obtain ⟨hstop, hmode⟩ := htake
    have hlt : mode.toNat < 3 := (mode_lt_three_iff mode).mpr hmode
    have hfits : mode.toNat % 2 ^ CLK_CFG_EMODE.width = mode.toNat := Nat.mod_eq_of_lt mode.isLt
    rw [Chip.emodeWrite_taken hstop hlt]
    refine ⟨.setFld s (by simp) (by decide) _, fun _ => ⟨?_, ?_⟩, fun hrej => ?_⟩
    · rw [Chip.fld_setFld_self _ (by decide), hfits]
    · exact Chip.is_setFld_ne _ _ (by decide)
    · rcases hrej with hrun | hthree
      · simp [hstop] at hrun
      · exact absurd hthree hmode
  case neg =>
    have hrej : ¬(s.chip.stopped = true ∧ mode.toNat < 3) := by rwa [mode_lt_three_iff]
    rw [Chip.emodeWrite_rejected hrej]
    refine ⟨.setFld s (by simp) (by decide) 1, fun h => absurd h htake, fun _ => ⟨?_, ?_⟩⟩
    · exact Chip.fld_setFld_ne _ _ (by decide)
    · exact Chip.is_set1 _ (by decide) (by decide)

end Sys2Proof.Machine
end

section
/-! Event sources, the IRQ pins and the reset pulls (chapters "Host port and events", R519 to R522, and "Pins and package", R616 and
R617): what a raise does, which source EVC_NEXT names, and O51. -/

namespace Sys2Proof.Machine

variable {c : Chip} {k n : Nat} {vio : Bool} {p : Pin}

/-! ### Raising a source (R519, R522) -/

/-- Raising a source changes no more than its pending bit. -/
theorem OnlyFields.raise (s : State) (n : Nat) : OnlyFields s { s with chip := s.chip.raise n } [evBit n] :=
  ⟨rfl, (Chip.BitsKept.refl s.chip _).raise (by simp)⟩

/-- The owner's raise and EVC_RAISE do the same. -/
theorem exec_raise {s : State} (i : BitVec 7) (raise : Bool) (h : s.chip.clocked = true) :
    exec (if raise then .evcRaise i else .eventSourceRaise i) s = .next { s with chip := s.chip.raise i.toNat } := by
  cases raise <;> exact act_clocked (f := fun c => c.raise i.toNat) h

/-! ### The sources active on an IRQ pin (R520, R521) -/

/-- Is a source's bit set in EVC_ACT of pin k (R520)? -/
def Chip.evcActive (c : Chip) (k n : Nat) : Bool := (c.evcAct k (n / 32)).getLsbD (n % 32)

/-- A source is pending when its bit of EVC_PEND is set. -/
theorem Chip.isPending_eq_getLsbD (c : Chip) (n : Nat) : c.isPending n = (c.reg (EVC_PEND (n / 32))).getLsbD (n % 32) := by
  simp [Chip.isPending, Chip.is, Chip.fld, evBit, BitVec.getLsbD, Nat.testBit_eq_decide_div_mod_eq]

/-- A source is active on a pin when it is pending and enabled to it. -/
theorem Chip.evcActive_iff : c.evcActive k n = true ↔ c.isPending n = true ∧
    (c.reg (if k = 0 then EVC_EN0 (n / 32) else EVC_EN1 (n / 32))).getLsbD (n % 32) = true := by
  rw [Chip.evcActive, Chip.evcAct, BitVec.getLsbD_and, Bool.and_eq_true, c.isPending_eq_getLsbD]

/-- The lowest active source is the first one that a search from source 0 meets. -/
theorem Chip.evcLowest_eq_find? (c : Chip) (k : Nat) : c.evcLowest k = (List.range 128).find? (c.evcActive k) := rfl

theorem Chip.evcLowest_eq_some_iff : c.evcLowest k = some n ↔
    n < 128 ∧ c.evcActive k n = true ∧ ∀ m, m < n → ¬c.evcActive k m = true := by
  rw [Chip.evcLowest_eq_find?, List.find?_range_eq_some]
  simp [and_left_comm]

theorem Chip.evcLowest_eq_none_iff : c.evcLowest k = none ↔ ∀ n, n < 128 → ¬c.evcActive k n = true := by
  rw [Chip.evcLowest_eq_find?, List.find?_range_eq_none]
  simp

/-- Outside Hold a pin is asserted exactly while a source is active on it. -/
theorem Chip.irq_iff (h : c.pwr.irqHold = none) : c.irq k = true ↔ ∃ n, n < 128 ∧ c.evcActive k n = true := by
  have hsome : c.irq k = (c.evcLowest k).isSome := by rw [Chip.irq, h]
  rw [hsome, Option.isSome_iff_ne_none, Ne, Chip.evcLowest_eq_none_iff]
  push Not
  rfl

/-- With a lowest active source, EVC_NEXT reads VALID = 1 and its index. -/
theorem Chip.evcNext_of_lowest (h : c.evcLowest k = some n) : c.evcNext k = BitVec.ofNat 32 (2 ^ 31 + n) := by
  rw [Chip.evcNext, h]
  rfl

/-- With no active source, EVC_NEXT reads 0. -/
theorem Chip.evcNext_of_none (h : c.evcLowest k = none) : c.evcNext k = 0 := by
  rw [Chip.evcNext, h]

/-! ### Reset pulls and HRDY (R616, R617) -/

/-- On an IRQ pin the pull depends on the port, and not on what the pin drives. -/
theorem Chip.pull_irq (c : Chip) (vio : Bool) (k : Fin 2) :
    c.pull vio (.irq k) = if c.pwr.vin && vio && !c.portOpen then Pin.resetPull (.irq k) else none := rfl

/-- On every other pin the pull is present where the device does not drive. -/
theorem Chip.pull_of_not_irq (hp : ¬∃ k, p = .irq k) :
    c.pull vio p = if c.pwr.vin && vio && !c.drives p then p.resetPull else none := by
  cases p
  case irq k => exact absurd ⟨k, rfl⟩ hp
  all_goals rfl

theorem Chip.pull_unpowered (h : c.pwr.vin = false ∨ vio = false) : c.pull vio p = none := by
  refine if_neg ?_
  rcases h with hvin | hvio
  · simp [hvin]
  · simp [hvio]

theorem Chip.portOpen_of_drives_irq {k : Fin 2} (h : c.drives (.irq k) = true) : c.portOpen = true :=
  Bool.and_elim_left h

theorem Chip.pull_irq_portOpen (hp : ∃ k, p = .irq k) (ho : c.portOpen = true) : c.pull vio p = none := by
  obtain ⟨k, rfl⟩ := hp
  simp [Chip.pull_irq, ho]

theorem Chip.pull_driven (h : c.drives p = true) : c.pull vio p = none := by
  by_cases hp : ∃ k, p = .irq k
  case pos =>
    obtain ⟨k, rfl⟩ := hp
    exact Chip.pull_irq_portOpen ⟨k, rfl⟩ (Chip.portOpen_of_drives_irq h)
  case neg => simp [Chip.pull_of_not_irq hp, h]

theorem Chip.pull_present (hvin : c.pwr.vin = true) (hvio : vio = true) (hd : c.drives p = false)
    (hirq : (¬∃ k, p = .irq k) ∨ c.portOpen = false) : c.pull vio p = p.resetPull := by
  by_cases hp : ∃ k, p = .irq k
  case pos =>
    have hclosed : c.portOpen = false := hirq.resolve_left (not_not_intro hp)
    obtain ⟨k, rfl⟩ := hp
    simp [Chip.pull_irq, hvin, hvio, hclosed]
  case neg => simp [Chip.pull_of_not_irq hp, hvin, hvio, hd]

/-- Before the port opens, the pull-down holds HRDY low. -/
theorem Chip.hrdyPin_closed (hvin : c.pwr.vin = true) (hvio : vio = true) (hclosed : c.portOpen = false) :
    c.hrdyPin vio = some false := by
  have hd : c.drives .hrdy = false := hclosed
  rw [Chip.hrdyPin, hd, if_neg Bool.false_ne_true, Chip.pull_present hvin hvio hd (.inr hclosed)]
  rfl

/-- A port that does not run drives none of its pins. -/
theorem Chip.drives_sa_stopped (q : Fin 4) (h : (c.saOf q).running = false) :
    c.drives (.saBck q) = false ∧ c.drives (.saFs q) = false ∧ c.drives (.saD q) = false := by
  have hclock : c.saDrives q = false := by simp [Chip.saDrives, h]
  have hdata : c.saDataDriven q = false := by simp [Chip.saDataDriven, h]
  simp [Chip.drives, hclock, hdata]

/-- An output that runs drives its data pin. -/
theorem Chip.drives_saD_running (q : Fin 4) (ha : c.alive = true) (hq : q.val < 2) (h : (c.saOf q).running = true) :
    c.drives (.saD q) = true := by
  simp [Chip.drives, Chip.saDataDriven, ha, hq, h]

/-- Settles O51: a raise stores one bit of EVC_PEND; the IRQ condition and EVC_NEXT both follow the lowest active source; and the
pull of an IRQ pin turns on the port where that of every other pin turns on what the device drives. -/
theorem eventSources : Obligations.EventSources := by
  refine ⟨fun s i raise hclk => ?_, fun c k _ hout => ?_, fun c vio p => ?_⟩
  · exact ⟨_, exec_raise i raise hclk, .raise s _, s.chip.isPending_raise _⟩
  · simp only [← Chip.evcActive_iff]
    refine ⟨Chip.irq_iff hout, fun n hn hact hlow => ?_, fun hnone => ?_⟩
    · exact Chip.evcNext_of_lowest (Chip.evcLowest_eq_some_iff.mpr ⟨hn, hact, hlow⟩)
    · exact Chip.evcNext_of_none (Chip.evcLowest_eq_none_iff.mpr hnone)
  · exact ⟨Chip.pull_unpowered, Chip.pull_driven, Chip.pull_irq_portOpen, Chip.pull_present, Chip.hrdyPin_closed,
      Chip.drives_sa_stopped, Chip.drives_saD_running⟩

end Sys2Proof.Machine
end
